-- ==== Sys2Proof/Word.lean ====
section
/-! DEFINITION. The word types of the Dvorust instruction set and the device widths (01 R10, 03 R44). -/
namespace Sys2Proof

/-- A 64-bit instruction word or register value (03 R44, 06 R97). -/
abbrev Word := BitVec 64
/-- A byte of memory. -/
abbrev Byte := BitVec 8
/-- One bit per lane; the CN9 has W = 64 lanes (00 R1). -/
abbrev LaneMask := BitVec 64

end Sys2Proof
end

