-- ==== Sys2Proof/Syntax/Types.lean ====
section
/-! DEFINITION. The operand forms, types and suffixes that instructions carry (03 R46-R55, 06 R110-R121, 07, 10). -/
namespace Sys2Proof

/-- The TYPE codes of 03 R47, in code order. -/
inductive Ty where
  | s32 | s64 | s16 | s8 | n32 | n64 | n16 | n8 | f32 | f16 | bf16 | t8 | t6
deriving DecidableEq, Repr

/-- The rounding modes of 05 R80, in the code order of RND (03 R47). -/
inductive Rnd where
  | rn | rz | rup | rdn
deriving DecidableEq, Repr

/-- A 10-bit operand specifier in one of the forms of 03 R50. -/
inductive Operand where
  /-- plain vector register v0-v255 -/
  | v (n : BitVec 8)
  /-- scalar register s0-s63 -/
  | s (n : BitVec 6)
  /-- special operand of code k (03 R51) -/
  | sp (k : BitVec 7)
  /-- indexed vector register v[xi+o] (03 R52) -/
  | vx (i : BitVec 2) (o : BitVec 6)
  /-- signed 8-bit immediate (03 R53) -/
  | imm (k : BitVec 8)
deriving DecidableEq, Repr

/-- The fields every full word carries (03 R44): lookahead, gap, give-way, guard and guard negate.
A word of subformat FB has no LA and no GAP field: both are zero there (03 R49). -/
structure Hdr where
  la : BitVec 4
  gap : BitVec 2
  gw : Bool
  guard : BitVec 3
  gn : Bool
deriving DecidableEq, Repr

/-- Integer compare conditions (06 R112). -/
inductive ICond where
  | eq | ne | lt | le | gt | ge
deriving DecidableEq, Repr

/-- Floating-point compare conditions (06 R115). -/
inductive FCond where
  | eq | ne | lt | le | gt | ge | un | ord
deriving DecidableEq, Repr

/-- Branch kinds (03 R49, 07 R132). -/
inductive BraKind where
  | lane | any | all
deriving DecidableEq, Repr

/-- MOVI sub-operations (06 R113). -/
inductive MoviSub where
  | sx | zx | hi
deriving DecidableEq, Repr

/-- Destination of MOV by its destination class (06 R113). -/
inductive MovDst where
  | reg (d : Operand) | pred (k : BitVec 3) | idx (i : BitVec 2)
deriving DecidableEq, Repr

/-- Source of MOV by its source class (06 R113). -/
inductive MovSrc where
  | op (a : Operand) | pred (k : BitVec 3)
deriving DecidableEq, Repr

/-- SHFL modes (07 R124). -/
inductive ShflMode where
  | up | down | xor | rot
deriving DecidableEq, Repr

/-- SHFL offset: absolute from b, or relative to W (07 R124). -/
inductive ShflOff where
  | abs (b : Operand) | w1 | w2 | w4 | w8 | w16
deriving DecidableEq, Repr

/-- BCAST source lane: Src(b) mod W, or the lowest active lane (07 R125). -/
inductive BcastSel where
  | lane (b : Operand) | first
deriving DecidableEq, Repr

/-- VOTE modes with their destinations (07 R127). -/
inductive VoteDst where
  | mask (d : Operand) | count (d : Operand) | first (d : Operand)
  | some (p : BitVec 3) | every (p : BitVec 3) | same (p : BitVec 3)
deriving DecidableEq, Repr

/-- RED and SCAN combining operations (07 R128). -/
inductive RedOp where
  | add | min | max | and | or | xor | popc
deriving DecidableEq, Repr

/-- Scopes (03 R48, 11 R212). -/
inductive Scope where
  | warp | wg | core | die | dev | host | fab
deriving DecidableEq, Repr

/-- Memory order of a word (03 R48): a scope stands only where the order is not plain. -/
inductive Order where
  | plain | acq (s : Scope) | rel (s : Scope) | ar (s : Scope) | sc (s : Scope)
deriving DecidableEq, Repr

/-- Full-empty mode of a scratchpad access (03 R48). -/
inductive FeMode where
  | none | keep | take | fill
deriving DecidableEq, Repr

/-- Space of an FM access with what its flags select (03 R48). -/
inductive Space where
  | g | sp (fe : FeMode) | acc (hi : Bool)
deriving DecidableEq, Repr

/-- Access width of an FM word (03 R46). -/
inductive Width where
  | w8 | w16 | w32 | w64 | w128
deriving DecidableEq, Repr

/-- ATOM operations (10 R195). -/
inductive AtomOp where
  | add | min | max | and | or | xor | xchg | ld | st
deriving DecidableEq, Repr

/-- REDM operations (10 R197). -/
inductive RedmOp where
  | add | min | max | and | or | xor
deriving DecidableEq, Repr

/-- FENCE kinds (10 R200). -/
inductive FenceOrd where
  | sc | acq | rel | ar
deriving DecidableEq, Repr

/-- TSWEEP operations (10 R209); `copy` names the destination nest. -/
inductive SweepOp where
  | copy (nd : BitVec 4) | add | min | max
deriving DecidableEq, Repr

/-- NSET forms (10 R208): word k from a, or all 64 bytes from the scratchpad. -/
inductive NsetForm where
  | word (k : BitVec 3) | sp
deriving DecidableEq, Repr

/-- DGRD selectors (17 R325). -/
inductive DgSel where
  | status | laneA | laneB
deriving DecidableEq, Repr

/-- Operations with a half form (03 R54, R60). -/
inductive HalfOp where
  | iadd | isub | imul | imin | imax | and | or | xor | andn | shl | shr | sar | rot | mov
  | fadd | fsub | fmul | fmin | fmax | hadd2 | hmul2
deriving DecidableEq, Repr

/-- One half of a pair word (03 R54). -/
structure Half where
  op : HalfOp
  guard : BitVec 3
  d : BitVec 8
  b : Operand
  ty : Ty
deriving DecidableEq, Repr

/-- A ring chunk's phase (17 R313): being reduced, or the finished result passing around. -/
inductive RingPhase where
  | reduce | gather
deriving DecidableEq, Repr

/-- The elements a collective carries: FP32 or BF16 bit patterns, or T8 lines with their headers (17 R312, R314). -/
inductive CollData where
  | f32 (xs : List (BitVec 32))
  | bf16 (xs : List (BitVec 16))
  | t8 (lines : List (BitVec 16 × List Byte))
deriving DecidableEq, Repr

/-- What the package flash holds (01 R12; 18 R339): whether every image and the configuration manifest verify, the version that is
held against the rollback counter, the measured images, and of the manifest the usable banks of cores that have fewer than 128
and the enabled CXL ports. -/
structure FlashImage where
  verifies : Bool := true
  version : Nat := 0
  boot : List Byte := []
  firmware : List Byte := []
  manifest : List Byte := []
  banks : List (Nat × Nat) := []
  ports : BitVec 4 := 15
  eth : BitVec 4 := 15
  links : BitVec 128 := BitVec.allOnes 128
deriving DecidableEq, Repr

/-- What the messages of a collective show of the sender's descriptor: OP, TYPE, METHOD, COUNT, VOTE and the slice count (17 R311). -/
structure CollInfo where
  op : Nat
  ty : Nat
  method : Nat
  count : Nat
  vote : Bool
  slices : Nat
deriving DecidableEq, Repr

/-- A message of a collective: its values, and what its header shows of the sender's descriptor (17 R311, R313, R314). -/
structure CollMsg where
  data : CollData
  info : CollInfo
deriving DecidableEq, Repr

/-- A digest vote triple: slot, lane A, lane B (17 R322). -/
structure VoteTriple where
  slot : Nat
  laneA : Word
  laneB : Word
deriving DecidableEq, Repr

/-- The requests of a host agent to device memory (11 R222). -/
inductive HostAccess where
  | read (n : Nat) | write (bytes : List Byte)
deriving DecidableEq, Repr

end Sys2Proof
end

