-- ==== Sys2Proof/Syntax.lean ====
section
/-! DEFINITION. The instructions and steps of the Celarneri CN9: one constructor per row of spec/opcode_table.json.
The constructors up to `pmrd` are instruction words with their decoded fields; `illegal` is the issue of a word that
is not an instruction; the others are the steps of engines, firmware, host and links, with what each step names. -/
namespace Sys2Proof

inductive Instr where
  -- control and system, majors 0x01-0x0F (03 R60, 07)
  | nop (h : Hdr)
  | bra (h : Hdr) (kind : BraKind) (tp fp : BitVec 8) (off : BitVec 32)
  | brx (h : Hdr) (a : Operand) (tp fp : BitVec 8)
  | call (h : Hdr) (kind : BraKind) (tp fp : BitVec 8) (off : BitVec 32)
  | ret (h : Hdr) (a : Operand) (tp fp : BitVec 8)
  | exit (h : Hdr)
  | parkCtr (h : Hdr) (a : BitVec 6)
  | parkWalk (h : Hdr) (a : BitVec 6)
  | yield (h : Hdr)
  | bar (h : Hdr) (g : BitVec 8)
  | trap (h : Hdr) (code : BitVec 16)
  | tretRetry (h : Hdr)
  | tretSkip (h : Hdr)
  | bkpt (h : Hdr) (code : BitVec 16)
  | csrr (h : Hdr) (d : Operand) (csr : BitVec 12)
  | csrw (h : Hdr) (csr : BitVec 12) (a : Operand)
  | shape (h : Hdr) (a b : Operand)
  -- integer and logic, majors 0x10-0x2E (06 R110-R113)
  | iadd (h : Hdr) (t : Ty) (d a b : Operand)
  | isub (h : Hdr) (t : Ty) (d a b : Operand)
  | imul (h : Hdr) (t : Ty) (d a b : Operand)
  | imulh (h : Hdr) (t : Ty) (d a b : Operand)
  | imad (h : Hdr) (t : Ty) (d a b : Operand) (z : BitVec 8)
  | ineg (h : Hdr) (t : Ty) (d a : Operand)
  | iabs (h : Hdr) (t : Ty) (d a : Operand)
  | imin (h : Hdr) (t : Ty) (d a b : Operand)
  | imax (h : Hdr) (t : Ty) (d a b : Operand)
  | iadds (h : Hdr) (t : Ty) (d a b : Operand)
  | isubs (h : Hdr) (t : Ty) (d a b : Operand)
  | and (h : Hdr) (t : Ty) (d a b : Operand)
  | or (h : Hdr) (t : Ty) (d a b : Operand)
  | xor (h : Hdr) (t : Ty) (d a b : Operand)
  | not (h : Hdr) (t : Ty) (d a : Operand)
  | andn (h : Hdr) (t : Ty) (d a b : Operand)
  | shl (h : Hdr) (t : Ty) (d a b : Operand)
  | shr (h : Hdr) (t : Ty) (d a b : Operand)
  | sar (h : Hdr) (t : Ty) (d a b : Operand)
  | rot (h : Hdr) (t : Ty) (d a b : Operand)
  | bfe (h : Hdr) (t : Ty) (d a b : Operand)
  | bfi (h : Hdr) (t : Ty) (d a b : Operand) (z : BitVec 8)
  | popc (h : Hdr) (t : Ty) (d a : Operand)
  | clz (h : Hdr) (t : Ty) (d a : Operand)
  | ctz (h : Hdr) (t : Ty) (d a : Operand)
  | brev (h : Hdr) (t : Ty) (d a : Operand)
  | icmp (h : Hdr) (t : Ty) (p : BitVec 3) (cc : ICond) (a b : Operand)
  | sel (h : Hdr) (t : Ty) (d a b : Operand) (z : BitVec 8)
  | mov (h : Hdr) (t : Ty) (d : MovDst) (a : MovSrc)
  | movi (h : Hdr) (sub : MoviSub) (d : Operand) (imm : BitVec 32)
  | lea (h : Hdr) (t : Ty) (d a b : Operand) (sh : BitVec 3)
  -- floating point, packed, special functions, conversions, majors 0x30-0x4A (06 R114-R121)
  | fadd (h : Hdr) (t : Ty) (rnd : Rnd) (sat : Bool) (d a b : Operand)
  | fsub (h : Hdr) (t : Ty) (rnd : Rnd) (sat : Bool) (d a b : Operand)
  | fmul (h : Hdr) (t : Ty) (rnd : Rnd) (sat : Bool) (d a b : Operand)
  | fmac (h : Hdr) (t : Ty) (rnd : Rnd) (sat : Bool) (d a b : Operand) (z : BitVec 8)
  | fmin (h : Hdr) (t : Ty) (d a b : Operand)
  | fmax (h : Hdr) (t : Ty) (d a b : Operand)
  | fabs (h : Hdr) (t : Ty) (d a : Operand)
  | fneg (h : Hdr) (t : Ty) (d a : Operand)
  | fcmp (h : Hdr) (t : Ty) (p : BitVec 3) (cc : FCond) (a b : Operand)
  | fclass (h : Hdr) (t : Ty) (d a : Operand)
  | frnd (h : Hdr) (t : Ty) (rnd : Rnd) (d a : Operand)
  | fdiv (h : Hdr) (t : Ty) (rnd : Rnd) (d a b : Operand)
  | fsqrt (h : Hdr) (t : Ty) (rnd : Rnd) (d a : Operand)
  | frcp (h : Hdr) (t : Ty) (d a : Operand)
  | frsq (h : Hdr) (t : Ty) (d a : Operand)
  | fexp2 (h : Hdr) (t : Ty) (d a : Operand)
  | flog2 (h : Hdr) (t : Ty) (d a : Operand)
  | fsin (h : Hdr) (t : Ty) (d a : Operand)
  | fcos (h : Hdr) (t : Ty) (d a : Operand)
  | ftanh (h : Hdr) (t : Ty) (d a : Operand)
  | hadd2 (h : Hdr) (t : Ty) (rnd : Rnd) (sat : Bool) (d a b : Operand)
  | hmul2 (h : Hdr) (t : Ty) (rnd : Rnd) (sat : Bool) (d a b : Operand)
  | hmac2 (h : Hdr) (t : Ty) (rnd : Rnd) (sat : Bool) (d a b : Operand) (z : BitVec 8)
  | cvt (h : Hdr) (dt st : Ty) (rnd : Rnd) (sat : Bool) (d a : Operand)
  | cvtn (h : Hdr) (t6 : Bool) (b : Option Operand) (d a : Operand)
  | cvtw (h : Hdr) (t : Ty) (t6 : Bool) (rnd : Rnd) (d a : Operand)
  | qres (h : Hdr) (t6 : Bool) (d a : Operand) (rho : BitVec 8)
  | pairWord (gap : BitVec 2) (gw : Bool) (h0 h1 : Half)
  -- cross-lane, majors 0x50-0x5C (07 R123-R131)
  | shfl (h : Hdr) (mode : ShflMode) (off : ShflOff) (d a : Operand)
  | shflx (h : Hdr) (d a b : Operand)
  | bcast (h : Hdr) (sel : BcastSel) (d a : Operand)
  | perm (h : Hdr) (d a b : Operand)
  | vote (h : Hdr) (d : VoteDst) (p : BitVec 3)
  | red (h : Hdr) (op : RedOp) (t : Ty) (rnd : Rnd) (sat : Bool) (pe : BitVec 3) (d a : Operand)
  | redStep (h : Hdr) (op : RedOp) (t : Ty) (rnd : Rnd) (sat : Bool) (k : BitVec 8) (d a : Operand)
  | scan (h : Hdr) (op : RedOp) (excl : Bool) (t : Ty) (rnd : Rnd) (sat : Bool) (pe : BitVec 3) (d a : Operand)
  | zip2 (h : Hdr) (d a : BitVec 8)
  | zip3 (h : Hdr) (d a : BitVec 8)
  | zip4 (h : Hdr) (d a : BitVec 8)
  | unzip2 (h : Hdr) (d a : BitVec 8)
  | unzip3 (h : Hdr) (d a : BitVec 8)
  | unzip4 (h : Hdr) (d a : BitVec 8)
  -- memory and iterators, majors 0x60-0x6F (10)
  | ld (h : Hdr) (space : Space) (ord : Order) (w : Width) (base : BitVec 6) (off : BitVec 20) (d : Operand)
  | st (h : Hdr) (space : Space) (ord : Order) (w : Width) (base : BitVec 6) (off : BitVec 20) (d : Operand)
  | ldh (h : Hdr) (ord : Order) (w : Width) (base : BitVec 6) (off : BitVec 20) (d : Operand)
  | sth (h : Hdr) (ord : Order) (w : Width) (base : BitVec 6) (off : BitVec 20) (d : Operand)
  | atom (h : Hdr) (op : AtomOp) (t : Ty) (ord : Order) (sp : Bool) (d : Option Operand) (a : Operand) (b : Option Operand)
  | cas (h : Hdr) (t : Ty) (ord : Order) (sp : Bool) (ps : BitVec 3) (d a b : Operand)
  | redm (h : Hdr) (op : RedmOp) (t : Ty) (scope : Scope) (a b : Operand)
  | flusha (h : Hdr) (g : BitVec 8)
  | fence (h : Hdr) (ord : FenceOrd) (all : Bool) (scope : Scope)
  | afence (h : Hdr)
  | pref (h : Hdr) (w : Width) (base : BitVec 6) (off : BitVec 20) (d : Operand)
  | copy (h : Hdr) (sp : Bool) (a : Operand)
  | nset (h : Hdr) (form : NsetForm) (n : BitVec 4) (a : Operand)
  | nget (h : Hdr) (d : Operand) (n : BitVec 4) (k : BitVec 3)
  | nrst (h : Hdr) (n : BitVec 4)
  | tsweep (h : Hdr) (op : SweepOp) (t : Ty) (ns : BitVec 4) (d : BitVec 6) (ctr : Option (BitVec 6))
  -- mass registers, majors 0x70-0x73 (08)
  | mtcfg (h : Hdr) (raw : Bool) (m : BitVec 2) (a : Operand)
  | mtlink (h : Hdr) (raw : Bool) (m : BitVec 2) (k : BitVec 8)
  | mtclr (h : Hdr) (raw : Bool) (m : BitVec 2)
  | mtload (h : Hdr) (raw : Bool) (m : BitVec 2) (a b : Operand)
  | mtset (h : Hdr) (raw : Bool) (m : BitVec 2) (a b : Operand)
  | mtadd (h : Hdr) (raw sgn : Bool) (m : BitVec 2) (a b : Operand)
  | mtget (h : Hdr) (raw : Bool) (m : BitVec 2) (d a : Operand)
  | mtpfx (h : Hdr) (raw : Bool) (m : BitVec 2) (d a : Operand)
  | mtfind (h : Hdr) (raw : Bool) (m : BitVec 2) (d a : Operand)
  | mttot (h : Hdr) (raw : Bool) (m : BitVec 2) (d : Operand)
  | mtcutIdx (h : Hdr) (raw : Bool) (m : BitVec 2) (d a : Operand)
  | mtcutMass (h : Hdr) (raw : Bool) (m : BitVec 2) (d a : Operand)
  -- walks, majors 0x74-0x77 (12)
  | walk (h : Hdr) (sp : Bool) (d a : Operand)
  | wreg (h : Hdr) (idx : BitVec 4) (d a b : Operand)
  | wstat (h : Hdr) (d a : Operand) (k : BitVec 8)
  | wcancel (h : Hdr) (a : Operand)
  | mfence (h : Hdr)
  | harg (h : Hdr) (d : Operand) (k : BitVec 8)
  | hret (h : Hdr)
  | hretAbort (h : Hdr)
  | awin (h : Hdr) (a b : Operand)
  -- KV, tasks, prologue, collectives, digests, event counters, majors 0x78-0x7E (13, 16, 17, 18)
  | kvx (h : Hdr) (wr : Bool) (d a b : Operand)
  | kvseal (h : Hdr) (a : Operand)
  | kvfree (h : Hdr) (a b : Operand)
  | tspawn (h : Hdr) (sp : Bool) (a : Operand)
  | tdec (h : Hdr) (host : Bool) (a b : Operand)
  | launch (h : Hdr) (d a : Operand)
  | pemit (h : Hdr) (a b : Operand)
  | pcancel (h : Hdr)
  | prepeat (h : Hdr) (a b : Operand)
  | coll (h : Hdr) (a : Operand)
  | dreg (h : Hdr) (k : BitVec 6) (a b : Operand)
  | dunreg (h : Hdr) (k : BitVec 6)
  | dgrd (h : Hdr) (k : BitVec 6) (sel : DgSel) (d : Operand)
  | pmcfg (h : Hdr) (k : BitVec 2) (a : Operand)
  | pmrd (h : Hdr) (k : BitVec 2) (d : Operand)
  -- a word that is not an instruction (03 R61)
  | illegal (w : BitVec 64)
  -- steps of schedulers, registers and units of a core (02, 06, 08, 09)
  | warpSelect (core sched : Nat)
  | gapExpiry (core slot : Nat)
  | promotion (core slot : Nat)
  | longLatencyWriteback (core slot k : Nat)
  | massUnitStart (core : Nat)
  | massRebuildEnd (core : Nat)
  | heatTurnSkip (part port : Nat)
  | heatSampleForward (part k : Nat)
  | heatHalving (part port : Nat)
  | errstatClear (wg : Nat) (ones : BitVec 5)
  | kvtabLoad (core slot : Nat) (value : BitVec 64)
  | dependenceDecrement (k : Nat)
  | swapOut (core slot : Nat)
  | swapOutEnd (core slot : Nat)
  | swapInEnd (core slot : Nat)
  | parkedVictimTimeout (core slot : Nat)
  | wakeableWaitTimeout (core slot : Nat)
  | longParkSwap (core slot : Nat)
  -- tasks, launches and walks (12, 13)
  | workgroupAdmission (core : Nat)
  | taskStart (core : Nat)
  | upcallDelivery (core : Nat)
  | launchStart (lid : Nat)
  | prologueWordLimit (part : Nat)
  | prologueRerun (part : Nat)
  | dispatchWorkgroup (part : Nat)
  | launchComplete (lid : Nat)
  | walkStart (core wid : Nat)
  | upcallRaise (core wid : Nat)
  | kStepBegin (core wid : Nat)
  | kStepEnd (core wid : Nat)
  | drainAccept (core wid : Nat) (remote : Option (List (BitVec 32)))
  | drainTimeout (core wid : Nat)
  | walkDone (core wid : Nat)
  -- engines (10, 16)
  | copyCommandStart (core : Nat)
  | copyComplete (core : Nat)
  | sweepStart (core sched : Nat)
  | sweepEnd (core sched : Nat)
  | kvsealCommand (core : Nat)
  | kvRebuild (core : Nat)
  -- collectives and digests (17)
  | collectiveStart (part k : Nat)
  | ringHop (part k chunk : Nat) (phase : RingPhase) (msg : CollMsg)
  | result (part k line : Nat) (msg : CollMsg)
  | lost (part k : Nat)
  | fail (part k : Nat)
  | collectiveComplete (part k : Nat)
  | memberLost (part group : Nat)
  | collectiveTimeout (part k : Nat)
  | digestBuildEnd (func slot : Nat)
  -- contexts and pre-emption (14)
  | deficitQuantumExpiry (part : Nat)
  | softSave (wg : Nat)
  | bardeferExpiry (wg : Nat)
  | graceExpiry (part : Nat)
  | killExpiry (part : Nat)
  | contextKill (func : Nat)
  | saveComplete (wg : Nat)
  | turn (part : Nat)
  | restoreComplete (wg : Nat)
  | wgSliceExpiry (wg : Nat)
  | warpReleaseRetry (core slot : Nat)
  | warpReleaseSkip (core slot : Nat)
  -- command queues, registers and host (13, 15, 18)
  | launchCommand (func : Nat)
  | replay (func : Nat)
  | signal (func : Nat)
  | resync (func : Nat)
  | cqnotifyTailWrite (func : Nat) (tail : BitVec 32)
  | cqEnable (func : Nat) (value : BitVec 64)
  | cqDisable (func : Nat) (value : BitVec 64)
  | fqEnable (part : Nat) (value : BitVec 64)
  | fqptrHeadWrite (part : Nat) (head : BitVec 32)
  | faultRecordHeldWrite (part : Nat)
  | partitionEnable (part : Nat) (value : BitVec 64)
  | partitionDisable (part : Nat) (value : BitVec 64)
  | vfpartWrite (func : Nat) (value : BitVec 64)
  | journalEnable (func : Nat) (value : BitVec 64)
  | journalReplay (func : Nat) (value : BitVec 64)
  | registerWrite (func offset : Nat) (value : BitVec 64)
  -- links, power, firmware, attestation (01, 09, 13, 18)
  | launchPacket (tenant entry : Nat) (seq : BitVec 64) (srcdev : BitVec 32) (args : List Byte)
  | cxlLinkDown (part port : Nat)
  | linkTraining (width : Nat)
  | powerWindow (watts temp : Nat)
  | lockstepMismatch
  | deviceReset
  | getVersion
  | getCapabilities
  | negotiateAlgorithms
  | getDigests
  | getCertificate (slot : Nat)
  | challenge (nonce : List Byte)
  | getMeasurements (index : Nat)
  | hostAgentAccess (func addr : Nat) (req : HostAccess)
  | voteValue (part k rank : Nat) (value : List VoteTriple)
  | contextResume (func : Nat)
  | newFlashImage (image : FlashImage)
deriving DecidableEq, Repr

end Sys2Proof
end

