-- ==== Sys2Proof/WellFormed.lean ====
section
/-! DEFINITION. Which decoded words are instructions: the checks of 03 R61 that a word's own bits decide, as a Bool on
each constructor. A word that fails one raises ILLEGAL (or PAIR); checks that need the machine's state are made at issue. -/
namespace Sys2Proof

/-- The specifier names a vector register, plain or indexed. -/
def Operand.isV : Operand → Bool
  | .v _ | .vx _ _ => true
  | _ => false

/-- The specifier names a scalar register. -/
def Operand.isS : Operand → Bool
  | .s _ => true
  | _ => false

def Operand.isImm : Operand → Bool
  | .imm _ => true
  | _ => false

/-- The value may differ from lane to lane: a v source or LANE (03 R50). -/
def Operand.perLane : Operand → Bool
  | .v _ | .vx _ _ => true
  | .sp k => k == 0
  | _ => false

/-- Legal as a source: special codes above 0x0E are reserved (03 R51). -/
def Operand.okSrc : Operand → Bool
  | .sp k => decide (k.toNat ≤ 14)
  | _ => true

/-- Legal as a destination (03 R50). -/
def Operand.okDst : Operand → Bool
  | .v _ | .vx _ _ | .s _ => true
  | _ => false

/-- Legal as an address or a target: a v register or a uniform operand (07 R133; 10 R195). -/
def Operand.okAddr : Operand → Bool
  | .sp k => decide (k.toNat ≤ 14) && k != 0
  | _ => true

/-- The integers that .t8, or .t6, holds exactly; any other immediate is no instruction (03 R53; 05 R83). -/
def narrowExact (t6 : Bool) (k : BitVec 8) : Bool :=
  let n := k.toInt.natAbs
  if t6 then [0, 1, 2, 3, 4, 6, 8, 12, 16, 32, 64].contains n
  else decide (n ≤ 16) || (decide (n ≤ 32) && n % 4 == 0) || (decide (n ≤ 64) && n % 8 == 0) || n == 96 || n == 128

/-- A legal uniform source. -/
def Operand.okUni (x : Operand) : Bool := x.okSrc && !x.perLane

/-- Destination and sources of a lane operation: an s destination needs uniform sources (03 R50). -/
def laneForm (d : Operand) (srcs : List Operand) : Bool :=
  d.okDst && srcs.all Operand.okSrc && (!d.isS || srcs.all (fun x => !x.perLane))

/-- A lane operation whose C field names a vector register: its destination is no s register. -/
def laneFormC (d : Operand) (srcs : List Operand) : Bool := d.isV && srcs.all Operand.okSrc

def Ty.isInt : Ty → Bool
  | .s32 | .s64 | .s16 | .s8 | .n32 | .n64 | .n16 | .n8 => true
  | _ => false
def Ty.isSigned : Ty → Bool
  | .s32 | .s64 | .s16 | .s8 => true
  | _ => false
def Ty.isFloat : Ty → Bool
  | .f32 | .f16 | .bf16 => true
  | _ => false
def Ty.isHalfFloat : Ty → Bool
  | .f16 | .bf16 => true
  | _ => false
def Ty.bits : Ty → Nat
  | .s32 | .n32 | .f32 => 32
  | .s64 | .n64 => 64
  | .s16 | .n16 | .f16 | .bf16 => 16
  | .s8 | .n8 | .t8 => 8
  | .t6 => 6

/-- A short-latency word carries no lookahead (03 R59). -/
def Hdr.short (h : Hdr) : Bool := h.la == 0

/-- An immediate shift amount lies in 0 to w - 1 (06 R110). -/
def shiftOk (t : Ty) : Operand → Bool
  | .imm k => decide (0 ≤ k.toInt) && decide (k.toInt < (t.bits : Int))
  | _ => true

/-- The user CSR indices of 06 R100. -/
def userCsr (c : BitVec 12) : Bool :=
  let n := c.toNat
  decide (n ≤ 6) || (decide (8 ≤ n) && decide (n ≤ 13)) || (decide (16 ≤ n) && decide (n ≤ 23)) ||
    (decide (256 ≤ n) && decide (n ≤ 262)) || (decide (512 ≤ n) && decide (n ≤ 514))

/-- The types of a half form (03 R54). -/
def HalfOp.okTy : HalfOp → Ty → Bool
  | .fadd, t | .fsub, t | .fmul, t | .fmin, t | .fmax, t => t.isFloat
  | .hadd2, t | .hmul2, t => t.isHalfFloat
  | _, t => t == .s32 || t == .n32 || t == .s64 || t == .n64

def HalfOp.isShift : HalfOp → Bool
  | .shl | .shr | .sar | .rot => true
  | _ => false

/-- One half of a pair keeps the rules of 03 R56. -/
def Half.ok (h : Half) : Bool := h.op.okTy h.ty && h.b.okSrc && (!h.op.isShift || shiftOk h.ty h.b)

/-- CVT: rounding where it rounds, .sat where it saturates by choice (06 R119). -/
def cvtOk (dt st : Ty) (rnd : Rnd) (sat : Bool) : Bool :=
  (dt.isInt || dt.isFloat) && (st.isInt || st.isFloat) &&
    (!(dt.isInt && st.isInt) || rnd == .rn) && (!(dt.isInt != st.isInt) || !sat)

/-- RED and SCAN: types, rounding and saturation by the operation (07 R128). -/
def redOk (op : RedOp) (t : Ty) (rnd : Rnd) (sat : Bool) : Bool :=
  (t.isInt || (t.isFloat && (op == .add || op == .min || op == .max))) &&
    (rnd == .rn || (t.isFloat && op == .add)) && (!sat || (t.isInt && op == .add))

/-- The types of ATOM's .add, .min and .max. -/
def Ty.isArith : Ty → Bool
  | .s32 | .s64 | .n32 | .n64 | .f32 => true
  | _ => false
def Ty.isN32N64 : Ty → Bool
  | .n32 | .n64 => true
  | _ => false
def Ty.isN : Ty → Bool
  | .n8 | .n16 | .n32 | .n64 => true
  | _ => false

/-- A plain order. -/
def Order.isPlain : Order → Bool
  | .plain => true
  | _ => false
/-- Orders of a load: .plain, .acq, .sc (10 R187). -/
def Order.forLoad : Order → Bool
  | .plain | .acq _ | .sc _ => true
  | _ => false
/-- Orders of a store: .plain, .rel, .sc (10 R187). -/
def Order.forStore : Order → Bool
  | .plain | .rel _ | .sc _ => true
  | _ => false

/-- ATOM (10 R195): operation, type and order; .st writes no register and .ld takes no operand value (22 R349). -/
def atomOk (op : AtomOp) (t : Ty) (ord : Order) (d : Option Operand) (a : Operand) (b : Option Operand) : Bool :=
  (match op with
    | .add | .min | .max => t.isArith
    | .and | .or | .xor | .xchg => t.isN32N64
    | .ld => t.isN && ord.forLoad
    | .st => t.isN && ord.forStore) &&
  a.okAddr &&
  (match op, d with
    | .st, none => true
    | .st, some _ => false
    | _, none => false
    | _, some d => laneForm d (a :: b.toList)) &&
  (match op, b with
    | .ld, none => true
    | .ld, some _ => false
    | _, none => false
    | _, some b => b.okSrc)

/-- The offset of an ordered FM word has 17 bits (03 R48). -/
def offOk (ord : Order) (off : BitVec 20) : Bool :=
  ord.isPlain || off == (off.setWidth 17).signExtend 20

/-- The data specifier of an FM word (10 R186, R187): v, indexed or s; v255 and s63 have no second register. -/
def dataOk (w : Width) (d : Operand) : Bool :=
  match d with
  | .v n => !(w == .w128 && n == 255)
  | .s n => !(w == .w128 && n == 63)
  | .vx _ _ => true
  | _ => false

/-- Space, order and full-empty mode of LD and ST (10 R187, R192; 03 R48). -/
def ldStOk (load : Bool) (space : Space) (ord : Order) (w : Width) (off : BitVec 20) (d : Operand) : Bool :=
  dataOk w d && offOk ord off && (if load then ord.forLoad else ord.forStore) &&
  (match space with
    | .g => true
    | .sp .none => true
    | .sp .keep | .sp .take => load
    | .sp .fill => !load
    | .acc _ => ord.isPlain && w == .w32 && d.isV)

/-- The word of the constructor is an instruction (03 R61). Event constructors are no words and always hold. -/
def Instr.wf : Instr → Bool
  | .nop h | .exit h | .yield h | .bar h _ | .trap h _ | .tretRetry h | .tretSkip h | .bkpt h _ => h.short
  | .bra h _ _ _ _ | .call h _ _ _ _ => h.short && h.gap == 0
  | .brx h a _ _ | .ret h a _ _ => h.short && a.okAddr
  | .parkCtr h _ | .parkWalk h _ => h.short
  | .csrr h d c => h.short && d.okDst && userCsr c
  | .csrw h c a => h.short && a.okUni && userCsr c
  | .shape h a b => h.short && a.okUni && b.okUni
  | .iadd h t d a b | .isub h t d a b | .imul h t d a b | .imulh h t d a b | .imin h t d a b | .imax h t d a b
  | .iadds h t d a b | .isubs h t d a b | .and h t d a b | .or h t d a b | .xor h t d a b | .andn h t d a b =>
    h.short && t.isInt && laneForm d [a, b]
  | .imad h t d a b _ | .sel h t d a b _ => h.short && t.isInt && laneFormC d [a, b]
  | .ineg h t d a | .not h t d a | .popc h t d a | .clz h t d a | .ctz h t d a | .brev h t d a =>
    h.short && t.isInt && laneForm d [a]
  | .iabs h t d a => h.short && t.isSigned && laneForm d [a]
  | .shl h t d a b | .shr h t d a b | .sar h t d a b | .rot h t d a b =>
    h.short && t.isInt && laneForm d [a, b] && shiftOk t b
  | .bfe h t d a b => h.short && t.isInt && laneForm d [a, b] && !b.isImm
  | .bfi h t d a b _ => h.short && t.isInt && laneFormC d [a, b] && !b.isImm
  | .icmp h t _ _ a b => h.short && t.isInt && a.okSrc && b.okSrc
  | .mov h t d a =>
    h.short &&
    (match d, a with
      | .reg d, .op a => (t.isInt || t.isFloat) && laneForm d [a]
      | .reg d, .pred _ => t.isInt && d.isV
      | .pred _, .op a => t.isInt && a.okSrc
      | .pred _, .pred _ => t.isInt
      | .idx _, .op a => t.isInt && a.okUni
      | .idx _, .pred _ => false)
  | .movi h _ d _ => h.short && d.okDst
  | .lea h t d a b _ => h.short && t.isInt && laneForm d [a, b]
  | .fadd h t _ _ d a b | .fsub h t _ _ d a b | .fmul h t _ _ d a b => h.short && t.isFloat && laneForm d [a, b]
  | .fmac h t _ _ d a b _ => h.short && t.isFloat && laneFormC d [a, b]
  | .fmin h t d a b | .fmax h t d a b => h.short && t.isFloat && laneForm d [a, b]
  | .fabs h t d a | .fneg h t d a | .fclass h t d a => h.short && t.isFloat && laneForm d [a]
  | .fcmp h t _ _ a b => h.short && t.isFloat && a.okSrc && b.okSrc
  | .frnd h t _ d a => h.short && t.isFloat && laneForm d [a]
  | .fdiv _ t _ d a b => t.isFloat && laneForm d [a, b]
  | .fsqrt _ t _ d a => t.isFloat && laneForm d [a]
  | .frcp _ t d a | .frsq _ t d a | .fexp2 _ t d a | .flog2 _ t d a | .fsin _ t d a | .fcos _ t d a
  | .ftanh _ t d a => t.isFloat && laneForm d [a]
  | .hadd2 h t _ _ d a b | .hmul2 h t _ _ d a b => h.short && t.isHalfFloat && laneForm d [a, b]
  | .hmac2 h t _ _ d a b _ => h.short && t.isHalfFloat && laneFormC d [a, b]
  | .cvt h dt src rnd sat d a => h.short && cvtOk dt src rnd sat && laneForm d [a]
  | .cvtn _ _ b d a => laneForm d (a :: b.toList)
  | .cvtw _ t t6 _ d a => t.isFloat && laneForm d [a] && (match a with | .imm k => narrowExact t6 k | _ => true)
  | .qres _ _ d a rho => d.isV && a.okSrc && !(d == .v rho)
  | .pairWord _ _ h0 h1 => h0.ok && h1.ok && h0.d.toNat % 4 != h1.d.toNat % 4
  | .shfl h _ off d a =>
    h.short && laneForm d [a] &&
    (match off with
      | .abs (.imm k) => decide (0 ≤ k.toInt)
      | .abs b => b.okUni
      | _ => true)
  | .shflx h d a b => h.short && d.isV && a.okSrc && b.okSrc
  | .bcast h pick d a =>
    h.short && d.okDst && a.okSrc && (match pick with | .lane b => b.okUni | .first => true)
  | .perm h d a b => h.short && d.isV && a.okSrc && b.okUni
  | .vote h d _ =>
    h.short && (match d with | .mask d | .count d | .first d => d.okDst | _ => true)
  | .red _ op t rnd sat _ d a => redOk op t rnd sat && d.okDst && a.okSrc
  | .redStep _ op t rnd sat k d a => redOk op t rnd sat && decide (k.toNat ≤ 5) && d.isV && a.okSrc
  | .scan _ op _ t rnd sat _ d a => redOk op t rnd sat && d.isV && a.okSrc
  | .zip2 h d a | .unzip2 h d a => h.short && decide (d.toNat ≤ 254) && decide (a.toNat ≤ 254)
  | .zip3 h d a | .unzip3 h d a => h.short && decide (d.toNat ≤ 253) && decide (a.toNat ≤ 253)
  | .zip4 h d a | .unzip4 h d a => h.short && decide (d.toNat ≤ 252) && decide (a.toNat ≤ 252)
  | .ld _ space ord w _ off d => ldStOk true space ord w off d
  | .st _ space ord w _ off d => ldStOk false space ord w off d
  | .ldh _ ord w _ off d =>
    (w == .w16 || w == .w32) && (match ord with | .plain | .acq _ => true | _ => false) && offOk ord off && dataOk w d
  | .sth _ ord w _ off d =>
    (w == .w16 || w == .w32) && (match ord with | .plain | .rel _ => true | _ => false) && offOk ord off && dataOk w d
  | .atom _ op t ord _ d a b => atomOk op t ord d a b
  | .cas _ t _ _ _ d a b => t.isN32N64 && a.okAddr && laneForm d [a, b]
  | .redm _ op t sc a b =>
    t.isArith && (t != .f32 || op == .add || op == .min || op == .max) && (sc == .wg || sc == .dev) && a.okSrc && b.okSrc
  | .flusha _ _ | .afence _ => true
  | .fence _ _ all sc => !all || sc == .dev || sc == .host || sc == .fab
  | .pref _ w _ _ d => dataOk w d
  | .copy _ _ a => a.okUni
  | .nset _ _ _ a => a.okUni
  | .nget _ d _ _ => d.okDst
  | .nrst _ _ => true
  | .tsweep _ op t _ _ _ => (match op with | .copy _ => t.isN | _ => t.isInt || t.isFloat)
  | .mtcfg _ raw _ a => !raw && a.okUni
  | .mtlink _ raw m k => !raw && decide (2 ≤ k.toNat) && decide (k.toNat ≤ 4) && decide (m.toNat + k.toNat ≤ 4)
  | .mtclr _ raw _ => !raw
  | .mtload _ _ _ a b => a.okUni && b.okUni
  | .mtset _ _ _ a b => a.okSrc && b.okSrc
  | .mtadd _ raw sgn _ a b => (raw || !sgn) && a.okSrc && b.okSrc
  | .mtget _ _ _ d a | .mtpfx _ _ _ d a | .mtfind _ _ _ d a => laneForm d [a]
  | .mttot _ _ _ d => d.okDst
  | .mtcutIdx _ raw _ d a => !raw && d.okDst && a.okUni
  | .mtcutMass _ _ _ d a => d.okDst && a.okUni
  | .walk _ _ d a => d.okDst && a.okUni
  | .wreg _ _ d a b => d.okDst && a.okUni && b.okUni
  | .wstat _ d a k => d.okDst && a.okUni && decide (k.toNat ≤ 6)
  | .wcancel _ a => a.okUni
  | .mfence _ | .hret _ | .hretAbort _ => true
  | .harg _ d k => d.okDst && decide (k.toNat ≤ 3)
  | .awin _ a b => a.okUni && b.okUni
  | .kvx _ _ d a b => laneForm d [a, b]
  | .kvseal _ a => a.okUni
  | .kvfree h a b => h.short && a.okUni && b.okUni
  | .tspawn _ _ a => a.okUni
  | .tdec _ _ a b => a.okUni && b.okUni && (match b with | .imm k => decide (0 ≤ k.toInt) | _ => true)
  | .launch _ d a => d.okDst && a.okUni
  | .pemit h a b | .prepeat h a b => h.short && a.okUni && b.okUni
  | .pcancel h => h.short
  | .coll _ a => a.okUni
  | .dreg h _ a b => h.short && a.okUni && b.okUni
  | .dunreg h _ => h.short
  | .dgrd _ _ _ d => d.okDst
  | .pmcfg h _ a => h.short && a.okUni
  | .pmrd h _ d => h.short && d.okDst
  | .illegal _ => false
  | _ => true

end Sys2Proof
end

