-- ==== Sys2Proof/Decode.lean ====
section
/-! DEFINITION. The decoder, total on every 64-bit word (03 R44-R61), and after it the encoder. `parse` takes the fields of a
word apart and refuses unassigned codes and nonzero reserved fields; `Instr.wf` makes the other checks of R61; a word that
either refuses is not an instruction and issues as `illegal`. -/
namespace Sys2Proof

/-- The decoder goes on where the condition holds. -/
def need (b : Bool) : Option Unit := if b then some () else none

/-! ### Codes -/

/-- TYPE (03 R47). -/
def decTy (c : BitVec 4) : Option Ty :=
  match c.toNat with
  | 0 => some .s32 | 1 => some .s64 | 2 => some .s16 | 3 => some .s8
  | 4 => some .n32 | 5 => some .n64 | 6 => some .n16 | 7 => some .n8
  | 8 => some .f32 | 9 => some .f16 | 10 => some .bf16 | 11 => some .t8 | 12 => some .t6
  | _ => none
def encTy : Ty → BitVec 4
  | .s32 => 0 | .s64 => 1 | .s16 => 2 | .s8 => 3 | .n32 => 4 | .n64 => 5 | .n16 => 6 | .n8 => 7
  | .f32 => 8 | .f16 => 9 | .bf16 => 10 | .t8 => 11 | .t6 => 12

/-- RND (03 R47). -/
def decRnd (c : BitVec 2) : Rnd :=
  match c.toNat with
  | 0 => .rn | 1 => .rz | 2 => .rup | _ => .rdn
def encRnd : Rnd → BitVec 2
  | .rn => 0 | .rz => 1 | .rup => 2 | .rdn => 3

/-- One bit as a Bool and back. -/
def encBit (b : Bool) : BitVec 1 := if b then 1 else 0

/-- A 10-bit operand specifier (03 R50). -/
def decOp (x : BitVec 10) : Option Operand :=
  if x.extractLsb' 8 2 = 0 then some (.v (x.extractLsb' 0 8))
  else if x.extractLsb' 8 2 = 2 then some (.vx (x.extractLsb' 6 2) (x.extractLsb' 0 6))
  else if x.extractLsb' 8 2 = 3 then some (.imm (x.extractLsb' 0 8))
  else if x.extractLsb' 7 1 = 1 then some (.sp (x.extractLsb' 0 7))
  else if x.extractLsb' 6 1 = 0 then some (.s (x.extractLsb' 0 6))
  else none
def encOp : Operand → BitVec 10
  | .v n => 0#2 ++ n
  | .s n => 4#4 ++ n
  | .sp k => 3#3 ++ k
  | .vx i o => 2#2 ++ i ++ o
  | .imm k => 3#2 ++ k

/-- Scope codes (03 R48). -/
def decScope (c : BitVec 3) : Option Scope :=
  match c.toNat with
  | 0 => some .warp | 1 => some .wg | 2 => some .core | 3 => some .die | 4 => some .dev | 5 => some .host | 6 => some .fab
  | _ => none
def encScope : Scope → BitVec 3
  | .warp => 0 | .wg => 1 | .core => 2 | .die => 3 | .dev => 4 | .host => 5 | .fab => 6

/-- Width codes of FM words (03 R46). -/
def decWidth (c : BitVec 3) : Option Width :=
  match c.toNat with
  | 0 => some .w8 | 1 => some .w16 | 2 => some .w32 | 3 => some .w64 | 4 => some .w128
  | _ => none
def encWidth : Width → BitVec 3
  | .w8 => 0 | .w16 => 1 | .w32 => 2 | .w64 => 3 | .w128 => 4

/-- Integer and floating-point conditions (06 R112, R115). -/
def decICond (c : BitVec 3) : Option ICond :=
  match c.toNat with
  | 0 => some .eq | 1 => some .ne | 2 => some .lt | 3 => some .le | 4 => some .gt | 5 => some .ge
  | _ => none
def encICond : ICond → BitVec 3
  | .eq => 0 | .ne => 1 | .lt => 2 | .le => 3 | .gt => 4 | .ge => 5
def decFCond (c : BitVec 3) : FCond :=
  match c.toNat with
  | 0 => .eq | 1 => .ne | 2 => .lt | 3 => .le | 4 => .gt | 5 => .ge | 6 => .un | _ => .ord
def encFCond : FCond → BitVec 3
  | .eq => 0 | .ne => 1 | .lt => 2 | .le => 3 | .gt => 4 | .ge => 5 | .un => 6 | .ord => 7

/-- Branch kinds (03 R49). -/
def decKind (c : BitVec 3) : Option BraKind :=
  match c.toNat with
  | 0 => some .lane | 1 => some .any | 2 => some .all
  | _ => none
def encKind : BraKind → BitVec 3
  | .lane => 0 | .any => 1 | .all => 2

/-- Half-form majors (03 R60). -/
def decHalfOp (c : BitVec 7) : Option HalfOp :=
  match c.toNat with
  | 0x10 => some .iadd | 0x11 => some .isub | 0x12 => some .imul | 0x17 => some .imin | 0x18 => some .imax
  | 0x1B => some .and | 0x1C => some .or | 0x1D => some .xor | 0x1F => some .andn
  | 0x20 => some .shl | 0x21 => some .shr | 0x22 => some .sar | 0x23 => some .rot | 0x2C => some .mov
  | 0x30 => some .fadd | 0x31 => some .fsub | 0x32 => some .fmul | 0x34 => some .fmin | 0x35 => some .fmax
  | 0x44 => some .hadd2 | 0x45 => some .hmul2
  | _ => none
def encHalfOp : HalfOp → BitVec 7
  | .iadd => 0x10 | .isub => 0x11 | .imul => 0x12 | .imin => 0x17 | .imax => 0x18
  | .and => 0x1B | .or => 0x1C | .xor => 0x1D | .andn => 0x1F
  | .shl => 0x20 | .shr => 0x21 | .sar => 0x22 | .rot => 0x23 | .mov => 0x2C
  | .fadd => 0x30 | .fsub => 0x31 | .fmul => 0x32 | .fmin => 0x34 | .fmax => 0x35
  | .hadd2 => 0x44 | .hmul2 => 0x45

/-- The types a half's mod names (03 R54). -/
def decHalfTy (op : HalfOp) (m : BitVec 2) : Option Ty :=
  match op with
  | .fadd | .fsub | .fmul | .fmin | .fmax =>
    match m.toNat with
    | 0 => some .f32 | 1 => some .f16 | 2 => some .bf16
    | _ => none
  | .hadd2 | .hmul2 =>
    match m.toNat with
    | 0 => some .f16 | 1 => some .bf16
    | _ => none
  | _ =>
    match m.toNat with
    | 0 => some .s32 | 1 => some .n32 | 2 => some .s64 | _ => some .n64
def encHalfTy (op : HalfOp) (t : Ty) : BitVec 2 :=
  match op with
  | .fadd | .fsub | .fmul | .fmin | .fmax => (match t with | .f16 => 1 | .bf16 => 2 | _ => 0)
  | .hadd2 | .hmul2 => (match t with | .bf16 => 1 | _ => 0)
  | _ => (match t with | .n32 => 1 | .s64 => 2 | .n64 => 3 | _ => 0)

/-- RED and SCAN operations (07 R128). -/
def decRedOp (c : BitVec 3) : Option RedOp :=
  match c.toNat with
  | 0 => some .add | 1 => some .min | 2 => some .max | 3 => some .and | 4 => some .or | 5 => some .xor | 6 => some .popc
  | _ => none
def encRedOp : RedOp → BitVec 3
  | .add => 0 | .min => 1 | .max => 2 | .and => 3 | .or => 4 | .xor => 5 | .popc => 6

/-- ATOM operations (10 R195). -/
def decAtomOp (c : BitVec 4) : Option AtomOp :=
  match c.toNat with
  | 0 => some .add | 1 => some .min | 2 => some .max | 3 => some .and | 4 => some .or | 5 => some .xor | 6 => some .xchg
  | 7 => some .ld | 8 => some .st
  | _ => none
def encAtomOp : AtomOp → BitVec 4
  | .add => 0 | .min => 1 | .max => 2 | .and => 3 | .or => 4 | .xor => 5 | .xchg => 6 | .ld => 7 | .st => 8

/-- REDM operations (10 R197). -/
def decRedmOp (c : BitVec 3) : Option RedmOp :=
  match c.toNat with
  | 0 => some .add | 1 => some .min | 2 => some .max | 3 => some .and | 4 => some .or | 5 => some .xor
  | _ => none
def encRedmOp : RedmOp → BitVec 3
  | .add => 0 | .min => 1 | .max => 2 | .and => 3 | .or => 4 | .xor => 5

/-- FENCE kinds (10 R200). -/
def decFence (c : BitVec 2) : FenceOrd :=
  match c.toNat with
  | 0 => .sc | 1 => .acq | 2 => .rel | _ => .ar
def encFence : FenceOrd → BitVec 2
  | .sc => 0 | .acq => 1 | .rel => 2 | .ar => 3

/-- Order of ATOM and CAS from ORDER, SCOPE and SC (10 R195). -/
def decAtomOrd (o : BitVec 2) (s : BitVec 3) (sc : BitVec 1) : Option Order :=
  match decScope s with
  | none => none
  | some x =>
    if o = 0 then (if s = 0 ∧ sc = 0 then some .plain else none)
    else if o = 1 then (if sc = 0 then some (.acq x) else none)
    else if o = 2 then (if sc = 0 then some (.rel x) else none)
    else if sc = 1 then some (.sc x) else some (.ar x)

/-- ORDER code of an order. -/
def encOrd : Order → BitVec 2
  | .plain => 0 | .acq _ => 1 | .rel _ => 2 | .ar _ => 3 | .sc _ => 3
def encOrdScope : Order → BitVec 3
  | .plain => 0 | .acq s => encScope s | .rel s => encScope s | .ar s => encScope s | .sc s => encScope s
def encSc : Order → BitVec 1
  | .sc _ => 1
  | _ => 0

/-! ### Fields of a word -/

def fMajor (w : Word) : BitVec 7 := w.extractLsb' 56 7
def fHdr (w : Word) : Hdr :=
  { la := w.extractLsb' 52 4, gap := w.extractLsb' 50 2, gw := w.extractLsb' 49 1 == 1
    guard := w.extractLsb' 46 3, gn := w.extractLsb' 45 1 == 1 }
/-- The header of an FB word: no lookahead and no gap (03 R49). -/
def fHdrFB (w : Word) : Hdr :=
  { la := 0, gap := 0, gw := w.extractLsb' 49 1 == 1, guard := w.extractLsb' 46 3, gn := w.extractLsb' 45 1 == 1 }
def fDst (w : Word) : BitVec 10 := w.extractLsb' 35 10
def fA (w : Word) : BitVec 10 := w.extractLsb' 25 10
def fB (w : Word) : BitVec 10 := w.extractLsb' 15 10
def fMod (w : Word) (lo n : Nat) : BitVec n := w.extractLsb' lo n
def fC (w : Word) : BitVec 8 := w.extractLsb' 7 8
def fTy (w : Word) : Option Ty := decTy (w.extractLsb' 3 4)
def fRnd (w : Word) : Rnd := decRnd (w.extractLsb' 1 2)
def fSat (w : Word) : Bool := w.extractLsb' 0 1 == 1
/-- RND and SAT are zero. -/
def noRS (w : Word) : Bool := w.extractLsb' 0 3 == 0

/-! ### Parsers by shape -/

def parse3 (w : Word) (k : Hdr → Ty → Operand → Operand → Operand → Instr) : Option Instr := do
  need (fC w == 0 && noRS w)
  let t ← fTy w
  let d ← decOp (fDst w)
  let a ← decOp (fA w)
  let b ← decOp (fB w)
  some (k (fHdr w) t d a b)

def parse2 (w : Word) (k : Hdr → Ty → Operand → Operand → Instr) : Option Instr := do
  need (fC w == 0 && noRS w && fB w == 0)
  let t ← fTy w
  let d ← decOp (fDst w)
  let a ← decOp (fA w)
  some (k (fHdr w) t d a)

def parseC (w : Word) (k : Hdr → Ty → Operand → Operand → Operand → BitVec 8 → Instr) : Option Instr := do
  need (noRS w)
  let t ← fTy w
  let d ← decOp (fDst w)
  let a ← decOp (fA w)
  let b ← decOp (fB w)
  some (k (fHdr w) t d a b (fC w))

def parseF3 (w : Word) (k : Hdr → Ty → Rnd → Bool → Operand → Operand → Operand → Instr) : Option Instr := do
  need (fC w == 0)
  let t ← fTy w
  let d ← decOp (fDst w)
  let a ← decOp (fA w)
  let b ← decOp (fB w)
  some (k (fHdr w) t (fRnd w) (fSat w) d a b)

def parseFC (w : Word) (k : Hdr → Ty → Rnd → Bool → Operand → Operand → Operand → BitVec 8 → Instr) : Option Instr := do
  let t ← fTy w
  let d ← decOp (fDst w)
  let a ← decOp (fA w)
  let b ← decOp (fB w)
  some (k (fHdr w) t (fRnd w) (fSat w) d a b (fC w))

/-- A word whose body is all zero. -/
def parse0 (w : Word) (k : Hdr → Instr) : Option Instr := do
  need (w.extractLsb' 0 45 == 0)
  some (k (fHdr w))

/-- One operand a, every other field of the body but `m` mod bits from bit `lo` zero. -/
def parseA (w : Word) (modOk : Bool) (k : Hdr → Operand → Instr) : Option Instr := do
  need (fDst w == 0 && fB w == 0 && modOk)
  let a ← decOp (fA w)
  some (k (fHdr w) a)

/-- Operands a and b, dst zero. -/
def parseAB (w : Word) (modOk : Bool) (k : Hdr → Operand → Operand → Instr) : Option Instr := do
  need (fDst w == 0 && modOk)
  let a ← decOp (fA w)
  let b ← decOp (fB w)
  some (k (fHdr w) a b)

/-- Operands d and a, b zero. -/
def parseDA (w : Word) (modOk : Bool) (k : Hdr → Operand → Operand → Instr) : Option Instr := do
  need (fB w == 0 && modOk)
  let d ← decOp (fDst w)
  let a ← decOp (fA w)
  some (k (fHdr w) d a)

/-- Operands d, a and b. -/
def parseDAB (w : Word) (modOk : Bool) (k : Hdr → Operand → Operand → Operand → Instr) : Option Instr := do
  need modOk
  let d ← decOp (fDst w)
  let a ← decOp (fA w)
  let b ← decOp (fB w)
  some (k (fHdr w) d a b)

/-- Operand d alone. -/
def parseD (w : Word) (modOk : Bool) (k : Hdr → Operand → Instr) : Option Instr := do
  need (fA w == 0 && fB w == 0 && modOk)
  let d ← decOp (fDst w)
  some (k (fHdr w) d)

/-- The immediate of an operand field, which must hold one. -/
def immOf (x : BitVec 10) : Option (BitVec 8) := if x.extractLsb' 8 2 = 3 then some (x.extractLsb' 0 8) else none

/-- The plain vector register of an operand field, which must name one. -/
def vOf (x : BitVec 10) : Option (BitVec 8) := if x.extractLsb' 8 2 = 0 then some (x.extractLsb' 0 8) else none

/-- The scalar register of an operand field, which must name one. -/
def sOf (x : BitVec 10) : Option (BitVec 6) := if x.extractLsb' 6 4 = 4 then some (x.extractLsb' 0 6) else none

/-! ### The majors -/

/-- Control and system, majors 0x01-0x0F (07). -/
def parseControl (w : Word) (m : Nat) : Option Instr :=
  let fi0 := w.extractLsb' 16 29 == 0        -- dst, a and imm[24:16] zero
  match m with
  | 0x01 => parse0 w .nop
  | 0x02 | 0x04 => do
    let kind ← decKind (w.extractLsb' 32 3)
    let fp : BitVec 8 := w.extractLsb' 50 6 ++ w.extractLsb' 43 2
    some ((if m = 2 then Instr.bra else Instr.call) (fHdrFB w) kind (w.extractLsb' 35 8) fp (w.extractLsb' 0 32))
  | 0x03 | 0x05 => do
    need (fDst w == 0 && w.extractLsb' 23 2 == 0 && fMod w 0 7 == 0)
    let a ← decOp (fA w)
    some ((if m = 3 then Instr.brx else Instr.ret) (fHdr w) a (fC w) (w.extractLsb' 15 8))
  | 0x06 => parse0 w .exit
  | 0x07 => do
    need (fDst w == 0 && fB w == 0 && fMod w 0 12 == 0)
    let a ← sOf (fA w)
    if fMod w 12 3 = 0 then some (.parkCtr (fHdr w) a)
    else if fMod w 12 3 = 1 then some (.parkWalk (fHdr w) a)
    else none
  | 0x08 => parse0 w .yield
  | 0x09 => do
    need (w.extractLsb' 8 37 == 0)
    some (.bar (fHdr w) (w.extractLsb' 0 8))
  | 0x0A => do
    need fi0
    some (.trap (fHdr w) (w.extractLsb' 0 16))
  | 0x0B => do
    need (w.extractLsb' 15 30 == 0 && fMod w 0 12 == 0)
    if fMod w 12 3 = 0 then some (.tretRetry (fHdr w))
    else if fMod w 12 3 = 1 then some (.tretSkip (fHdr w))
    else none
  | 0x0C => do
    need fi0
    some (.bkpt (fHdr w) (w.extractLsb' 0 16))
  | 0x0D => do
    need (w.extractLsb' 12 23 == 0)
    let d ← decOp (fDst w)
    some (.csrr (fHdr w) d (w.extractLsb' 0 12))
  | 0x0E => do
    need (fDst w == 0 && w.extractLsb' 12 13 == 0)
    let a ← decOp (fA w)
    some (.csrw (fHdr w) (w.extractLsb' 0 12) a)
  | 0x0F => parseAB w (fMod w 0 15 == 0) .shape
  | _ => none

/-- Integer, logic, floating point and conversions, majors 0x10-0x4A (06). -/
def parseLane (w : Word) (m : Nat) : Option Instr :=
  match m with
  | 0x10 => parse3 w .iadd
  | 0x11 => parse3 w .isub
  | 0x12 => parse3 w .imul
  | 0x13 => parse3 w .imulh
  | 0x14 => parseC w .imad
  | 0x15 => parse2 w .ineg
  | 0x16 => parse2 w .iabs
  | 0x17 => parse3 w .imin
  | 0x18 => parse3 w .imax
  | 0x19 => parse3 w .iadds
  | 0x1A => parse3 w .isubs
  | 0x1B => parse3 w .and
  | 0x1C => parse3 w .or
  | 0x1D => parse3 w .xor
  | 0x1E => parse2 w .not
  | 0x1F => parse3 w .andn
  | 0x20 => parse3 w .shl
  | 0x21 => parse3 w .shr
  | 0x22 => parse3 w .sar
  | 0x23 => parse3 w .rot
  | 0x24 => parse3 w .bfe
  | 0x25 => parseC w .bfi
  | 0x26 => parse2 w .popc
  | 0x27 => parse2 w .clz
  | 0x28 => parse2 w .ctz
  | 0x29 => parse2 w .brev
  | 0x2B => parseC w .sel
  | 0x30 => parseF3 w .fadd
  | 0x31 => parseF3 w .fsub
  | 0x32 => parseF3 w .fmul
  | 0x33 => parseFC w .fmac
  | 0x34 => parse3 w .fmin
  | 0x35 => parse3 w .fmax
  | 0x36 => parse2 w .fabs
  | 0x37 => parse2 w .fneg
  | 0x39 => parse2 w .fclass
  | 0x3D => parse2 w .frcp
  | 0x3E => parse2 w .frsq
  | 0x3F => parse2 w .fexp2
  | 0x40 => parse2 w .flog2
  | 0x41 => parse2 w .fsin
  | 0x42 => parse2 w .fcos
  | 0x43 => parse2 w .ftanh
  | 0x44 => parseF3 w .hadd2
  | 0x45 => parseF3 w .hmul2
  | 0x46 => parseFC w .hmac2
  | 0x2A => do
    need (fDst w >>> 3 == 0 && fMod w 10 5 == 0 && noRS w)
    let t ← fTy w
    let cc ← decICond (fMod w 7 3)
    let a ← decOp (fA w)
    let b ← decOp (fB w)
    some (.icmp (fHdr w) t ((fDst w).setWidth 3) cc a b)
  | 0x2C => do
    need (fB w == 0 && fMod w 11 4 == 0 && noRS w)
    let t ← fTy w
    let d ← (if fMod w 7 2 = 0 then (decOp (fDst w)).map MovDst.reg
      else if fMod w 7 2 = 1 then (if fDst w >>> 3 = 0 then some (MovDst.pred ((fDst w).setWidth 3)) else none)
      else if fMod w 7 2 = 2 then (if fDst w >>> 2 = 0 then some (MovDst.idx ((fDst w).setWidth 2)) else none)
      else none)
    let a ← (if fMod w 9 2 = 0 then (decOp (fA w)).map MovSrc.op
      else if fMod w 9 2 = 1 then (if fA w >>> 3 = 0 then some (MovSrc.pred ((fA w).setWidth 3)) else none)
      else none)
    some (.mov (fHdr w) t d a)
  | 0x2D => do
    let sub ← (if w.extractLsb' 32 3 = 0 then some MoviSub.sx
      else if w.extractLsb' 32 3 = 1 then some MoviSub.zx
      else if w.extractLsb' 32 3 = 2 then some MoviSub.hi
      else none)
    let d ← decOp (fDst w)
    some (.movi (fHdr w) sub d (w.extractLsb' 0 32))
  | 0x2E => do
    need (fMod w 10 5 == 0 && noRS w)
    let t ← fTy w
    let d ← decOp (fDst w)
    let a ← decOp (fA w)
    let b ← decOp (fB w)
    some (.lea (fHdr w) t d a b (fMod w 7 3))
  | 0x38 => do
    need (fDst w >>> 3 == 0 && fMod w 10 5 == 0 && noRS w)
    let t ← fTy w
    let a ← decOp (fA w)
    let b ← decOp (fB w)
    some (.fcmp (fHdr w) t ((fDst w).setWidth 3) (decFCond (fMod w 7 3)) a b)
  | 0x3A => do
    need (fC w == 0 && !fSat w && fB w == 0)
    let t ← fTy w
    let d ← decOp (fDst w)
    let a ← decOp (fA w)
    some (.frnd (fHdr w) t (fRnd w) d a)
  | 0x3B => do
    need (fC w == 0 && !fSat w)
    let t ← fTy w
    let d ← decOp (fDst w)
    let a ← decOp (fA w)
    let b ← decOp (fB w)
    some (.fdiv (fHdr w) t (fRnd w) d a b)
  | 0x3C => do
    need (fC w == 0 && !fSat w && fB w == 0)
    let t ← fTy w
    let d ← decOp (fDst w)
    let a ← decOp (fA w)
    some (.fsqrt (fHdr w) t (fRnd w) d a)
  | 0x47 => do
    need (fMod w 11 4 == 0 && fB w == 0)
    let dt ← fTy w
    let src ← decTy (fMod w 7 4)
    let d ← decOp (fDst w)
    let a ← decOp (fA w)
    some (.cvt (fHdr w) dt src (fRnd w) (fSat w) d a)
  | 0x48 => do
    need (fMod w 9 6 == 0 && fMod w 0 7 == 0x40)
    let d ← decOp (fDst w)
    let a ← decOp (fA w)
    if fMod w 8 1 = 1 then (if fB w = 0 then some (.cvtn (fHdr w) (fMod w 7 1 == 1) none d a) else none)
    else (decOp (fB w)).map (fun b => .cvtn (fHdr w) (fMod w 7 1 == 1) (some b) d a)
  | 0x49 => do
    need (fMod w 8 7 == 0 && !fSat w && fB w == 0)
    let t ← fTy w
    let d ← decOp (fDst w)
    let a ← decOp (fA w)
    some (.cvtw (fHdr w) t (fMod w 7 1 == 1) (fRnd w) d a)
  | 0x4A => do
    need (fMod w 8 7 == 0 && fMod w 0 7 == 0x40)
    let d ← decOp (fDst w)
    let a ← decOp (fA w)
    let rho ← vOf (fB w)
    some (.qres (fHdr w) (fMod w 7 1 == 1) d a rho)
  | _ => none

/-- Cross-lane, majors 0x50-0x5C (07). -/
def parseCross (w : Word) (m : Nat) : Option Instr :=
  let zip (k : Hdr → BitVec 8 → BitVec 8 → Instr) : Option Instr := do
    need (fB w == 0 && fMod w 0 15 == 0)
    let d ← vOf (fDst w)
    let a ← vOf (fA w)
    some (k (fHdr w) d a)
  match m with
  | 0x50 => do
    need (fMod w 0 10 == 0)
    let mode := (match (fMod w 13 2).toNat with | 0 => ShflMode.up | 1 => .down | 2 => .xor | _ => .rot)
    let d ← decOp (fDst w)
    let a ← decOp (fA w)
    if fMod w 10 3 = 0 then (decOp (fB w)).map (fun b => .shfl (fHdr w) mode (.abs b) d a)
    else do
      need (fB w == 0)
      let off ← (match (fMod w 10 3).toNat with
        | 1 => some ShflOff.w1 | 2 => some .w2 | 3 => some .w4 | 4 => some .w8 | 5 => some .w16
        | _ => none)
      some (.shfl (fHdr w) mode off d a)
  | 0x51 => parseDAB w (fMod w 0 15 == 0) .shflx
  | 0x52 => do
    need (fMod w 0 14 == 0)
    let d ← decOp (fDst w)
    let a ← decOp (fA w)
    if fMod w 14 1 = 1 then (if fB w = 0 then some (.bcast (fHdr w) .first d a) else none)
    else (decOp (fB w)).map (fun b => .bcast (fHdr w) (.lane b) d a)
  | 0x53 => parseDAB w (fMod w 0 15 == 0) .perm
  | 0x54 => do
    need (fA w >>> 3 == 0 && fB w == 0 && fMod w 0 12 == 0)
    let d ← (match (fMod w 12 3).toNat with
      | 0 => (decOp (fDst w)).map VoteDst.mask
      | 1 => (decOp (fDst w)).map VoteDst.count
      | 2 => (decOp (fDst w)).map VoteDst.first
      | 3 => if fDst w >>> 3 = 0 then some (VoteDst.some ((fDst w).setWidth 3)) else none
      | 4 => if fDst w >>> 3 = 0 then some (VoteDst.every ((fDst w).setWidth 3)) else none
      | 5 => if fDst w >>> 3 = 0 then some (VoteDst.same ((fDst w).setWidth 3)) else none
      | _ => none)
    some (.vote (fHdr w) d ((fA w).setWidth 3))
  | 0x55 => do
    need (fMod w 7 1 == 0)
    let op ← decRedOp (fMod w 12 3)
    let t ← fTy w
    let d ← decOp (fDst w)
    let a ← decOp (fA w)
    if fMod w 8 1 = 1 then do
      need (fMod w 9 3 == 0)
      let k ← immOf (fB w)
      some (.redStep (fHdr w) op t (fRnd w) (fSat w) k d a)
    else if fB w = 0 then some (.red (fHdr w) op t (fRnd w) (fSat w) (fMod w 9 3) d a)
    else none
  | 0x56 => do
    need (fMod w 7 1 == 0 && fB w == 0)
    let op ← decRedOp (fMod w 12 3)
    let t ← fTy w
    let d ← decOp (fDst w)
    let a ← decOp (fA w)
    some (.scan (fHdr w) op (fMod w 8 1 == 1) t (fRnd w) (fSat w) (fMod w 9 3) d a)
  | 0x57 => zip .zip2
  | 0x58 => zip .zip3
  | 0x59 => zip .zip4
  | 0x5A => zip .unzip2
  | 0x5B => zip .unzip3
  | 0x5C => zip .unzip4
  | _ => none

/-- Space, order, width and offset of an FM word (03 R48), checked together because the flags mean what the space says. -/
def fmFields (w : Word) : Option (Space × Order × Width × BitVec 20) := do
  let wd ← decWidth (fMod w 2 3)
  let o := fMod w 5 2
  let fl := fMod w 0 2
  let off20 : BitVec 20 := w.extractLsb' 9 20
  let off17 : BitVec 20 := (off20.setWidth 17).signExtend 20
  if fMod w 7 2 = 2 then
    if o = 0 ∧ (fMod w 1 1) = 0 then some (.acc (fMod w 0 1 == 1), .plain, wd, off20) else none
  else if fMod w 7 2 = 3 then none
  else
    let isSp := fMod w 7 2 = 1
    let space : Space := if isSp then .sp (match fl.toNat with | 0 => .none | 1 => .keep | 2 => .take | _ => .fill) else .g
    if o = 0 then (if isSp ∨ fl = 0 then some (space, .plain, wd, off20) else none)
    else do
      let sc ← decScope (off20.extractLsb' 17 3)
      if o = 1 then (if isSp ∨ fl = 0 then some (space, .acq sc, wd, off17) else none)
      else if o = 2 then (if isSp ∨ fl = 0 then some (space, .rel sc, wd, off17) else none)
      else if isSp ∨ fl = 1 then some (space, .sc sc, wd, off17)
      else if fl = 0 then some (space, .ar sc, wd, off17)
      else none

/-- Memory and iterators, majors 0x60-0x6F (10). -/
def parseMemory (w : Word) (m : Nat) : Option Instr :=
  match m with
  | 0x60 | 0x61 => do
    let (space, ord, wd, off) ← fmFields w
    let d ← decOp (fDst w)
    some ((if m = 0x60 then Instr.ld else Instr.st) (fHdr w) space ord wd (w.extractLsb' 29 6) off d)
  | 0x62 | 0x63 => do
    let (space, ord, wd, off) ← fmFields w
    need (space == .g)
    let d ← decOp (fDst w)
    some ((if m = 0x62 then Instr.ldh else Instr.sth) (fHdr w) ord wd (w.extractLsb' 29 6) off d)
  | 0x64 => do
    let op ← decAtomOp (fMod w 11 4)
    let t ← decTy (fMod w 7 4)
    let ord ← decAtomOrd (fMod w 5 2) (fMod w 2 3) (fMod w 1 1)
    let a ← decOp (fA w)
    let d ← (if op = .st then (if fDst w = 0 then some none else none) else (decOp (fDst w)).map some)
    let b ← (if op = .ld then (if fB w = 0 then some none else none) else (decOp (fB w)).map some)
    some (.atom (fHdr w) op t ord (fMod w 0 1 == 1) d a b)
  | 0x65 => do
    need (fMod w 11 1 == 0)
    let t ← decTy (fMod w 7 4)
    let ord ← decAtomOrd (fMod w 5 2) (fMod w 2 3) (fMod w 1 1)
    let d ← decOp (fDst w)
    let a ← decOp (fA w)
    let b ← decOp (fB w)
    some (.cas (fHdr w) t ord (fMod w 0 1 == 1) (fMod w 12 3) d a b)
  | 0x66 => do
    need (fDst w == 0 && fMod w 11 1 == 0 && fMod w 5 2 == 0 && fMod w 0 2 == 0)
    let op ← decRedmOp (fMod w 12 3)
    let t ← decTy (fMod w 7 4)
    let sc ← decScope (fMod w 2 3)
    let a ← decOp (fA w)
    let b ← decOp (fB w)
    some (.redm (fHdr w) op t sc a b)
  | 0x67 => do
    need (w.extractLsb' 8 37 == 0)
    some (.flusha (fHdr w) (fMod w 0 8))
  | 0x68 => do
    need (w.extractLsb' 15 30 == 0 && fMod w 0 9 == 0)
    let sc ← decScope (fMod w 9 3)
    some (.fence (fHdr w) (decFence (fMod w 13 2)) (fMod w 12 1 == 1) sc)
  | 0x69 => parse0 w .afence
  | 0x6A => do
    let (space, ord, wd, off) ← fmFields w
    need (space == .g && ord == .plain)
    let d ← decOp (fDst w)
    some (.pref (fHdr w) wd (w.extractLsb' 29 6) off d)
  | 0x6B => parseA w (fMod w 0 14 == 0) (fun h a => .copy h (fMod w 14 1 == 1) a)
  | 0x6C => do
    need (fDst w == 0 && fB w == 0 && fMod w 0 7 == 0)
    let a ← decOp (fA w)
    if fMod w 14 1 = 1 then (if fMod w 7 3 = 0 then some (.nset (fHdr w) .sp (fMod w 10 4) a) else none)
    else some (.nset (fHdr w) (.word (fMod w 7 3)) (fMod w 10 4) a)
  | 0x6D => parseD w (fMod w 14 1 == 0 && fMod w 0 7 == 0) (fun h d => .nget h d (fMod w 10 4) (fMod w 7 3))
  | 0x6E => do
    need (w.extractLsb' 14 31 == 0 && fMod w 0 10 == 0)
    some (.nrst (fHdr w) (fMod w 10 4))
  | 0x6F => do
    need (fB w == 0)
    let t ← decTy (fMod w 0 4)
    let d ← sOf (fDst w)
    let ctr ← (if fA w = 0x18C then some none else (sOf (fA w)).map some)
    let op ← (if fMod w 12 3 = 0 then some (SweepOp.copy (fMod w 4 4))
      else if fMod w 4 4 ≠ 0 then none
      else if fMod w 12 3 = 1 then some SweepOp.add
      else if fMod w 12 3 = 2 then some SweepOp.min
      else if fMod w 12 3 = 3 then some SweepOp.max
      else none)
    some (.tsweep (fHdr w) op t (fMod w 8 4) d ctr)
  | _ => none

/-- Mass registers, majors 0x70-0x73 (08). The instructions that use no value form have RAW reserved (03 R46; 08 R155). -/
def parseMass (w : Word) (m : Nat) : Option Instr :=
  let raw := fMod w 9 1 == 1
  let mr : BitVec 2 := fMod w 10 2
  let ok := fMod w 0 9 == 0
  let noRaw := fMod w 0 10 == 0
  match m, (fMod w 12 3).toNat with
  | 0x70, 0 => parseA w noRaw (fun h a => .mtcfg h false mr a)
  | 0x70, 1 => do
    need (fDst w == 0 && fA w == 0 && noRaw)
    let k ← immOf (fB w)
    some (.mtlink (fHdr w) false mr k)
  | 0x70, 2 => do
    need (fDst w == 0 && fA w == 0 && fB w == 0 && noRaw)
    some (.mtclr (fHdr w) false mr)
  | 0x70, 3 => parseAB w ok (fun h a b => .mtload h raw mr a b)
  | 0x71, 0 => parseAB w ok (fun h a b => .mtset h raw mr a b)
  | 0x71, 1 => parseAB w (fMod w 0 8 == 0) (fun h a b => .mtadd h raw (fMod w 8 1 == 1) mr a b)
  | 0x72, 0 => parseDA w ok (fun h d a => .mtget h raw mr d a)
  | 0x72, 1 => parseDA w ok (fun h d a => .mtpfx h raw mr d a)
  | 0x72, 2 => parseDA w ok (fun h d a => .mtfind h raw mr d a)
  | 0x72, 3 => parseD w ok (fun h d => .mttot h raw mr d)
  | 0x73, 0 => parseDA w noRaw (fun h d a => .mtcutIdx h false mr d a)
  | 0x73, 1 => parseDA w ok (fun h d a => .mtcutMass h raw mr d a)
  | _, _ => none

/-- Walks, KV, tasks, prologue, collectives, digests and event counters, majors 0x74-0x7E (12, 13, 16, 17, 18). -/
def parseQueues (w : Word) (m : Nat) : Option Instr :=
  let m12 := fMod w 0 12 == 0
  match m, (fMod w 12 3).toNat with
  | 0x74, _ => parseDA w (fMod w 0 14 == 0) (fun h d a => .walk h (fMod w 14 1 == 1) d a)
  | 0x75, 0 => parseDAB w (fMod w 0 8 == 0) (fun h d a b => .wreg h (fMod w 8 4) d a b)
  | 0x75, 1 => do
    need m12
    let d ← decOp (fDst w)
    let a ← decOp (fA w)
    let k ← immOf (fB w)
    some (.wstat (fHdr w) d a k)
  | 0x75, 2 => parseA w m12 .wcancel
  | 0x75, 3 => do
    need (w.extractLsb' 15 30 == 0 && m12)
    some (.mfence (fHdr w))
  | 0x76, 0 => do
    need (fA w == 0 && m12)
    let d ← decOp (fDst w)
    let k ← immOf (fB w)
    some (.harg (fHdr w) d k)
  | 0x76, 1 => do
    need (w.extractLsb' 15 30 == 0 && fMod w 0 11 == 0)
    some (if fMod w 11 1 = 1 then .hretAbort (fHdr w) else .hret (fHdr w))
  | 0x77, _ => parseAB w (fMod w 0 15 == 0) .awin
  | 0x78, _ => parseDAB w (fMod w 0 14 == 0) (fun h d a b => .kvx h (fMod w 14 1 == 1) d a b)
  | 0x79, 0 => parseA w m12 .kvseal
  | 0x79, 1 => parseAB w m12 .kvfree
  | 0x7A, 0 => parseA w (fMod w 0 11 == 0) (fun h a => .tspawn h (fMod w 11 1 == 1) a)
  | 0x7A, 1 => parseAB w (fMod w 11 1 == 0 && fMod w 0 8 == 0 && (fMod w 8 3 == 4 || fMod w 8 3 == 5))
      (fun h a b => .tdec h (fMod w 8 3 == 5) a b)
  | 0x7A, 2 => parseDA w m12 .launch
  | 0x7B, 0 => parseAB w m12 .pemit
  | 0x7B, 1 => do
    need (w.extractLsb' 15 30 == 0 && m12)
    some (.pcancel (fHdr w))
  | 0x7B, 2 => parseAB w m12 .prepeat
  | 0x7C, _ => parseA w (fMod w 0 15 == 0) .coll
  | 0x7D, 0 => parseAB w (fMod w 6 6 == 0) (fun h a b => .dreg h (fMod w 0 6) a b)
  | 0x7D, 1 => do
    need (w.extractLsb' 15 30 == 0 && fMod w 6 6 == 0)
    some (.dunreg (fHdr w) (fMod w 0 6))
  | 0x7D, 2 => do
    need (fMod w 8 4 == 0)
    let pick ← (match (fMod w 6 2).toNat with | 0 => some DgSel.status | 1 => some .laneA | 2 => some .laneB | _ => none)
    parseD w true (fun h d => .dgrd h (fMod w 0 6) pick d)
  | 0x7E, 0 => parseA w (fMod w 2 10 == 0) (fun h a => .pmcfg h (fMod w 0 2) a)
  | 0x7E, 1 => parseD w (fMod w 2 10 == 0) (fun h d => .pmrd h (fMod w 0 2) d)
  | _, _ => none

/-- One half of a pair word (03 R54). -/
def parseHalf (x : BitVec 30) : Option Half := do
  let op ← decHalfOp (x.extractLsb' 23 7)
  let b ← decOp (x.extractLsb' 2 10)
  let t ← decHalfTy op (x.extractLsb' 0 2)
  some { op := op, guard := x.extractLsb' 20 3, d := x.extractLsb' 12 8, b := b, ty := t }

/-- The fields of a word, every code and reserved field checked (03 R44-R61). -/
def parse (w : Word) : Option Instr :=
  if w.extractLsb' 63 1 = 1 then do
    let h0 ← parseHalf (w.extractLsb' 0 30)
    let h1 ← parseHalf (w.extractLsb' 30 30)
    some (.pairWord (w.extractLsb' 61 2) (w.extractLsb' 60 1 == 1) h0 h1)
  else
    let m := (fMajor w).toNat
    if m < 0x10 then parseControl w m
    else if m < 0x50 then parseLane w m
    else if m < 0x60 then parseCross w m
    else if m < 0x70 then parseMemory w m
    else if m < 0x74 then parseMass w m
    else parseQueues w m

/-- The instruction of a word, `none` where R61 makes it ILLEGAL (PAIR where bit 63 is set). -/
def decode (w : Word) : Option Instr :=
  match parse w with
  | none => none
  | some i => if i.wf then some i else none

/-- The instruction that issues for a word: `illegal` where it is not an instruction. -/
def decodeWord (w : Word) : Instr := (decode w).getD (.illegal w)

/-- The host's reading of an opcode-table row: instructions are one 64-bit word, so the bits are the word. -/
def decodeTableWord (_nbits w : Nat) : Option Instr := decode (BitVec.ofNat 64 w)

/-! ### The encoder -/

/-- A full word: P, major, LA, GAP, GW, guard, GN and the body (03 R44). -/
def fullWord (major : BitVec 7) (h : Hdr) (body : BitVec 45) : Word :=
  0#1 ++ major ++ h.la ++ h.gap ++ encBit h.gw ++ h.guard ++ encBit h.gn ++ body

def frWord (major : BitVec 7) (h : Hdr) (d a b : BitVec 10) (m : BitVec 15) : Word :=
  fullWord major h (d ++ a ++ b ++ m)
def fiWord (major : BitVec 7) (h : Hdr) (d a : BitVec 10) (imm : BitVec 25) : Word :=
  fullWord major h (d ++ a ++ imm)
def fbWord (major : BitVec 7) (h : Hdr) (kind : BraKind) (tp fp : BitVec 8) (off : BitVec 32) : Word :=
  0#1 ++ major ++ fp.extractLsb' 2 6 ++ encBit h.gw ++ h.guard ++ encBit h.gn ++ fp.extractLsb' 0 2 ++ tp ++ encKind kind ++ off

/-- The common mod layout of majors 0x10-0x4F (03 R47). -/
def modOf (c : BitVec 8) (t : Ty) (r : Rnd) (sat : Bool) : BitVec 15 := c ++ encTy t ++ encRnd r ++ encBit sat

/-- The offset field of an FM word (03 R48). -/
def encOff (ord : Order) (off : BitVec 20) : BitVec 20 :=
  if ord.isPlain then off else encOrdScope ord ++ off.setWidth 17

/-- Space and flags of an FM word (03 R48). -/
def encSpace (space : Space) : BitVec 2 :=
  match space with
  | .g => 0
  | .sp _ => 1
  | .acc _ => 2
def encFlags (space : Space) (ord : Order) : BitVec 2 :=
  match space with
  | .g => (match ord with | .sc _ => 1 | _ => 0)
  | .sp .none => 0
  | .sp .keep => 1
  | .sp .take => 2
  | .sp .fill => 3
  | .acc hi => 0#1 ++ encBit hi
def fmWord (major : BitVec 7) (h : Hdr) (d : Operand) (base : BitVec 6) (off : BitVec 20) (space : Space) (ord : Order)
    (w : Width) : Word :=
  fullWord major h
    (encOp d ++ base ++ encOff ord off ++ encSpace space ++ encOrd ord ++ encWidth w ++ encFlags space ord)

/-- mod[14:12] = SUB above twelve further bits. -/
def subMod (s : BitVec 3) (rest : BitVec 12) : BitVec 15 := s ++ rest

def encMass (s : BitVec 3) (m : BitVec 2) (raw sgn : Bool) : BitVec 15 := s ++ m ++ encBit raw ++ encBit sgn ++ 0#8

def encImm (k : BitVec 8) : BitVec 10 := 3#2 ++ k
def encS (n : BitVec 6) : BitVec 10 := 4#4 ++ n
def encV (n : BitVec 8) : BitVec 10 := 0#2 ++ n
def encP (p : BitVec 3) : BitVec 10 := 0#7 ++ p

def encHalf (h : Half) : BitVec 30 := encHalfOp h.op ++ h.guard ++ h.d ++ encOp h.b ++ encHalfTy h.op h.ty

def encShflMode : ShflMode → BitVec 2
  | .up => 0 | .down => 1 | .xor => 2 | .rot => 3

/-- RED and SCAN mod (07 R128). -/
def redMod (op : RedOp) (pe : BitVec 3) (mode : Bool) (t : Ty) (r : Rnd) (sat : Bool) : BitVec 15 :=
  encRedOp op ++ pe ++ encBit mode ++ 0#1 ++ encTy t ++ encRnd r ++ encBit sat

/-- The word of an instruction, from the encoding tables of 03 and the home chapters; zero for the events. -/
def encode : Instr → Word
  | .nop h => frWord 0x01 h 0 0 0 0
  | .bra h k tp fp off => fbWord 0x02 h k tp fp off
  | .brx h a tp fp => frWord 0x03 h 0 (encOp a) (0#2 ++ fp) (tp ++ 0#7)
  | .call h k tp fp off => fbWord 0x04 h k tp fp off
  | .ret h a tp fp => frWord 0x05 h 0 (encOp a) (0#2 ++ fp) (tp ++ 0#7)
  | .exit h => frWord 0x06 h 0 0 0 0
  | .parkCtr h a => frWord 0x07 h 0 (encS a) 0 (subMod 0 0)
  | .parkWalk h a => frWord 0x07 h 0 (encS a) 0 (subMod 1 0)
  | .yield h => frWord 0x08 h 0 0 0 0
  | .bar h g => fiWord 0x09 h 0 0 (0#17 ++ g)
  | .trap h c => fiWord 0x0A h 0 0 (0#9 ++ c)
  | .tretRetry h => frWord 0x0B h 0 0 0 (subMod 0 0)
  | .tretSkip h => frWord 0x0B h 0 0 0 (subMod 1 0)
  | .bkpt h c => fiWord 0x0C h 0 0 (0#9 ++ c)
  | .csrr h d c => fiWord 0x0D h (encOp d) 0 (0#13 ++ c)
  | .csrw h c a => fiWord 0x0E h 0 (encOp a) (0#13 ++ c)
  | .shape h a b => frWord 0x0F h 0 (encOp a) (encOp b) 0
  | .iadd h t d a b => frWord 0x10 h (encOp d) (encOp a) (encOp b) (modOf 0 t .rn false)
  | .isub h t d a b => frWord 0x11 h (encOp d) (encOp a) (encOp b) (modOf 0 t .rn false)
  | .imul h t d a b => frWord 0x12 h (encOp d) (encOp a) (encOp b) (modOf 0 t .rn false)
  | .imulh h t d a b => frWord 0x13 h (encOp d) (encOp a) (encOp b) (modOf 0 t .rn false)
  | .imin h t d a b => frWord 0x17 h (encOp d) (encOp a) (encOp b) (modOf 0 t .rn false)
  | .imax h t d a b => frWord 0x18 h (encOp d) (encOp a) (encOp b) (modOf 0 t .rn false)
  | .iadds h t d a b => frWord 0x19 h (encOp d) (encOp a) (encOp b) (modOf 0 t .rn false)
  | .isubs h t d a b => frWord 0x1A h (encOp d) (encOp a) (encOp b) (modOf 0 t .rn false)
  | .and h t d a b => frWord 0x1B h (encOp d) (encOp a) (encOp b) (modOf 0 t .rn false)
  | .or h t d a b => frWord 0x1C h (encOp d) (encOp a) (encOp b) (modOf 0 t .rn false)
  | .xor h t d a b => frWord 0x1D h (encOp d) (encOp a) (encOp b) (modOf 0 t .rn false)
  | .andn h t d a b => frWord 0x1F h (encOp d) (encOp a) (encOp b) (modOf 0 t .rn false)
  | .shl h t d a b => frWord 0x20 h (encOp d) (encOp a) (encOp b) (modOf 0 t .rn false)
  | .shr h t d a b => frWord 0x21 h (encOp d) (encOp a) (encOp b) (modOf 0 t .rn false)
  | .sar h t d a b => frWord 0x22 h (encOp d) (encOp a) (encOp b) (modOf 0 t .rn false)
  | .rot h t d a b => frWord 0x23 h (encOp d) (encOp a) (encOp b) (modOf 0 t .rn false)
  | .bfe h t d a b => frWord 0x24 h (encOp d) (encOp a) (encOp b) (modOf 0 t .rn false)
  | .ineg h t d a => frWord 0x15 h (encOp d) (encOp a) 0 (modOf 0 t .rn false)
  | .iabs h t d a => frWord 0x16 h (encOp d) (encOp a) 0 (modOf 0 t .rn false)
  | .not h t d a => frWord 0x1E h (encOp d) (encOp a) 0 (modOf 0 t .rn false)
  | .popc h t d a => frWord 0x26 h (encOp d) (encOp a) 0 (modOf 0 t .rn false)
  | .clz h t d a => frWord 0x27 h (encOp d) (encOp a) 0 (modOf 0 t .rn false)
  | .ctz h t d a => frWord 0x28 h (encOp d) (encOp a) 0 (modOf 0 t .rn false)
  | .brev h t d a => frWord 0x29 h (encOp d) (encOp a) 0 (modOf 0 t .rn false)
  | .imad h t d a b z => frWord 0x14 h (encOp d) (encOp a) (encOp b) (modOf z t .rn false)
  | .bfi h t d a b z => frWord 0x25 h (encOp d) (encOp a) (encOp b) (modOf z t .rn false)
  | .sel h t d a b z => frWord 0x2B h (encOp d) (encOp a) (encOp b) (modOf z t .rn false)
  | .fadd h t rnd sat d a b => frWord 0x30 h (encOp d) (encOp a) (encOp b) (modOf 0 t rnd sat)
  | .fsub h t rnd sat d a b => frWord 0x31 h (encOp d) (encOp a) (encOp b) (modOf 0 t rnd sat)
  | .fmul h t rnd sat d a b => frWord 0x32 h (encOp d) (encOp a) (encOp b) (modOf 0 t rnd sat)
  | .hadd2 h t rnd sat d a b => frWord 0x44 h (encOp d) (encOp a) (encOp b) (modOf 0 t rnd sat)
  | .hmul2 h t rnd sat d a b => frWord 0x45 h (encOp d) (encOp a) (encOp b) (modOf 0 t rnd sat)
  | .fmac h t rnd sat d a b z => frWord 0x33 h (encOp d) (encOp a) (encOp b) (modOf z t rnd sat)
  | .hmac2 h t rnd sat d a b z => frWord 0x46 h (encOp d) (encOp a) (encOp b) (modOf z t rnd sat)
  | .fmin h t d a b => frWord 0x34 h (encOp d) (encOp a) (encOp b) (modOf 0 t .rn false)
  | .fmax h t d a b => frWord 0x35 h (encOp d) (encOp a) (encOp b) (modOf 0 t .rn false)
  | .fabs h t d a => frWord 0x36 h (encOp d) (encOp a) 0 (modOf 0 t .rn false)
  | .fneg h t d a => frWord 0x37 h (encOp d) (encOp a) 0 (modOf 0 t .rn false)
  | .fclass h t d a => frWord 0x39 h (encOp d) (encOp a) 0 (modOf 0 t .rn false)
  | .frcp h t d a => frWord 0x3D h (encOp d) (encOp a) 0 (modOf 0 t .rn false)
  | .frsq h t d a => frWord 0x3E h (encOp d) (encOp a) 0 (modOf 0 t .rn false)
  | .fexp2 h t d a => frWord 0x3F h (encOp d) (encOp a) 0 (modOf 0 t .rn false)
  | .flog2 h t d a => frWord 0x40 h (encOp d) (encOp a) 0 (modOf 0 t .rn false)
  | .fsin h t d a => frWord 0x41 h (encOp d) (encOp a) 0 (modOf 0 t .rn false)
  | .fcos h t d a => frWord 0x42 h (encOp d) (encOp a) 0 (modOf 0 t .rn false)
  | .ftanh h t d a => frWord 0x43 h (encOp d) (encOp a) 0 (modOf 0 t .rn false)
  | .icmp h t p cc a b => frWord 0x2A h (encP p) (encOp a) (encOp b) (modOf (0#5 ++ encICond cc) t .rn false)
  | .mov h t d a =>
    let dc : BitVec 2 := match d with | .reg _ => 0 | .pred _ => 1 | .idx _ => 2
    let ac : BitVec 2 := match a with | .op _ => 0 | .pred _ => 1
    let df : BitVec 10 := match d with | .reg d => encOp d | .pred p => encP p | .idx i => 0#8 ++ i
    let af : BitVec 10 := match a with | .op a => encOp a | .pred p => encP p
    frWord 0x2C h df af 0 (modOf (0#4 ++ ac ++ dc) t .rn false)
  | .movi h s d imm =>
    let c : BitVec 3 := match s with | .sx => 0 | .zx => 1 | .hi => 2
    fullWord 0x2D h (encOp d ++ c ++ imm)
  | .lea h t d a b s => frWord 0x2E h (encOp d) (encOp a) (encOp b) (modOf (0#5 ++ s) t .rn false)
  | .fcmp h t p cc a b => frWord 0x38 h (encP p) (encOp a) (encOp b) (modOf (0#5 ++ encFCond cc) t .rn false)
  | .frnd h t r d a => frWord 0x3A h (encOp d) (encOp a) 0 (modOf 0 t r false)
  | .fdiv h t r d a b => frWord 0x3B h (encOp d) (encOp a) (encOp b) (modOf 0 t r false)
  | .fsqrt h t r d a => frWord 0x3C h (encOp d) (encOp a) 0 (modOf 0 t r false)
  | .cvt h dt src r sat d a => frWord 0x47 h (encOp d) (encOp a) 0 (modOf (0#4 ++ encTy src) dt r sat)
  | .cvtn h t6 b d a =>
    let bf : BitVec 10 := match b with | none => 0 | some b => encOp b
    frWord 0x48 h (encOp d) (encOp a) bf (modOf (0#6 ++ encBit b.isNone ++ encBit t6) .f32 .rn false)
  | .cvtw h t t6 r d a => frWord 0x49 h (encOp d) (encOp a) 0 (modOf (0#7 ++ encBit t6) t r false)
  | .qres h t6 d a rho => frWord 0x4A h (encOp d) (encOp a) (encV rho) (modOf (0#7 ++ encBit t6) .f32 .rn false)
  | .pairWord gap gw h0 h1 => 1#1 ++ gap ++ encBit gw ++ encHalf h1 ++ encHalf h0
  | .shfl h mode off d a =>
    let c : BitVec 3 := match off with | .abs _ => 0 | .w1 => 1 | .w2 => 2 | .w4 => 3 | .w8 => 4 | .w16 => 5
    let bf : BitVec 10 := match off with | .abs b => encOp b | _ => 0
    frWord 0x50 h (encOp d) (encOp a) bf (encShflMode mode ++ c ++ 0#10)
  | .shflx h d a b => frWord 0x51 h (encOp d) (encOp a) (encOp b) 0
  | .bcast h pick d a =>
    (match pick with
      | .first => frWord 0x52 h (encOp d) (encOp a) 0 (1#1 ++ 0#14)
      | .lane b => frWord 0x52 h (encOp d) (encOp a) (encOp b) 0)
  | .perm h d a b => frWord 0x53 h (encOp d) (encOp a) (encOp b) 0
  | .vote h d p =>
    (match d with
      | .mask d => frWord 0x54 h (encOp d) (encP p) 0 (subMod 0 0)
      | .count d => frWord 0x54 h (encOp d) (encP p) 0 (subMod 1 0)
      | .first d => frWord 0x54 h (encOp d) (encP p) 0 (subMod 2 0)
      | .some q => frWord 0x54 h (encP q) (encP p) 0 (subMod 3 0)
      | .every q => frWord 0x54 h (encP q) (encP p) 0 (subMod 4 0)
      | .same q => frWord 0x54 h (encP q) (encP p) 0 (subMod 5 0))
  | .red h op t r sat pe d a => frWord 0x55 h (encOp d) (encOp a) 0 (redMod op pe false t r sat)
  | .redStep h op t r sat k d a => frWord 0x55 h (encOp d) (encOp a) (encImm k) (redMod op 0 true t r sat)
  | .scan h op excl t r sat pe d a => frWord 0x56 h (encOp d) (encOp a) 0 (redMod op pe excl t r sat)
  | .zip2 h d a => frWord 0x57 h (encV d) (encV a) 0 0
  | .zip3 h d a => frWord 0x58 h (encV d) (encV a) 0 0
  | .zip4 h d a => frWord 0x59 h (encV d) (encV a) 0 0
  | .unzip2 h d a => frWord 0x5A h (encV d) (encV a) 0 0
  | .unzip3 h d a => frWord 0x5B h (encV d) (encV a) 0 0
  | .unzip4 h d a => frWord 0x5C h (encV d) (encV a) 0 0
  | .ld h space ord w base off d => fmWord 0x60 h d base off space ord w
  | .st h space ord w base off d => fmWord 0x61 h d base off space ord w
  | .ldh h ord w base off d => fmWord 0x62 h d base off .g ord w
  | .sth h ord w base off d => fmWord 0x63 h d base off .g ord w
  | .atom h op t ord sp d a b =>
    let df : BitVec 10 := match d with | none => 0 | some d => encOp d
    let bf : BitVec 10 := match b with | none => 0 | some b => encOp b
    frWord 0x64 h df (encOp a) bf (encAtomOp op ++ encTy t ++ encOrd ord ++ encOrdScope ord ++ encSc ord ++ encBit sp)
  | .cas h t ord sp ps d a b =>
    frWord 0x65 h (encOp d) (encOp a) (encOp b)
      (ps ++ 0#1 ++ encTy t ++ encOrd ord ++ encOrdScope ord ++ encSc ord ++ encBit sp)
  | .redm h op t sc a b =>
    frWord 0x66 h 0 (encOp a) (encOp b) (encRedmOp op ++ 0#1 ++ encTy t ++ 0#2 ++ encScope sc ++ 0#2)
  | .flusha h g => frWord 0x67 h 0 0 0 (0#7 ++ g)
  | .fence h o all sc => frWord 0x68 h 0 0 0 (encFence o ++ encBit all ++ encScope sc ++ 0#9)
  | .afence h => frWord 0x69 h 0 0 0 0
  | .pref h w base off d => fmWord 0x6A h d base off .g .plain w
  | .copy h sp a => frWord 0x6B h 0 (encOp a) 0 (encBit sp ++ 0#14)
  | .nset h form n a =>
    (match form with
      | .sp => frWord 0x6C h 0 (encOp a) 0 (1#1 ++ n ++ 0#10)
      | .word k => frWord 0x6C h 0 (encOp a) 0 (0#1 ++ n ++ k ++ 0#7))
  | .nget h d n k => frWord 0x6D h (encOp d) 0 0 (0#1 ++ n ++ k ++ 0#7)
  | .nrst h n => frWord 0x6E h 0 0 0 (0#1 ++ n ++ 0#10)
  | .tsweep h op t ns d ctr =>
    let c : BitVec 3 := match op with | .copy _ => 0 | .add => 1 | .min => 2 | .max => 3
    let nd : BitVec 4 := match op with | .copy nd => nd | _ => 0
    let af : BitVec 10 := match ctr with | none => 0x18C | some r => encS r
    frWord 0x6F h (encS d) af 0 (c ++ ns ++ nd ++ encTy t)
  | .mtcfg h raw m a => frWord 0x70 h 0 (encOp a) 0 (encMass 0 m raw false)
  | .mtlink h raw m k => frWord 0x70 h 0 0 (encImm k) (encMass 1 m raw false)
  | .mtclr h raw m => frWord 0x70 h 0 0 0 (encMass 2 m raw false)
  | .mtload h raw m a b => frWord 0x70 h 0 (encOp a) (encOp b) (encMass 3 m raw false)
  | .mtset h raw m a b => frWord 0x71 h 0 (encOp a) (encOp b) (encMass 0 m raw false)
  | .mtadd h raw sgn m a b => frWord 0x71 h 0 (encOp a) (encOp b) (encMass 1 m raw sgn)
  | .mtget h raw m d a => frWord 0x72 h (encOp d) (encOp a) 0 (encMass 0 m raw false)
  | .mtpfx h raw m d a => frWord 0x72 h (encOp d) (encOp a) 0 (encMass 1 m raw false)
  | .mtfind h raw m d a => frWord 0x72 h (encOp d) (encOp a) 0 (encMass 2 m raw false)
  | .mttot h raw m d => frWord 0x72 h (encOp d) 0 0 (encMass 3 m raw false)
  | .mtcutIdx h raw m d a => frWord 0x73 h (encOp d) (encOp a) 0 (encMass 0 m raw false)
  | .mtcutMass h raw m d a => frWord 0x73 h (encOp d) (encOp a) 0 (encMass 1 m raw false)
  | .walk h sp d a => frWord 0x74 h (encOp d) (encOp a) 0 (encBit sp ++ 0#14)
  | .wreg h idx d a b => frWord 0x75 h (encOp d) (encOp a) (encOp b) (subMod 0 (idx ++ 0#8))
  | .wstat h d a k => frWord 0x75 h (encOp d) (encOp a) (encImm k) (subMod 1 0)
  | .wcancel h a => frWord 0x75 h 0 (encOp a) 0 (subMod 2 0)
  | .mfence h => frWord 0x75 h 0 0 0 (subMod 3 0)
  | .harg h d k => frWord 0x76 h (encOp d) 0 (encImm k) (subMod 0 0)
  | .hret h => frWord 0x76 h 0 0 0 (subMod 1 0)
  | .hretAbort h => frWord 0x76 h 0 0 0 (subMod 1 0x800)
  | .awin h a b => frWord 0x77 h 0 (encOp a) (encOp b) 0
  | .kvx h wr d a b => frWord 0x78 h (encOp d) (encOp a) (encOp b) (encBit wr ++ 0#14)
  | .kvseal h a => frWord 0x79 h 0 (encOp a) 0 (subMod 0 0)
  | .kvfree h a b => frWord 0x79 h 0 (encOp a) (encOp b) (subMod 1 0)
  | .tspawn h sp a => frWord 0x7A h 0 (encOp a) 0 (subMod 0 (encBit sp ++ 0#11))
  | .tdec h host a b => frWord 0x7A h 0 (encOp a) (encOp b) (subMod 1 (if host then 0x500 else 0x400))
  | .launch h d a => frWord 0x7A h (encOp d) (encOp a) 0 (subMod 2 0)
  | .pemit h a b => frWord 0x7B h 0 (encOp a) (encOp b) (subMod 0 0)
  | .pcancel h => frWord 0x7B h 0 0 0 (subMod 1 0)
  | .prepeat h a b => frWord 0x7B h 0 (encOp a) (encOp b) (subMod 2 0)
  | .coll h a => frWord 0x7C h 0 (encOp a) 0 0
  | .dreg h k a b => frWord 0x7D h 0 (encOp a) (encOp b) (subMod 0 (0#6 ++ k))
  | .dunreg h k => frWord 0x7D h 0 0 0 (subMod 1 (0#6 ++ k))
  | .dgrd h k pick d =>
    let c : BitVec 2 := match pick with | .status => 0 | .laneA => 1 | .laneB => 2
    frWord 0x7D h (encOp d) 0 0 (subMod 2 (0#4 ++ c ++ k))
  | .pmcfg h k a => frWord 0x7E h 0 (encOp a) 0 (subMod 0 (0#10 ++ k))
  | .pmrd h k d => frWord 0x7E h (encOp d) 0 0 (subMod 1 (0#10 ++ k))
  | .illegal w => w
  | _ => 0

end Sys2Proof
end

