-- ==== Sys2Proof/Config.lean ====
section
/-! DEFINITION. What the spec leaves open: free values that no proof can look into, each named in a log entry, and the
values that an implementation or the model fixes. -/
namespace Sys2Proof.Config

/-- The seven special functions whose results 06 R116 only bounds. -/
inductive Special where
  | rcp | rsq | exp2 | log2 | sin | cos | tanh
deriving DecidableEq, Repr

/-- Result of a special function on an input that is none of R116's listed cases (DESIGN CHOICE, log 10). -/
opaque special : Special → Ty → Word → Word

/-- The walk engine's Exp2 of an FP32 pattern, and its Cos (true) or Sin of a phase in turns / 2^64 (12 R240; DESIGN CHOICE, log 11). -/
opaque engineExp2 : BitVec 32 → BitVec 32
opaque engineTrig : Bool → BitVec 64 → BitVec 32

/-- A free byte: contents that the spec calls undefined, numbered by the state's free-value counter (DESIGN CHOICE, log 4). -/
opaque freeByte : Nat → Nat → Byte

/-- A free FP32 pattern, numbered likewise and by its place (DESIGN CHOICE, log 4). -/
opaque freeWord : Nat → Nat → BitVec 32

/-- Which of its partition's memory-side ports serves an HBM line (15 R286; DESIGN CHOICE, log 12): taken modulo the port count. -/
opaque channelOf : Nat → Nat → Nat

/-- What attestation messages hold that no rule gives: the certificate chain, signatures, the ROM's digest (18 R340; DESIGN CHOICE, log 13). -/
opaque attest : Nat → List Byte → List Byte

/-- A translation in a cycle, of an address, uses a cached entry that memory no longer holds (15 R278; DESIGN CHOICE, log 57). -/
opaque cachedEntry : Nat → Nat → Bool

/-- The partition's task storage holds one more spawned task than this, its launch storage one more launch: 13 R249 and R254
give no capacities (DESIGN CHOICE, log 17). -/
opaque taskStorage : Nat
opaque launchStorage : Nat

end Sys2Proof.Config
end

