-- ==== Sys2Proof/Machine/Bits.lean ====
section
/-! DEFINITION. Bit and byte helpers: type widths, narrowing and extension (06 R98), byte order (00 R2), counts of bits,
integer square root. -/
namespace Sys2Proof.Machine

/-- Bits `lo` to `lo + n - 1` of a word, as a natural number. -/
def bits (w : Word) (lo n : Nat) : Nat := w.toNat / 2 ^ lo % 2 ^ n

/-- The word with bits `lo` to `lo + n - 1` replaced. -/
def setBits (w : Word) (lo n : Nat) (v : Nat) : Word :=
  let mask : Word := BitVec.ofNat 64 ((2 ^ n - 1) * 2 ^ lo)
  (w &&& ~~~mask) ||| (BitVec.ofNat 64 (v % 2 ^ n * 2 ^ lo) &&& mask)

/-- Width of a type in bits (03 R47). -/
def width : Ty → Nat
  | .s32 => 32 | .s64 => 64 | .s16 => 16 | .s8 => 8
  | .n32 => 32 | .n64 => 64 | .n16 => 16 | .n8 => 8
  | .f32 => 32 | .f16 => 16 | .bf16 => 16 | .t8 => 8 | .t6 => 6

/-- The signed integer types. -/
def signed : Ty → Bool
  | .s32 | .s64 | .s16 | .s8 => true
  | _ => false

/-- The low w bits of a word, extended to 64 by the type's signedness: what an instruction reads (06 R98). -/
def narrow (t : Ty) (x : Word) : Word :=
  if signed t then (x.setWidth (width t)).signExtend 64 else (x.setWidth (width t)).setWidth 64

/-- The integer that the low w bits of a word represent in a type. -/
def intOf (t : Ty) (x : Word) : Int :=
  if signed t then (x.setWidth (width t)).toInt else ((x.setWidth (width t)).toNat : Int)

/-- An exact integer reduced modulo 2^w and extended to 64 bits (06 R98, R110). -/
def wordOf (t : Ty) (r : Int) : Word := narrow t (BitVec.ofInt 64 r)

/-- Least integer of an integer type. -/
def minInt (t : Ty) : Int := if signed t then -((2 ^ (width t - 1) : Nat) : Int) else 0
/-- Greatest integer of an integer type. -/
def maxInt (t : Ty) : Int := if signed t then ((2 ^ (width t - 1) : Nat) : Int) - 1 else ((2 ^ width t : Nat) : Int) - 1

/-- Clamp(y, T) of 06 R109. -/
def clampInt (t : Ty) (y : Int) : Int := max (minInt t) (min (maxInt t) y)

/-- The number of 1 bits among the low `n` bits. -/
def popcount : Nat → Nat → Nat
  | 0, _ => 0
  | n + 1, x => x % 2 + popcount n (x / 2)

/-- The number of bits of an `n`-bit value above its highest 1 bit. -/
def leadingZeros (n x : Nat) : Nat := if x = 0 then n else n - 1 - Nat.log2 x

/-- The number of 0 bits below the lowest 1 bit of an `n`-bit value. -/
def trailingZeros : Nat → Nat → Nat
  | 0, _ => 0
  | n + 1, x => if x % 2 = 1 then 0 else 1 + trailingZeros n (x / 2)

/-- The `n` low bits in reverse order. -/
def reverseBits : Nat → Nat → Nat
  | 0, _ => 0
  | n + 1, x => (x % 2) * 2 ^ n + reverseBits n (x / 2)

/-- The `n` bytes of a number, lowest address first (00 R2). -/
def bytesLE : Nat → Nat → List Byte
  | 0, _ => []
  | n + 1, x => BitVec.ofNat 8 x :: bytesLE n (x / 256)

/-- The number that bytes spell, lowest address first (00 R2). -/
def numLE : List Byte → Nat
  | [] => 0
  | b :: r => b.toNat + 256 * numLE r

/-- Integer square root, one bit at a time from bit `n - 1`. -/
def isqrt : Nat → Nat → Nat → Nat
  | 0, _, r => r
  | n + 1, m, r => if (r + 2 ^ n) * (r + 2 ^ n) ≤ m then isqrt n m (r + 2 ^ n) else isqrt n m r

/-- Signed value of the low `n` bits of a number. -/
def signedNat (n x : Nat) : Int := if x % 2 ^ n < 2 ^ (n - 1) then (x % 2 ^ n : Nat) else ((x % 2 ^ n : Nat) : Int) - (2 ^ n : Nat)

/-- The lanes 0 to 63. -/
def lanes : List Nat := List.range 64

/-- The lanes of a mask in ascending order. -/
def lanesOf (m : LaneMask) : List Nat := lanes.filter (fun l => m.getLsbD l)

/-- The mask of the lanes for which `f` holds. -/
def maskOf (f : Nat → Bool) : LaneMask :=
  BitVec.ofNat 64 (lanes.foldl (fun acc l => if f l then acc + 2 ^ l else acc) 0)

/-- The number of lanes of a mask. -/
def laneCount (m : LaneMask) : Nat := popcount 64 m.toNat

/-- The lowest lane of a mask, 64 where it is empty. -/
def lowestLane (m : LaneMask) : Nat := trailingZeros 64 m.toNat

end Sys2Proof.Machine
end

