-- ==== Sys2Proof/Machine/Flags.lean ====
section
/-! DEFINITION. The floating-point exception flags (05 R82): one set per result, gathered per lane into the five FPX
masks, and the decision whether an enabled one traps (06 R117). -/
namespace Sys2Proof.Machine

/-- The five IEEE exceptions: invalid, division by zero, overflow, underflow, inexact (05 R82). -/
structure FpFlags where
  i : Bool := false
  z : Bool := false
  o : Bool := false
  u : Bool := false
  p : Bool := false
deriving DecidableEq, Repr

/-- No exception. -/
def FpFlags.none : FpFlags := ⟨false, false, false, false, false⟩

/-- The union of two sets of flags. -/
def FpFlags.or (a b : FpFlags) : FpFlags := ⟨a.i || b.i, a.z || b.z, a.o || b.o, a.u || b.u, a.p || b.p⟩

/-- The flags as five bits in the order I, Z, O, U, P from bit 0 (06 R117). -/
def FpFlags.code (f : FpFlags) : Nat :=
  (if f.i then 1 else 0) + (if f.z then 2 else 0) + (if f.o then 4 else 0) + (if f.u then 8 else 0) + (if f.p then 16 else 0)

/-- The five FPX masks (06 R102). -/
structure Fpx where
  i : LaneMask := 0
  z : LaneMask := 0
  o : LaneMask := 0
  u : LaneMask := 0
  p : LaneMask := 0
deriving DecidableEq, Repr

/-- One lane's flags added to the sticky masks (05 R82). -/
def Fpx.record (m : Fpx) (lane : Nat) (f : FpFlags) : Fpx :=
  let b : LaneMask := BitVec.ofNat 64 (2 ^ lane)
  { i := if f.i then m.i ||| b else m.i
    z := if f.z then m.z ||| b else m.z
    o := if f.o then m.o ||| b else m.o
    u := if f.u then m.u ||| b else m.u
    p := if f.p then m.p ||| b else m.p }

/-- All lanes' flags added to the sticky masks (DEDUCED, log 54). -/
def Fpx.recordAll (m : Fpx) : List (Nat × FpFlags) → Fpx
  | [] => m
  | (l, f) :: r => Fpx.recordAll (Fpx.record m l f) r

/-- The lanes that raised an exception enabled in TRAPEN bits [4:0] (06 R117). -/
def trapLanes (trapen : Nat) : List (Nat × FpFlags) → LaneMask
  | [] => 0
  | (l, f) :: r =>
    if Nat.land f.code (trapen % 32) ≠ 0 then trapLanes trapen r ||| BitVec.ofNat 64 (2 ^ l) else trapLanes trapen r

/-- The enabled exceptions raised, as bits I, Z, O, U, P (06 R117). -/
def trapRaised (trapen : Nat) : List (Nat × FpFlags) → Nat
  | [] => 0
  | (_, f) :: r => Nat.lor (Nat.land f.code (trapen % 32)) (trapRaised trapen r)

end Sys2Proof.Machine
end

