-- ==== Sys2Proof/Machine/Reals.lean ====
section
/-! DEFINITION. Fixed-point values of the transcendental functions whose results 06 R116 and 12 R240 bound: 640 fraction bits,
far finer than any bound (DESIGN CHOICE, log 10). -/
namespace Sys2Proof.Machine

/-- One, in fixed point. -/
def fxOne : Nat := 2 ^ 640

/-- A real value: a sign, and num * 2^e. -/
structure Approx where
  neg : Bool
  num : Nat
  e : Int
deriving DecidableEq, Repr

/-- A signed fixed-point number as a value. -/
def Approx.ofFx (x : Int) : Approx := ⟨decide (x < 0), x.natAbs, -640⟩

/-- The sum of t^k / k! from its k-th term on, each term from the one before. -/
def expSeries : Nat → Nat → Nat → Nat → Nat
  | 0, _, _, _ => 0
  | n + 1, k, term, t => term + expSeries n (k + 1) (term * t / fxOne / (k + 1)) t

/-- e^t for t from 0 to 1. -/
def fxExp (t : Nat) : Nat := expSeries 160 0 fxOne t

/-- The sum of z^(2j+1) / (2j+1). -/
def atanhSeries : Nat → Nat → Nat → Nat → Nat
  | 0, _, _, _ => 0
  | n + 1, j, p, z2 => p / (2 * j + 1) + atanhSeries n (j + 1) (p * z2 / fxOne) z2

/-- The natural logarithm of f from 1 to 2. -/
def fxLn (f : Nat) : Nat :=
  let z := (f - fxOne) * fxOne / (f + fxOne)
  2 * atanhSeries 210 0 z (z * z / fxOne)

def fxLn2 : Nat := fxLn (2 * fxOne)

/-- 2^x for a fixed-point x: a fixed-point number from 1 to 2, and an exponent. -/
def fxExp2 (x : Int) : Nat × Int := (fxExp ((x % (fxOne : Int)).toNat * fxLn2 / fxOne), x / (fxOne : Int))

/-- The binary logarithm of m * 2^e, m above 0. -/
def fxLog2 (m : Nat) (e : Int) : Int :=
  let k := Nat.log2 m
  ((k : Int) + e) * fxOne + (fxLn (m * fxOne / 2 ^ k) * fxOne / fxLn2 : Nat)

/-- The alternating sum that is the arctangent of 1/n, with 820 fraction bits. -/
def atanSeries : Nat → Nat → Nat → Nat → Int
  | 0, _, _, _ => 0
  | k + 1, j, p, n2 => (p / (2 * j + 1) : Nat) - atanSeries k (j + 1) (p / n2) n2

/-- Twice pi with 820 fraction bits. -/
def wideTwoPi : Nat := (2 * (16 * atanSeries 180 0 (2 ^ 820 / 5) 25 - 4 * atanSeries 60 0 (2 ^ 820 / 239) (239 * 239))).toNat

/-- The alternating series of the sine (first term r) and cosine (first term 1), `k` the power of the term. -/
def trigSeries : Nat → Nat → Nat → Nat → Int
  | 0, _, _, _ => 0
  | n + 1, k, term, r2 => (term : Int) - trigSeries n (k + 2) (term * r2 / fxOne / ((k + 1) * (k + 2))) r2

/-- Sine or cosine of an angle from 0 to twice pi. -/
def fxTrig (isCos : Bool) (r : Nat) : Int :=
  if isCos then trigSeries 120 0 fxOne (r * r / fxOne) else trigSeries 120 1 r (r * r / fxOne)

/-- Sine or cosine of m * 2^e radians, reduced exactly; e is not below -820. -/
def fxTrigOf (isCos : Bool) (m : Nat) (e : Int) : Int := fxTrig isCos (m * 2 ^ (e + 820).toNat % wideTwoPi / 2 ^ 180)

/-- Sine or cosine of 2 pi ph / 2^64. -/
def fxTurn (isCos : Bool) (ph : Nat) : Int := fxTrig isCos (ph * wideTwoPi / 2 ^ 244)

/-- The hyperbolic tangent of m * 2^e; from 64 on it is one short of 1 in the last place. -/
def fxTanh (m : Nat) (e : Int) : Int :=
  if (Nat.log2 m : Int) + e ≥ 6 then (fxOne : Int) - 1
  else
    let (x, k) := fxExp2 ((m * 2 ^ (e + 641).toNat * fxOne / fxLn2 : Nat) : Int)
    let y := x * 2 ^ k.toNat
    (((y - fxOne) * fxOne / (y + fxOne) : Nat) : Int)

end Sys2Proof.Machine
end

