-- ==== Sys2Proof/Machine/Fp.lean ====
section
/-! DEFINITION. IEEE binary arithmetic (05 R78-R82): bit patterns become exact values, operations are exact, and one
rounding at the end gives the result and its flags. -/
namespace Sys2Proof.Machine

/-- A binary format: exponent bits and fraction bits. -/
structure Fmt where
  ebits : Nat
  mbits : Nat
deriving DecidableEq, Repr

def fmtF32 : Fmt := ⟨8, 23⟩
def fmtF16 : Fmt := ⟨5, 10⟩
def fmtBF16 : Fmt := ⟨8, 7⟩

/-- The format of a floating-point type; the other types are never asked. -/
def fmtOf : Ty → Fmt
  | .f16 => fmtF16
  | .bf16 => fmtBF16
  | _ => fmtF32

/-- Width in bits. -/
def Fmt.width (f : Fmt) : Nat := 1 + f.ebits + f.mbits
/-- The all-ones exponent in place: the pattern of +infinity. -/
def Fmt.infBits (f : Fmt) : Nat := (2 ^ f.ebits - 1) * 2 ^ f.mbits
/-- The canonical NaN (05 R79). -/
def Fmt.nanBits (f : Fmt) : Nat := f.infBits + 2 ^ (f.mbits - 1)
/-- The weight of the sign bit. -/
def Fmt.signBit (f : Fmt) : Nat := 2 ^ (f.ebits + f.mbits)
/-- The exponent of the least subnormal's unit. -/
def Fmt.qmin (f : Fmt) : Int := 2 - (2 ^ (f.ebits - 1) : Nat) - (f.mbits : Nat)

/-- An exact value: a NaN, an infinity, or (-1)^neg * m * 2^e, where m = 0 is a signed zero. -/
inductive FVal where
  | nan (signalling : Bool)
  | inf (neg : Bool)
  | fin (neg : Bool) (m : Nat) (e : Int)
deriving DecidableEq, Repr

/-- The exact value of a bit pattern. -/
def unpack (f : Fmt) (x : Nat) : FVal :=
  let neg := x / f.signBit % 2 = 1
  let ex := x / 2 ^ f.mbits % 2 ^ f.ebits
  let fr := x % 2 ^ f.mbits
  if ex = 2 ^ f.ebits - 1 then
    if fr = 0 then .inf neg else .nan (decide (fr < 2 ^ (f.mbits - 1)))
  else if ex = 0 then .fin neg fr f.qmin
  else .fin neg (fr + 2 ^ f.mbits) (f.qmin + (ex - 1 : Nat))

/-- The pattern is a subnormal number. -/
def isSubnormal (f : Fmt) (x : Nat) : Bool :=
  decide (x / 2 ^ f.mbits % 2 ^ f.ebits = 0) && decide (x % 2 ^ f.mbits ≠ 0)

/-- The value an operation reads: under FTZ a subnormal is a zero of its sign (05 R78). -/
def readFp (f : Fmt) (ftz : Bool) (x : Nat) : FVal :=
  if ftz && isSubnormal f x then .fin (decide (x / f.signBit % 2 = 1)) 0 f.qmin else unpack f x

/-- m / 2^s rounded to an integer in a mode, with whether it was inexact. -/
def roundShift (r : Rnd) (neg : Bool) (m s : Nat) : Nat × Bool :=
  let q := m / 2 ^ s
  let rem := m % 2 ^ s
  let up := match r with
    | .rn => decide (2 * rem > 2 ^ s) || (decide (2 * rem = 2 ^ s) && decide (q % 2 = 1))
    | .rz => false
    | .rup => !neg && decide (rem ≠ 0)
    | .rdn => neg && decide (rem ≠ 0)
  (if up then q + 1 else q, decide (rem ≠ 0))

/-- The overflow result of a mode: an infinity or the largest finite magnitude (05 R82). -/
def overflowBits (f : Fmt) (r : Rnd) (neg : Bool) : Nat :=
  let toInf := match r with
    | .rn => true
    | .rz => false
    | .rup => !neg
    | .rdn => neg
  (if toInf then f.infBits else f.infBits - 1) + (if neg then f.signBit else 0)

/-- (-1)^neg * m * 2^e for m > 0 rounded to the format, with its flags: underflow is detected after rounding, and under
FTZ a result that is subnormal after rounding becomes a zero of its sign with FPXU and FPXP (05 R78, R82). -/
def roundTo (f : Fmt) (r : Rnd) (ftz : Bool) (neg : Bool) (m : Nat) (e : Int) : Nat × FpFlags :=
  let sign := if neg then f.signBit else 0
  if m = 0 then (sign, .none)
  else
    let q0 : Int := e + (Nat.log2 m : Nat) - (f.mbits : Nat)
    let q := max q0 f.qmin
    let (mant, inexact) := if q ≤ e then (m * 2 ^ (e - q).toNat, false) else roundShift r neg m (q - e).toNat
    let pat := (q - f.qmin).toNat * 2 ^ f.mbits + mant
    if pat ≥ f.infBits then (overflowBits f r neg, { o := true, p := true })
    else if pat < 2 ^ f.mbits ∧ ftz ∧ pat ≠ 0 then (sign, { u := true, p := true })
    else
      let tiny := decide (q0 < f.qmin) &&
        !(decide (q0 + 1 = f.qmin) && decide ((roundShift r neg m (q0 - e).toNat).1 = 2 ^ (f.mbits + 1)) && decide (e < q0))
      (pat + sign, { u := tiny && inexact, p := inexact })

/-- The canonical NaN with FPXI where an input signals or the operation is invalid. -/
def nanResult (f : Fmt) (invalid : Bool) : Nat × FpFlags := (f.nanBits, { i := invalid })

def FVal.isNan : FVal → Bool
  | .nan _ => true
  | _ => false
def FVal.isSnan : FVal → Bool
  | .nan s => s
  | _ => false
def FVal.isZero : FVal → Bool
  | .fin _ m _ => decide (m = 0)
  | _ => false
def FVal.isInf : FVal → Bool
  | .inf _ => true
  | _ => false
def FVal.isNeg : FVal → Bool
  | .fin n _ _ => n
  | .inf n => n
  | .nan _ => false
def FVal.neg : FVal → FVal
  | .fin n m e => .fin (!n) m e
  | .inf n => .inf (!n)
  | .nan s => .nan s

/-- The signed integer m with its sign. -/
def sgn (neg : Bool) (m : Nat) : Int := if neg then -(m : Int) else (m : Int)

/-- A value packed exactly where it is an infinity or zero, else rounded. -/
def packVal (f : Fmt) (r : Rnd) (ftz : Bool) : FVal → Nat × FpFlags
  | .nan s => nanResult f s
  | .inf n => (f.infBits + (if n then f.signBit else 0), .none)
  | .fin n m e => roundTo f r ftz n m e

/-- The exact sum of two finite values; an exact zero of unlike signs is +0, or -0 toward minus infinity. -/
def addFin (r : Rnd) (n1 : Bool) (m1 : Nat) (e1 : Int) (n2 : Bool) (m2 : Nat) (e2 : Int) : FVal :=
  if m1 = 0 ∧ m2 = 0 then .fin (if n1 = n2 then n1 else decide (r = .rdn)) 0 e1
  else
    let e := min e1 e2
    let s := sgn n1 (m1 * 2 ^ (e1 - e).toNat) + sgn n2 (m2 * 2 ^ (e2 - e).toNat)
    if s = 0 then .fin (decide (r = .rdn)) 0 e else .fin (decide (s < 0)) s.natAbs e

/-- x + y, rounded once. -/
def fpAdd (f : Fmt) (r : Rnd) (ftz : Bool) (x y : FVal) : Nat × FpFlags :=
  match x, y with
  | .nan s, y => nanResult f (s || y.isSnan)
  | x, .nan s => nanResult f (s || x.isSnan)
  | .inf a, .inf b => if a = b then packVal f r ftz (.inf a) else nanResult f true
  | .inf a, .fin .. => packVal f r ftz (.inf a)
  | .fin .., .inf b => packVal f r ftz (.inf b)
  | .fin n1 m1 e1, .fin n2 m2 e2 => packVal f r ftz (addFin r n1 m1 e1 n2 m2 e2)

/-- x - y, rounded once. -/
def fpSub (f : Fmt) (r : Rnd) (ftz : Bool) (x y : FVal) : Nat × FpFlags := fpAdd f r ftz x y.neg

/-- The exact product; `none` for zero times infinity. NaN operands are answered before. -/
def mulExact : FVal → FVal → Option FVal
  | .fin a m1 e1, .fin b m2 e2 => some (.fin (a != b) (m1 * m2) (e1 + e2))
  | .inf a, .inf b => some (.inf (a != b))
  | .inf a, .fin b m _ => if m = 0 then none else some (.inf (a != b))
  | .fin a m _, .inf b => if m = 0 then none else some (.inf (a != b))
  | .nan s, _ => some (.nan s)
  | _, .nan s => some (.nan s)

/-- x * y, rounded once. -/
def fpMul (f : Fmt) (r : Rnd) (ftz : Bool) (x y : FVal) : Nat × FpFlags :=
  if x.isNan || y.isNan then nanResult f (x.isSnan || y.isSnan)
  else match mulExact x y with
    | none => nanResult f true
    | some v => packVal f r ftz v

/-- x * y + z, rounded once; 0 times infinity is invalid whatever z holds (06 R114). -/
def fpFma (f : Fmt) (r : Rnd) (ftz : Bool) (x y z : FVal) : Nat × FpFlags :=
  if x.isNan || y.isNan then nanResult f (x.isSnan || y.isSnan || z.isSnan)
  else match mulExact x y with
    | none => nanResult f true
    | some p => fpAdd f r ftz p z

/-- x / y, rounded once from a quotient with a sticky bit. -/
def fpDiv (f : Fmt) (r : Rnd) (ftz : Bool) (x y : FVal) : Nat × FpFlags :=
  match x, y with
  | .nan s, y => nanResult f (s || y.isSnan)
  | x, .nan s => nanResult f (s || x.isSnan)
  | .inf _, .inf _ => nanResult f true
  | .inf a, .fin b _ _ => packVal f r ftz (.inf (a != b))
  | .fin a _ e, .inf b => packVal f r ftz (.fin (a != b) 0 e)
  | .fin a m1 e1, .fin b m2 e2 =>
    if m2 = 0 then
      if m1 = 0 then nanResult f true
      else (f.infBits + (if a != b then f.signBit else 0), { z := true })
    else if m1 = 0 then packVal f r ftz (.fin (a != b) 0 e1)
    else
      let k := 60 + Nat.log2 m2
      let q := m1 * 2 ^ k / m2
      let sticky := if m1 * 2 ^ k % m2 = 0 then 0 else 1
      roundTo f r ftz (a != b) (2 * q + sticky) (e1 - e2 - (k : Nat) - 1)

/-- The square root, rounded once from a root with a sticky bit. -/
def fpSqrt (f : Fmt) (r : Rnd) (ftz : Bool) : FVal → Nat × FpFlags
  | .nan s => nanResult f s
  | .inf true => nanResult f true
  | .inf false => packVal f r ftz (.inf false)
  | .fin n m e =>
    if m = 0 then packVal f r ftz (.fin n 0 e)
    else if n then nanResult f true
    else
      let k := if (e - 100) % 2 = 0 then 100 else 101
      let m' := m * 2 ^ k
      let s := isqrt 80 m' 0
      let sticky := if s * s = m' then 0 else 1
      roundTo f r ftz false (2 * s + sticky) ((e - (k : Nat)) / 2 - 1)

/-- The order of two finite or infinite values: negative, zero or positive as x is less, equal or greater. -/
def fpOrder : FVal → FVal → Int
  | .fin n1 m1 e1, .fin n2 m2 e2 =>
    let e := min e1 e2
    sgn n1 (m1 * 2 ^ (e1 - e).toNat) - sgn n2 (m2 * 2 ^ (e2 - e).toNat)
  | .inf a, .inf b => if a = b then 0 else if a then -1 else 1
  | .inf a, _ => if a then -1 else 1
  | _, .inf b => if b then 1 else -1
  | _, _ => 0

/-- minimumNumber and maximumNumber (05 R81): a lone NaN gives the other operand, -0 is less than +0. -/
def fpMinMax (f : Fmt) (ftz isMax : Bool) (x y : FVal) : Nat × FpFlags :=
  let fl : FpFlags := { i := x.isSnan || y.isSnan }
  let out (v : FVal) : Nat × FpFlags := ((packVal f .rn ftz v).1, fl)
  if x.isNan && y.isNan then (f.nanBits, fl)
  else if x.isNan then out y
  else if y.isNan then out x
  else
    let o := fpOrder x y
    let less := decide (o < 0) || (decide (o = 0) && x.isNeg && !y.isNeg)
    out (if less != isMax then x else y)

/-- FABS and FNEG (06 R114): the sign cleared or flipped, a NaN canonical. -/
def fpAbs (f : Fmt) (ftz : Bool) (x : FVal) : Nat × FpFlags :=
  match x with
  | .nan s => nanResult f s
  | .inf _ => packVal f .rn ftz (.inf false)
  | .fin _ m e => ((packVal f .rn ftz (.fin false m e)).1, .none)
def fpNeg (f : Fmt) (ftz : Bool) (x : FVal) : Nat × FpFlags :=
  match x with
  | .nan s => nanResult f s
  | x => ((packVal f .rn ftz x.neg).1, .none)

/-- FCMP (06 R115): NaN makes .ne and .un hold; only a signalling NaN sets FPXI. -/
def fpCompare (cc : FCond) (x y : FVal) : Bool × FpFlags :=
  let fl : FpFlags := { i := x.isSnan || y.isSnan }
  if x.isNan || y.isNan then (decide (cc = .ne) || decide (cc = .un), fl)
  else
    let o := fpOrder x y
    (match cc with
      | .eq => decide (o = 0)
      | .ne => decide (o ≠ 0)
      | .lt => decide (o < 0)
      | .le => decide (o ≤ 0)
      | .gt => decide (o > 0)
      | .ge => decide (o ≥ 0)
      | .un => false
      | .ord => true, fl)

/-- The class bit of FCLASS (06 R115), which ignores FTZ. -/
def fpClass (f : Fmt) (x : Nat) : Nat :=
  match unpack f x with
  | .inf true => 0
  | .inf false => 7
  | .nan true => 8
  | .nan false => 9
  | .fin neg m _ =>
    if m = 0 then (if neg then 3 else 4)
    else if isSubnormal f x then (if neg then 2 else 5)
    else (if neg then 1 else 6)

/-- FRND (06 R114): an integral value of the same type; FPXP is never set. -/
def fpRound (f : Fmt) (r : Rnd) (ftz : Bool) (x : FVal) : Nat × FpFlags :=
  match x with
  | .nan s => nanResult f s
  | .inf n => packVal f r ftz (.inf n)
  | .fin n m e =>
    if e ≥ 0 then ((packVal f r ftz (.fin n m e)).1, .none)
    else ((packVal f r ftz (.fin n (roundShift r n m (-e).toNat).1 0)).1, .none)

/-- The clamp of .sat to [+0, 1.0] (06 R114): a NaN and a -0 become +0. -/
def satBits (f : Fmt) (x : Nat) : Nat :=
  let one := (2 ^ (f.ebits - 1) - 1) * 2 ^ f.mbits
  if x ≥ f.signBit ∨ x > f.infBits then 0 else if x > one then one else x

/-- An integer converted to a format (06 R119; special operands 03 R51 with round to nearest). -/
def fpOfInt (f : Fmt) (r : Rnd) (x : Int) : Nat × FpFlags := roundTo f r false (decide (x < 0)) x.natAbs 0

/-- Float to integer (06 R119): saturates; a NaN gives 0; FPXI for a NaN or out of range after rounding. -/
def fpToInt (t : Ty) (r : Rnd) (x : FVal) : Int × FpFlags :=
  match x with
  | .nan _ => (0, { i := true })
  | .inf n => (if n then minInt t else maxInt t, { i := true })
  | .fin n m e =>
    let (q, inexact) := if e ≥ 0 then (m * 2 ^ e.toNat, false) else roundShift r n m (-e).toNat
    let y := sgn n q
    if y < minInt t then (minInt t, { i := true })
    else if y > maxInt t then (maxInt t, { i := true })
    else (y, { p := inexact })

/-- The distance test |y - x| ≤ ulp(x) for positive finite values given as m * 2^e, with ulp of the format at x. -/
def withinUlp (f : Fmt) (num den : Nat) (e : Int) (y : FVal) : Bool :=
  match y with
  | .fin _ my ey =>
    -- x = num / den * 2^e; the unit in the last place at x
    let lg : Int := (Nat.log2 (num * 2 ^ 200 / den) : Nat) - 200 + e
    let u : Int := max (lg - (f.mbits : Nat)) f.qmin
    let b := min (min e ey) u
    let ys : Int := (my * den * 2 ^ (ey - b).toNat : Nat)
    let xs : Int := (num * 2 ^ (e - b).toNat : Nat)
    decide ((ys - xs).natAbs ≤ den * 2 ^ (u - b).toNat)
  | _ => false

/-- The flags of an approximate result (06 R116): FPXP on every finite nonzero result, overflow and underflow by R82. -/
def approxFlags (f : Fmt) (y : Nat) : FpFlags :=
  let mag := y % f.signBit
  if mag = f.infBits then { o := true, p := true }
  else if mag = 0 ∨ mag < 2 ^ f.mbits then { u := true, p := true }
  else { p := true }

/-- An approximate result under FTZ: a subnormal becomes a zero of its sign (05 R78). -/
def flushResult (f : Fmt) (ftz : Bool) (y : Nat) : Nat :=
  if ftz && isSubnormal f y then y / f.signBit * f.signBit else y

/-- An exact case of R116: the exact value without FPXP or FPXU, flushed under FTZ with both. -/
def exactResult (f : Fmt) (ftz : Bool) (neg : Bool) (m : Nat) (e : Int) : Nat × FpFlags :=
  let (y, fl) := roundTo f .rn ftz neg m e
  (y, if fl.p && !fl.u then fl else if ftz then fl else .none)

/-- A nonzero m is a power of two. -/
def isPow2 (m : Nat) : Bool := decide (m ≠ 0) && decide (2 ^ Nat.log2 m = m)

/-- The free result of a special function, in the format's width. -/
def freeSpecial (fn : Config.Special) (t : Ty) (x : Nat) : Nat :=
  (Config.special fn t (BitVec.ofNat 64 x)).toNat % 2 ^ (fmtOf t).width

/-- An approximate result with its flags and flush. -/
def approx (t : Ty) (ftz : Bool) (y : Nat) : Nat × FpFlags :=
  (flushResult (fmtOf t) ftz y, if (unpack (fmtOf t) y).isNan then .none else approxFlags (fmtOf t) y)

/-- FRCP (06 R116): within 1 ulp of 1/x; the free candidate is taken where it keeps the bound. -/
def fpRcp (t : Ty) (ftz : Bool) (xb : Nat) : Nat × FpFlags :=
  let f := fmtOf t
  match readFp f ftz xb with
  | .nan s => nanResult f s
  | .inf n => ((if n then f.signBit else 0), .none)
  | .fin n m e =>
    if m = 0 then (f.infBits + (if n then f.signBit else 0), { z := true })
    else if isPow2 m && (roundTo f .rn false n 1 (-(Nat.log2 m : Nat) - e)).2 = FpFlags.none then
      exactResult f ftz n 1 (-(Nat.log2 m : Nat) - e)
    else
      let k := 60 + Nat.log2 m
      let best := (roundTo f .rn false n (2 * (2 ^ k / m) + 1) (-e - (k : Nat) - 1)).1
      let cand := freeSpecial .rcp t xb
      let good := withinUlp f 1 m (-e) (unpack f cand) && decide ((unpack f cand).isNeg = n)
      approx t ftz (if best % f.signBit = f.infBits then best else if good then cand else best)

/-- y is within one unit of the root v of 1/x, with x = m * 2^e no power of 4: the squares of y plus and minus the unit enclose
1/x. The unit is that of v, whose exponent is -(h + 1) where x lies from 4^h to 4^(h+1): R116 does not say whose it is (DESIGN
CHOICE, log 105). -/
def withinRsq (f : Fmt) (m : Nat) (e : Int) (y : FVal) : Bool :=
  match y with
  | .fin false my ey =>
    let u : Int := max (-((((Nat.log2 m : Nat) : Int) + e) / 2 + 1) - (f.mbits : Nat)) f.qmin
    let b := min ey u
    let ys := my * 2 ^ (ey - b).toNat
    let us := 2 ^ (u - b).toNat
    -- (ys - us)^2 * m * 2^(e + 2b) ≤ 1 ≤ (ys + us)^2 * m * 2^(e + 2b)
    let s : Int := e + 2 * b
    let lo := (ys - us) * (ys - us) * m
    let hi := (ys + us) * (ys + us) * m
    if s ≥ 0 then decide (lo * 2 ^ s.toNat ≤ 1) && decide (1 ≤ hi * 2 ^ s.toNat)
    else decide (lo ≤ 2 ^ (-s).toNat) && decide (2 ^ (-s).toNat ≤ hi)
  | _ => false

/-- FRSQ (06 R116). -/
def fpRsq (t : Ty) (ftz : Bool) (xb : Nat) : Nat × FpFlags :=
  let f := fmtOf t
  match readFp f ftz xb with
  | .nan s => nanResult f s
  | .inf n => if n then nanResult f true else (0, .none)
  | .fin n m e =>
    if m = 0 then (f.infBits + (if n then f.signBit else 0), { z := true })
    else if n then nanResult f true
    else
      let x2 : Int := (Nat.log2 m : Nat) + e
      if isPow2 m && decide (x2 % 2 = 0) then exactResult f ftz false 1 (-(x2 / 2))
      else
        -- the root of 2^k / m with 2^k's exponent even
        let k := if (e + 140) % 2 = 0 then 140 else 141
        let best := (roundTo f .rn false false (2 * isqrt 90 (2 ^ k / m) 0 + 1) ((-e - (k : Nat)) / 2 - 1)).1
        let cand := freeSpecial .rsq t xb
        approx t ftz (if withinRsq f m e (unpack f cand) then cand else best)

/-- |y - v| ≤ the larger of `k` ulp of the format at v and, where `floor` is set, 2^-22. -/
def withinBound (f : Fmt) (k : Nat) (floor : Bool) (v : Approx) (y : FVal) : Bool :=
  match y with
  | .fin n m e =>
    let lg : Int := (Nat.log2 v.num : Nat) + v.e
    let u : Int := if v.num = 0 then f.qmin else max (lg - (f.mbits : Nat)) f.qmin
    let b := min (min e v.e) (min u (-22))
    let d := (sgn n (m * 2 ^ (e - b).toNat) - sgn v.neg (v.num * 2 ^ (v.e - b).toNat)).natAbs
    decide (d ≤ k * 2 ^ (u - b).toNat) || (floor && decide (d ≤ 2 ^ (-22 - b).toNat))
  | _ => false

/-- A result near v, which no pattern is: the free candidate where it keeps the bound, else v rounded to nearest. -/
def nearResult (f : Fmt) (k : Nat) (floor : Bool) (v : Approx) (cand : Nat) : Nat :=
  if withinBound f k floor v (unpack f cand) then cand else (roundTo f .rn false v.neg (2 * v.num + 1) (v.e - 1)).1

/-- The ulp bound of a type where FP32's is `k` (06 R116). -/
def ulpBound (t : Ty) (k : Nat) : Nat := if t = .f32 then k else 1

/-- 2^x for x = m * 2^e with its sign; below -400 every format has underflowed. -/
def exp2Value (n : Bool) (m : Nat) (e : Int) : Approx :=
  if m * 2 ^ (e + 640).toNat ≥ 400 * fxOne then ⟨false, 1, if n then -400 else 400⟩
  else
    let (x, k) := fxExp2 (sgn n (m * 2 ^ (e + 640).toNat))
    ⟨false, x, k - 640⟩

/-- FEXP2 (06 R116): integral x with a representable power is exact; at 2^emax and beyond it overflows. -/
def fpExp2 (t : Ty) (ftz : Bool) (xb : Nat) : Nat × FpFlags :=
  let f := fmtOf t
  match readFp f ftz xb with
  | .nan s => nanResult f s
  | .inf n => ((if n then 0 else f.infBits), .none)
  | .fin n m e =>
    let emax : Int := (2 ^ (f.ebits - 1) : Nat)
    -- an exponent of 20 or more is far beyond every format's range, so it may be cut there
    let (q, frac) := if e ≥ 0 then (m * 2 ^ (min e 20).toNat, false) else (m / 2 ^ (-e).toNat, decide (m % 2 ^ (-e).toNat ≠ 0))
    let x := sgn n q
    if !n && decide (x ≥ emax) then (f.infBits, { o := true, p := true })
    else if !frac && decide (f.qmin ≤ x) then exactResult f ftz false 1 x
    else approx t ftz (nearResult f (ulpBound t 2) false (exp2Value n m (min e 20)) (freeSpecial .exp2 t xb))

/-- FLOG2 (06 R116). -/
def fpLog2 (t : Ty) (ftz : Bool) (xb : Nat) : Nat × FpFlags :=
  let f := fmtOf t
  match readFp f ftz xb with
  | .nan s => nanResult f s
  | .inf n => if n then nanResult f true else (f.infBits, .none)
  | .fin n m e =>
    if m = 0 then (f.infBits + f.signBit, { z := true })
    else if n then nanResult f true
    else
      let x2 : Int := (Nat.log2 m : Nat) + e
      if isPow2 m then exactResult f ftz (decide (x2 < 0)) x2.natAbs 0
      else
        -- x lies from 0.5 to 2 when its exponent is -1 or 0
        let floor := decide (t = .f32) && (decide (x2 = -1) || decide (x2 = 0))
        approx t ftz (nearResult f (ulpBound t 2) floor (.ofFx (fxLog2 m e)) (freeSpecial .log2 t xb))

/-- FSIN and FCOS (06 R116). -/
def fpSinCos (isCos : Bool) (t : Ty) (ftz : Bool) (xb : Nat) : Nat × FpFlags :=
  let f := fmtOf t
  match readFp f ftz xb with
  | .nan s => nanResult f s
  | .inf _ => nanResult f true
  | .fin n m e =>
    if m = 0 then (if isCos then exactResult f ftz false 1 0 else ((if n then f.signBit else 0), .none))
    else
      let v := Approx.ofFx (if n && !isCos then -fxTrigOf isCos m e else fxTrigOf isCos m e)
      approx t ftz (nearResult f (ulpBound t 2) (decide (t = .f32)) v (freeSpecial (if isCos then .cos else .sin) t xb))

/-- FTANH (06 R116). -/
def fpTanh (t : Ty) (ftz : Bool) (xb : Nat) : Nat × FpFlags :=
  let f := fmtOf t
  match readFp f ftz xb with
  | .nan s => nanResult f s
  | .inf n => exactResult f ftz n 1 0
  | .fin n m e =>
    if m = 0 then ((if n then f.signBit else 0), .none)
    else approx t ftz (nearResult f (ulpBound t 2) false (.ofFx (if n then -fxTanh m e else fxTanh m e)) (freeSpecial .tanh t xb))

/-- The walk engine's Exp2 (12 R240): FEXP2's bound, and +0 at -∞; subnormals honoured, no flag. -/
def engineExp2 (x : Nat) : Nat :=
  match unpack fmtF32 x with
  | .nan _ => fmtF32.nanBits
  | .inf n => if n then 0 else fmtF32.infBits
  | .fin n m e => nearResult fmtF32 2 false (exp2Value n m (min e 20)) (Config.engineExp2 (BitVec.ofNat 32 x)).toNat

/-- The walk engine's Cos or Sin of a turn's fraction, within 2 ulp of FP32 (12 R240). -/
def engineTrig (isCos : Bool) (ph : BitVec 64) : Nat :=
  nearResult fmtF32 2 false (.ofFx (fxTurn isCos ph.toNat)) (Config.engineTrig isCos ph).toNat

/-- The sum of two FP32 patterns rounded to nearest, subnormals honoured: the engines' addition (05 R80, R94, R95). -/
def addRne32 (x y : Nat) : Nat := (fpAdd fmtF32 .rn false (unpack fmtF32 x) (unpack fmtF32 y)).1

/-- A pattern of one format converted to another, to nearest (05 R79, R80). -/
def convRne (src dst : Fmt) (x : Nat) : Nat := (packVal dst .rn false (unpack src x)).1

end Sys2Proof.Machine
end

