-- ==== Sys2Proof/Machine/Taper.lean ====
section
/-! DEFINITION. The tapered formats T8 and T6, line headers and narrow lines (05 R83-R91). Values are exact dyadic
numbers: `FVal` with `nan` for NaR. -/
namespace Sys2Proof.Machine

/-- Length of the run of bits equal to `b` from bit `i - 1` downward. -/
def runLen (x : Nat) (b : Nat) : Nat → Nat
  | 0 => 0
  | i + 1 => if x / 2 ^ i % 2 = b then 1 + runLen x b i else 0

/-- The magnitude of a nonzero magnitude field of `n` bits, as m * 2^e (05 R83). -/
def taperMag (n : Nat) (fld : Nat) : Nat × Int :=
  let top := fld / 2 ^ (n - 1) % 2
  let r := runLen fld top n
  let k : Int := if top = 1 then (r : Int) - 1 else -(r : Int)
  let rest := n - r - 1          -- bits after the terminator
  let e := if rest = 0 then 0 else fld / 2 ^ (rest - 1) % 2
  let b := rest - 1
  let f := fld % 2 ^ b
  (2 ^ b + f, 2 * k + (e : Nat) - (b : Nat))

/-- The value of an `n`-bit code, n = 8 or 6 (05 R83); NaR is a quiet NaN. -/
def taperDecode (n : Nat) (code : Nat) : FVal :=
  let s := code / 2 ^ (n - 1) % 2
  let fld := code % 2 ^ (n - 1)
  if fld = 0 then (if s = 1 then .nan false else .fin false 0 0)
  else
    let (m, e) := taperMag (n - 1) fld
    .fin (decide (s = 1)) m e

/-- m1 * 2^e1 ≤ m2 * 2^e2. -/
def dyadLe (m1 : Nat) (e1 : Int) (m2 : Nat) (e2 : Int) : Bool :=
  let e := min e1 e2
  decide (m1 * 2 ^ (e1 - e).toNat ≤ m2 * 2 ^ (e2 - e).toNat)

/-- The magnitude of a field, zero for field 0. -/
def fieldMag (n : Nat) (fld : Nat) : Nat × Int := if fld = 0 then (0, 0) else taperMag n fld

/-- The greatest field whose magnitude is at most a, built from its top bit (magnitudes rise with the field, R83). -/
def bracketLow (n : Nat) (m : Nat) (e : Int) : Nat → Nat → Nat
  | 0, f => f
  | i + 1, f =>
    let g := f + 2 ^ i
    let (gm, ge) := fieldMag n g
    if dyadLe gm ge m e then bracketLow n m e i g else bracketLow n m e i f

/-- EncodeTaper (05 R84). -/
def encodeTaper (n : Nat) : FVal → Nat
  | .nan _ => 2 ^ (n - 1)
  | .inf s => (if s then 2 ^ (n - 1) else 0) + (2 ^ (n - 1) - 1)
  | .fin s m e =>
    let sb := if s then 2 ^ (n - 1) else 0
    let top := 2 ^ (n - 1) - 1
    let (tm, te) := fieldMag (n - 1) top
    if dyadLe tm te m e then sb + top
    else
      let flo := bracketLow (n - 1) m e (n - 1) 0
      let (lm, le) := fieldMag (n - 1) flo
      let (hm, he) := fieldMag (n - 1) (flo + 1)
      let c := min e (min le he)
      let a := m * 2 ^ (e - c).toNat
      let dlo := a - lm * 2 ^ (le - c).toNat
      let dhi := hm * 2 ^ (he - c).toNat - a
      let f := if dlo < dhi then flo else if dlo > dhi then flo + 1 else if flo % 2 = 0 then flo else flo + 1
      if f = 0 then 0 else sb + f

/-- A value times 2^k. -/
def FVal.scale (k : Int) : FVal → FVal
  | .fin s m e => .fin s m (e + k)
  | v => v

/-- FloorLog2 of a nonzero finite magnitude. -/
def floorLog2 (m : Nat) (e : Int) : Int := (Nat.log2 m : Nat) + e

/-- LineScale (05 R91): the floor of the logarithm of the greatest finite magnitude, clamped. -/
def lineScale (ys : List FVal) : Int :=
  let best : Option Int := ys.foldl (fun acc y =>
    match y with
    | .fin _ m e => if m = 0 then acc else
        match acc with
        | none => some (floorLog2 m e)
        | some b => some (max b (floorLog2 m e))
    | _ => acc) none
  match best with
  | none => 0
  | some b => max (-127) (min 127 b)

/-- QuantiseLine (05 R91). -/
def quantiseLine (n : Nat) (ys : List FVal) : Int × List Nat :=
  let sc := lineScale ys
  (sc, ys.map (fun y => encodeTaper n (y.scale (-sc))))

/-- The line formats of 05 R87. -/
inductive LineFmt where
  | raw | t8 | t6 | s16t6 | s12t8 | s28t8 | s4t8
deriving DecidableEq, Repr

/-- FMT codes (05 R87); the others are reserved. -/
def LineFmt.ofCode : Nat → Option LineFmt
  | 0 => some .raw
  | 1 => some .t8
  | 2 => some .t6
  | 3 => some .s16t6
  | 4 => some .s12t8
  | 5 => some .s28t8
  | 6 => some .s4t8
  | _ => none

def LineFmt.code : LineFmt → Nat
  | .raw => 0 | .t8 => 1 | .t6 => 2 | .s16t6 => 3 | .s12t8 => 4 | .s28t8 => 5 | .s4t8 => 6

/-- Logical elements of a line; a RAW line's count is the reader's. -/
def LineFmt.elems : LineFmt → Nat
  | .raw => 0 | .t8 => 64 | .t6 => 80 | .s16t6 => 128 | .s12t8 => 128 | .s28t8 => 64 | .s4t8 => 256

/-- Mask groups of a sparse layout and the most set elements of each (05 R87). -/
def LineFmt.sparse : LineFmt → Option (Nat × Nat)
  | .s16t6 => some (4, 16)
  | .s12t8 => some (4, 12)
  | .s28t8 => some (2, 28)
  | .s4t8 => some (8, 4)
  | _ => none

/-- Bits of one stored element. -/
def LineFmt.nbits : LineFmt → Nat
  | .t6 | .s16t6 => 6
  | _ => 8

/-- The place of element i of a T6 line (05 R89). -/
def t6Place (i : Nat) : Nat := (i % 4) * 20 + i / 4

/-- The 64 bytes of a line as one number, bit 0 of byte 0 first. -/
def lineNum (bytes : List Byte) : Nat := numLE bytes

/-- The 32-bit mask of group g (05 R88). -/
def groupMask (line g : Nat) : Nat := line / 2 ^ (32 * g) % 2 ^ 32

/-- Bit position of group g's first value (05 R87). -/
def groupBase (f : LineFmt) (g : Nat) : Nat :=
  match f with
  | .s16t6 => 8 * (16 + 12 * g)
  | .s12t8 => 8 * (16 + 12 * g)
  | .s28t8 => 8 * (8 + 28 * g)
  | .s4t8 => 8 * (32 + 4 * g)
  | _ => 0

/-- Every mask keeps its layout's limit (05 R90 step 2). -/
def masksOk (f : LineFmt) (line : Nat) : Bool :=
  match f.sparse with
  | none => true
  | some (n, lim) => (List.range n).all (fun g => decide (popcount 32 (groupMask line g) ≤ lim))

/-- The code of logical element i, `none` where a sparse mask leaves it out (it reads as +0). -/
def elemCode (f : LineFmt) (line i : Nat) : Option Nat :=
  match f with
  | .t6 => some (line / 2 ^ (6 * t6Place i) % 2 ^ 6)
  | .raw | .t8 => some (line / 2 ^ (8 * i) % 2 ^ 8)
  | f =>
    let g := i / 32
    let j := i % 32
    let mask := groupMask line g
    if mask / 2 ^ j % 2 = 1 then
      let k := popcount 32 (mask % 2 ^ j)
      some (line / 2 ^ (groupBase f g + f.nbits * k) % 2 ^ f.nbits)
    else none

/-- The scale of a header, `none` for the poison code 0x80 (05 R86). -/
def headerScale (hdr : Nat) : Option Int :=
  let s := hdr / 256 % 256
  if s = 128 then none else some (signedNat 8 s)

/-- The elements of a narrow line (05 R90): `none` is FORMAT. RAW lines are read by `decodeRaw`. -/
def decodeNarrow (hdr : Nat) (bytes : List Byte) : Option (List FVal) :=
  match LineFmt.ofCode (hdr % 256) with
  | none => none
  | some f =>
    let line := lineNum bytes
    if masksOk f line then
      match headerScale hdr with
      | none => some ((List.range f.elems).map (fun _ => .nan false))
      | some sc => some ((List.range f.elems).map (fun i =>
          match elemCode f line i with
          | none => .fin false 0 0
          | some c => (taperDecode f.nbits c).scale sc))
    else none

/-- The 64 bytes of a dense narrow line from its codes (05 R87, R89). -/
def encodeDense (f : LineFmt) (codes : List Nat) : List Byte :=
  let n := codes.zipIdx.foldl (fun acc (c, i) =>
    match f with
    | .t6 => acc + c % 64 * 2 ^ (6 * t6Place i)
    | _ => acc + c % 256 * 2 ^ (8 * i)) 0
  bytesLE 64 n

/-- A finite value rounded to FP32 to nearest, a NaN canonical (engine conversions, 05 R80). -/
def toF32 (v : FVal) : Nat := (packVal fmtF32 .rn false v).1

/-- One line of the residual carry (05 R96, 06 R121) to an n-bit format: from contributions x and residuals rho (FP32
patterns), the scale, the codes and the new residuals. -/
def residualLine (n : Nat) (xs rhos : List Nat) : Int × List Nat × List Nat :=
  let ys := (xs.zip rhos).map (fun (x, r) => addRne32 x r)
  let (sc, codes) := quantiseLine n (ys.map (unpack fmtF32))
  let news := (ys.zip codes).map (fun (y, c) =>
    match unpack fmtF32 y with
    | .fin _ _ _ => (fpSub fmtF32 .rn false (unpack fmtF32 y) ((taperDecode n c).scale sc)).1
    | _ => 0)
  (sc, codes, news)

end Sys2Proof.Machine
end

