-- ==== Sys2Proof/Machine/Sparse.lean ====
section
/-! DEFINITION. Finite maps from Nat as plain data: a list of key and value pairs in one canonical form, keys strictly
rising and no entry equal to the default. Every large table of the machine (memory, register files, cores, warps,
launches) is one of these; reading an unlisted key gives the default. -/
namespace Sys2Proof.Machine

/-- A finite map: key and value pairs. -/
abbrev Sparse (α : Type) := List (Nat × α)

/-- The value at key `k`, the default where the key is not listed. -/
def get {α : Type} (d : α) : Sparse α → Nat → α
  | [], _ => d
  | (j, v) :: r, k => if j = k then v else get d r k

/-- The map without key `k`. -/
def erase {α : Type} : Sparse α → Nat → Sparse α
  | [], _ => []
  | (j, v) :: r, k => if j = k then erase r k else (j, v) :: erase r k

/-- The map with `(k, v)` before the first greater key. -/
def insertKey {α : Type} : Sparse α → Nat → α → Sparse α
  | [], k, v => [(k, v)]
  | (j, w) :: r, k, v => if k < j then (k, v) :: (j, w) :: r else (j, w) :: insertKey r k v

/-- The map with `v` at key `k`: writing the default removes the entry. -/
def put {α : Type} [DecidableEq α] (d : α) (m : Sparse α) (k : Nat) (v : α) : Sparse α :=
  if v = d then erase m k else insertKey (erase m k) k v

/-- The canonical form: keys strictly rising and no entry equal to the default. -/
def Sparse.wf {α : Type} [DecidableEq α] (d : α) : Sparse α → Bool
  | [] => true
  | [(_, v)] => decide (v ≠ d)
  | (j, v) :: (k, w) :: r => decide (v ≠ d) && decide (j < k) && Sparse.wf d ((k, w) :: r)

end Sys2Proof.Machine
end

