-- ==== Sys2Proof/Machine/WarpState.lean ====
section
/-! DEFINITION. The state of one warp as plain data (02 R23, R33-R38; 06 R97-R107; 07 R141-R142; 10 R198, R207; 18 R327). -/
namespace Sys2Proof.Machine

/-- The 64 lanes of a vector register. -/
abbrev LaneVec := Vector Word 64

/-- The value of a vector register at warp start (06 R97). -/
def zeroVec : LaneVec := Vector.replicate 64 0

/-- A frontier entry: priority, PC, lane mask (02 R33). -/
structure Entry where
  prio : BitVec 8
  pc : Word
  lanes : LaneMask
deriving DecidableEq, Repr

/-- A register that a word touches or leaves pending (03 R58). -/
inductive Reg where
  | v (n : Nat) | s (n : Nat) | p (n : Nat) | x (n : Nat)
deriving DecidableEq, Repr

/-- A register write that a long-latency word performs when it completes. -/
inductive RegWrite where
  | v (n : Nat) (mask : LaneMask) (vals : LaneVec)
  | s (n : Nat) (val : Word)
  | p (n : Nat) (mask vals : LaneMask)
deriving DecidableEq, Repr

/-- What a completing word does beside its register writes. -/
inductive Late where
  | none
  /-- the accumulator window, from the cycle after AWIN completes (12 R245) -/
  | window (base limit : Nat)
  /-- a precise trap that the word raises when it completes (06 R117) -/
  | trap (cause : Nat) (lanes : LaneMask) (info : Word)
deriving DecidableEq, Repr

/-- Who finishes an in-flight word: its own latency, the mass unit, or the sweep engine. -/
inductive FlightKind where
  | timed | mass | sweep
deriving DecidableEq, Repr

/-- A long-latency word in flight (03 R58, 02 R38). -/
structure Flight where
  id : Nat
  kind : FlightKind
  pc : Word
  /-- the instruction word -/
  word : Word
  regs : List Reg
  writes : List RegWrite
  late : Late
  /-- the warp issues no further word until this one completes (06 R117 with TRAPEN, 08 R153) -/
  holds : Bool
  /-- a WREG or AWIN that a later WALK of the workgroup waits for (19 R341) -/
  walkGate : Bool
deriving DecidableEq, Repr

/-- An open lookahead window (03 R57). -/
structure Window where
  left : Nat
  pc : Word
  regs : List Reg
deriving DecidableEq, Repr

/-- A vector `.fe` load or a page-fault wait names what it waits for; the five park conditions (02 R26). -/
inductive Park where
  /-- a dependence counter, by its place in memory and its virtual address -/
  | counter (key va : Nat)
  /-- granules of the workgroup's scratchpad, `take` for LD.fe.take; the word completes at the wake (09 R173) -/
  | granules (gs : List Nat) (take : Bool)
  /-- a barrier on a group -/
  | barrier (g : Nat)
  /-- a page-fault record of this warp's core, by the page's first byte -/
  | replay (page : Nat)
  /-- a walk by its id -/
  | walk (wid : Nat)
deriving DecidableEq, Repr

/-- What a SWAPPED or FROZEN warp otherwise is (02 R24). -/
inductive Base where
  | ready | parked (p : Park) | dormant
deriving DecidableEq, Repr

/-- The warp states (02 R23). -/
inductive WState where
  | ready | issuing | parked (p : Park) | swapped (b : Base) | dormant | frozen (b : Base) | retired
deriving DecidableEq, Repr

/-- The warp is SWAPPED (02 R23). -/
def WState.isSwapped : WState → Bool
  | .swapped _ => true
  | _ => false

/-- Where a warp's v registers are and whether a context move is in progress (06 R104-R106). -/
inductive Residency where
  | resident
  | movingOut (toSwap : Bool)
  | swapRegion
  | saveArea
  /-- SWAPPED since admission, with no stored context -/
  | fresh
  /-- its stored context, if any, stands in the swap region -/
  | movingIn (fromSwap : Bool)
deriving DecidableEq, Repr

/-- The frontier saved by trap delivery, and which entry is E (07 R142). -/
structure SavedTrap where
  frontier : List Entry
  spilled : List Entry
  e : Entry
deriving DecidableEq, Repr

/-- What a compression descriptor says of a COMP page: its own HBM address, HOME, OVF, MAP and E (15 R279). -/
structure CompRef where
  desc : Nat := 0
  home : Nat := 0
  ovf : Nat := 0
  map : Nat := 0
  e : Nat := 0
deriving DecidableEq, Repr

/-- A translated page: the place of its first byte, its size, tier 0 HBM, 1 POOL, 2 HOST, kind, and its flags. -/
structure Page where
  place : Nat := 0
  size : Nat := 0
  tier : Nat := 0
  kind : Nat := 0
  heat : Bool := false
  /-- the compression descriptor of a COMP page, as the translation read it (15 R278) -/
  comp : Option CompRef := none
  ro : Bool := false
  /-- the physical address of the page in its tier -/
  addr : Nat := 0
  /-- the virtual address of its first byte -/
  va : Nat := 0
  /-- the leaf entry that maps it, 0 where none does -/
  leaf : Nat := 0
deriving DecidableEq, Repr

/-- An atomic-buffer entry (10 R198). -/
structure BufEntry where
  key : Nat
  /-- the page that the address was translated to at issue -/
  page : Page := {}
  va : Nat
  op : RedmOp
  ty : Ty
  scope : Scope
  partial_ : Nat
  /-- an INVAL has dropped its translation, so the flush translates again (10 R199) -/
  stale : Bool := false
deriving DecidableEq, Repr

/-- The engine command that a protection violation of the warp's own command holds (14 R273). -/
inductive HeldCommand where
  | none | copy | sweep | kvseal
deriving DecidableEq, Repr

/-- The trap CSRs and INTRAP (07 R141, 06 R101). -/
structure TrapRegs where
  en : BitVec 5 := 0
  vec : Word := 0
  pc : Word := 0
  lanes : LaneMask := 0
  cause : Nat := 0
  info : Word := 0
  intrap : Bool := false
  saved : Option SavedTrap := none
deriving DecidableEq, Repr

/-- One event counter: configuration and count (18 R327). -/
structure EventCtr where
  en : Bool := false
  event : Nat := 0
  count : Word := 0
deriving DecidableEq, Repr

/-- The queues whose room a word can wait for (02 R38). -/
inductive Room where
  | copy | walk | spawn | launch | kvseal | coll
deriving DecidableEq, Repr

/-- What a blocked word waits for "as for a pending register" (02 R38). -/
inductive Block where
  /-- pending registers that the word touches -/
  | regs (rs : List Reg)
  /-- a word in flight that lets no other issue (06 R117, 08 R153) -/
  | hold
  /-- nests used by an unfinished sweep (10 R208) -/
  | nests (ns : List Nat)
  /-- room in a queue -/
  | room (r : Room)
  /-- AWIN and WREG of the workgroup that have not completed (19 R341) -/
  | walkGate
  /-- its turn among the recorded launches of a replay (18 R337) -/
  | recorded
deriving DecidableEq, Repr

/-- Bookkeeping of the schedulers and of swapping (02 R35-R37; 06 R105). Times are in cycles. -/
structure Sched where
  /-- admission order on the core -/
  order : Nat := 0
  /-- waiting cycles READY and not blocked (02 R37) -/
  waited : Nat := 0
  /-- the cycle of its promotion -/
  promoted : Option Nat := none
  readySince : Nat := 0
  /-- the cycle in which it issued last -/
  issuedAt : Option Nat := none
  /-- how often it has issued a word or left READY -/
  stints : Nat := 0
  /-- first cycle after the GAP (02 R36) -/
  gapUntil : Nat := 0
  /-- warps that must issue or leave READY first after a YIELD (07 R136): slot, admission order and stints of each then -/
  yieldFor : List (Nat × Nat × Nat) := []
  parkedSince : Nat := 0
  /-- its scheduler's turn was its own when it parked, and was a promoted turn (02 R37) -/
  onTurn : Bool := false
  promotedTurn : Bool := false
  dormantSince : Nat := 0
  residentSince : Nat := 0
  /-- it is wakeable, and the cycle since when -/
  wakeable : Bool := false
  wakeableSince : Nat := 0
  /-- eligible as a victim: parked 256 cycles (06 R105) -/
  victim : Bool := false
  /-- what its next word was found to wait for (02 R38) -/
  block : Option Block := none
  /-- stopped at a boundary by a request of the ladder (14 R263, R264) -/
  held : Bool := false
deriving DecidableEq, Repr

/-- A handler warp's place: handler index, team, position (02 R31). -/
structure TeamPlace where
  h : Nat
  team : Nat
  pos : Nat
deriving DecidableEq, Repr

/-- One warp. -/
structure Warp where
  state : WState := .retired
  /-- the workgroup's key -/
  wg : Nat := 0
  /-- work-warp number 0-15; 16 + position for a handler warp (03 R51) -/
  num : Nat := 0
  team : Option TeamPlace := none
  /-- declared register count or WREG budget (03 R52) -/
  nregs : Nat := 1
  frontier : List Entry := []
  spilled : List Entry := []
  v : Sparse LaneVec := []
  s : Sparse Word := []
  p : Sparse LaneMask := []
  x : Sparse (BitVec 16) := []
  /-- nest registers, key n * 8 + word (10 R207) -/
  nest : Sparse Word := []
  trap : TrapRegs := {}
  fpx : Fpx := {}
  rm : Rnd := .rn
  ftz : Bool := false
  xlim : Sparse Nat := []
  grps : List Nat := []
  shapeg : Word := 0
  /-- UPARG: the place held in the upcall queue, `none` for VALID 0 (12 R234) -/
  uparg : Option Nat := none
  massx : LaneMask := 0
  flights : List Flight := []
  windows : List Window := []
  nextFlight : Nat := 0
  abuf : List BufEntry := []
  events : Sparse EventCtr := []
  sched : Sched := {}
  res : Residency := .resident
  /-- the word that a FROZEN warp stopped at, and the command held with it -/
  heldCommand : HeldCommand := .none
  /-- the full-empty load that a warp PARKED on granules completes at its wake (09 R173, 02 R28) -/
  feLoad : Option Instr := none
  /-- the spawned task (by its number in the workgroup) whose warp this is -/
  task : Option Nat := none
deriving DecidableEq, Repr

/-- A vacant slot. -/
def noWarp : Warp := {}

end Sys2Proof.Machine
end

