-- ==== Sys2Proof/Machine/WalkState.lean ====
section
/-! DEFINITION. The state of walks, upcalls and engine commands of a core as plain data (12; 10 R203-R210; 16 R300-R301;
08 R163). -/
namespace Sys2Proof.Machine

/-- Slot states (12 R227): `filled` has its upcall complete and waits for its granules. -/
inductive SlotState where
  | free | raised | filling | filled | ready | inUse
deriving DecidableEq, Repr

/-- Buffer states (12 R232). -/
inductive BufState where
  | idle | accumulating | complete
deriving DecidableEq, Repr

/-- A tile buffer and the tile it works on. -/
structure TileBuf where
  state : BufState := .idle
  tile : Nat := 0
deriving DecidableEq, Repr

/-- Walk states (12 R231). -/
inductive WkState where
  | queued | running | stalled | suspended | finishing | aborting | done
deriving DecidableEq, Repr

/-- Upcall kinds (12 R234). -/
inductive UKind where
  | proda | prodb | consume | prodq | prodk | prodv
deriving DecidableEq, Repr

/-- An upcall in the core's upcall queue, with its argument block's fields (12 R234). -/
structure Upcall where
  place : Nat
  wid : Nat
  wg : Nat
  h : Nat
  kind : UKind
  accw : Nat
  tilem : Nat
  tilen : Nat
  tilek : Nat
  slot : Nat
  seq : Nat
  vm : Nat
  vn : Nat
  vk : Nat
  /-- slot index in its ring, or the buffer of a consume -/
  idx : Nat
  /-- the team that took it -/
  team : Option Nat
deriving DecidableEq, Repr

/-- Stall counters read by WSTAT (12 R244). -/
structure Stalls where
  a : Nat := 0
  b : Nat := 0
  v : Nat := 0
  c : Nat := 0
  drain : Nat := 0
deriving DecidableEq, Repr

/-- A walk (12 R224-R241). -/
structure Walk where
  wid : Nat
  wg : Nat
  depth : Nat
  /-- the walk whose handler submitted it -/
  parent : Option Nat
  /-- the submitting warp's slot, 64 once it has retired, and kind -/
  slot : Nat
  fromHandler : Bool
  record : List Byte
  tm : Nat
  tn : Nat
  tk : Nat
  state : WkState := .queued
  status : Nat := 0
  /-- A steps and B steps whose upcalls have been raised -/
  raisedA : Nat := 0
  raisedB : Nat := 0
  begun : Nat := 0
  finished : Nat := 0
  multiplying : Bool := false
  /-- the cycle at which the multiplication under way ends (12 R230) -/
  endsAt : Nat := 0
  /-- the cycle in which its latest produce upcall was raised (19 R342) -/
  raisedAt : Option Nat := none
  /-- substeps of the block under way that have ended, and the scores they have summed, row by row (12 R241) -/
  substep : Nat := 0
  scores : Sparse (BitVec 32) := []
  seq : Nat := 0
  slotsA : List SlotState := []
  slotsB : List SlotState := []
  buf0 : TileBuf := {}
  buf1 : TileBuf := {}
  /-- tiles COMPLETE -/
  tilesDone : Nat := 0
  /-- drains added to each complete tile of a split owner, and the tile the sender's drain is for -/
  drainsAdded : Sparse Nat := []
  drainSince : Option Nat := none
  drainsAccepted : Nat := 0
  stalls : Stalls := {}
  /-- running maximum and sum of each query row (12 R240), FP32 patterns -/
  mrow : Sparse (BitVec 32) := []
  lrow : Sparse (BitVec 32) := []
  /-- walks that must be DONE first, by an MFENCE (12 R245) -/
  after : List Nat := []
  /-- promoted walks that it is suspended for, or is to be at its next K-step boundary (12 R238) -/
  promoted : List Nat := []
  /-- a halt is pending, or it is suspended for one -/
  haltPending : Bool := false
  /-- number of later walks of the workgroup that have reached DONE since this one (12 R244) -/
  laterDone : Nat := 0
  /-- its place in the order of acceptance of engine commands (17 R322) -/
  serial : Nat := 0
deriving DecidableEq, Repr

/-- Where an engine command stands: `closing` has ended, and waits for the decrement of its number (17 R305). -/
inductive CmdState where
  | queued | paused (page : Nat) | held | finished | closing (id : Nat)
deriving DecidableEq, Repr

/-- The warp and word that issued an engine command, with the coordinates of its workgroup. -/
structure Issued where
  slot : Nat
  wg : Nat
  xyz : Nat × Nat × Nat := (0, 0, 0)
  /-- its place in the order of acceptance (17 R322) -/
  serial : Nat := 0
  func : Nat
  part : Nat
  lid : Nat
  warpNum : Nat
  pc : Word
  word : Word
deriving DecidableEq, Repr

/-- A copy command: its descriptor and position (10 R203-R206). -/
structure CopyCmd where
  by_ : Issued
  desc : List Byte
  state : CmdState := .queued
  /-- units moved, over all rows in order -/
  pos : Nat := 0
  /-- bytes that the row's decoded lines have made -/
  off : Nat := 0
  /-- source lines whose headers have been written -/
  lines : Nat := 0
  /-- granules written and not yet marked full (09 R172) -/
  touched : List Nat := []
  status : Nat := 0
deriving DecidableEq, Repr

/-- A sweep in a scheduler's sweep engine (10 R209-R210), with its nests' words: they cannot change before it ends (R208). -/
structure SweepCmd where
  by_ : Issued
  op : SweepOp
  ty : Ty
  ns : Nat
  d : Nat
  ctr : Option Word
  flight : Nat
  src : List Word
  dst : List Word
  state : CmdState := .queued
  moved : Nat := 0
  touched : List Nat := []
deriving DecidableEq, Repr

/-- A command of the KV engine (16 R300, R301). -/
structure KvCmd where
  by_ : Issued
  bytes : List Byte
  /-- block size of the descriptor that the workgroup had loaded -/
  blkb : Nat
  state : CmdState := .queued
  line : Nat := 0
  /-- the entry and the group record, read when the command started (16 R300) -/
  read : Option (List Byte × List Byte) := none
  /-- a rebuild has met an uncorrectable line -/
  lost : Bool := false
deriving DecidableEq, Repr

/-- A mass-register instruction that has arrived at the unit, with its operands read at issue (08 R153, R163). -/
structure MassOp where
  slot : Nat
  instr : Instr
  act : LaneMask
  a : LaneVec
  b : LaneVec
  flight : Nat
  /-- the cycle in which it issued -/
  at_ : Nat
deriving DecidableEq, Repr

/-- One mass register (08 R148): leaves are 32-bit, default 0. -/
structure MassReg where
  conf : Bool := false
  f : Nat := 0
  n : Nat := 16384
  leaves : Sparse (BitVec 32) := []
  /-- the limit, `none` where none is set (08 R150) -/
  limit : Option Nat := none
  /-- members of the link whose head this is; 1 when not linked -/
  link : Nat := 1
  /-- a member other than the head of a link -/
  member : Bool := false
  /-- its sums are being rebuilt after a restore (08 R164) -/
  rebuilding : Bool := false
deriving DecidableEq, Repr

end Sys2Proof.Machine
end

