-- ==== Sys2Proof/Machine/State.lean ====
section
/-! DEFINITION. The state of the whole device as plain data, its reset value, and the reasons a step stops. Every table
is a canonical sparse map (Machine/Sparse.lean). Fields marked MODEL are the model's own bookkeeping. -/
namespace Sys2Proof.Machine

/-! ### Faults and refusals -/

/-- Faults: none. An access outside a partition's memory takes the protection violation that 15 R286 gives it, and every
other fault of the spec is taken by the machine itself. -/
inductive Fault
deriving DecidableEq, Repr

/-- Refusals. -/
inductive Refusal where
  /-- An instruction that has no meaning yet. Raised by Dispatch only. Safe. -/
  | notModelled (mnemonic : String)
  /-- A word is executed in a state in which no warp and no prologue issues. `step` never does so. Safe. -/
  | noIssuer
deriving DecidableEq, Repr

/-! ### Workgroups -/

/-- A handler team (02 R31). -/
structure Team where
  h : Nat
  team : Nat
  /-- slots of its warps on the core, by position -/
  slots : List Nat
  /-- the upcall it runs, by its place -/
  upcall : Option Nat := none
  dormantSince : Nat := 0
deriving DecidableEq, Repr

/-- A spawned task of a workgroup, started or not (13 R249). -/
structure SpawnTask where
  id : Nat
  record : List Byte
  started : Bool := false
deriving DecidableEq, Repr

/-- Regions of the allocation in banks (09 R166). -/
structure PartWord where
  alloc : Nat := 0
  swap : Nat := 0
  acc : Nat := 0
  regs : Nat := 0
deriving DecidableEq, Repr

/-- ERRSTAT (09 R184). -/
structure ErrStat where
  loc : Nat := 0
  count : Nat := 0
  first : Nat := 0
  kinds : BitVec 5 := 0
deriving DecidableEq, Repr

/-- An out-of-range access: its cycle, its rank in the cycle (its scheduler, or 4 for an engine), and what OOBFLAG and OOBADDR
record of it (09 R171). -/
structure OobAccess where
  cycle : Nat
  rank : Nat
  kind : Nat
  warp : Nat
  addr : Nat
deriving DecidableEq, Repr

/-- OOBFLAG and OOBADDR (09 R171). -/
structure Oob where
  kind : Nat := 0
  warp : Nat := 0
  flag : Bool := false
  addr : Nat := 0
  /-- MODEL: the first out-of-range access of the latest cycle that had one, and the cycle in which FLAG was set -/
  seen : Option OobAccess := none
  since : Nat := 0
deriving DecidableEq, Repr

/-- Workgroup CSRs as they were before the first write of a cycle: what reads of that cycle still receive (07 R139). -/
structure HeldCsrs where
  cycle : Nat
  oob : Option Oob := none
  err : Option ErrStat := none
  kv : Option (Word × Option (List Byte)) := none
deriving DecidableEq, Repr

/-- Timers of the ladder, in microseconds (14 R262). -/
structure Timers where
  kill : Nat := 2000
  bardefer : Nat := 5
  grace : Nat := 20
deriving DecidableEq, Repr

/-- A REDM entry of a retired warp, with the warp's scheduler, slot and groups (10 R199). -/
structure RetiredEntry where
  sched : Nat
  slot : Nat
  grps : List Nat
  entry : BufEntry
deriving DecidableEq, Repr

/-- One workgroup (02 R18; 09 R166-R175). -/
structure Workgroup where
  live : Bool := false
  lid : Nat := 0
  lin : Nat := 0
  x : Nat := 0
  y : Nat := 0
  z : Nat := 0
  core : Nat := 0
  part : PartWord := {}
  /-- ALLOC and REGS of the launch, before a reduced restore (06 R108) -/
  full : PartWord := {}
  sp : Sparse Byte := []
  fe : Sparse Bool := []
  acc : Sparse (BitVec 32) := []
  awbase : Nat := 0
  awlimit : Nat := 0
  oob : Oob := {}
  err : ErrStat := {}
  /-- storage errors not yet found: 64-byte scratchpad lines and accumulator rows (09 R185); input -/
  badLines : Sparse Bool := []
  badRows : Sparse Bool := []
  /-- likewise an error in the register region and in the swap region, by its byte offset -/
  badReg : Option Nat := none
  badSwap : Option Nat := none
  /-- single errors not yet corrected: scratchpad lines, accumulator rows, register region, swap region (09 R184); input -/
  softLines : Sparse Bool := []
  softRows : Sparse Bool := []
  softReg : Bool := false
  softSwap : Bool := false
  /-- errors corrected and uncorrectable ones found, since its storage was last taken or saved (18 R335) -/
  corr : Nat := 0
  uncorr : Nat := 0
  kvtab : Word := 0
  kvDesc : Option (List Byte) := none
  csrHeld : Option HeldCsrs := none
  mass : Sparse MassReg := []
  massOwned : Nat := 0
  /-- arrived slots of each group, and the groups with a FLUSHA among them (02 R30, 10 R199) -/
  arrived : Sparse (BitVec 64) := []
  flushing : Sparse Bool := []
  teams : List Team := []
  /-- handlers that a WREG of the workgroup has named (12 R243) -/
  wregs : List Nat := []
  tasks : List SpawnTask := []
  nextTask : Nat := 0
  /-- REDM entries of retired warps that no flush has taken yet (10 R199) -/
  retiredBuf : List RetiredEntry := []
  /-- a flush paused on a page: of a group's barrier, or (`none`) of the retirement (10 R199) -/
  flushWait : Option (Option Nat × Nat) := none
  /-- walks accepted before the latest MFENCE (12 R245) -/
  mfence : List Nat := []
  /-- its last work warp has retired while walks are in flight (02 R32) -/
  draining : Bool := false
  /-- soft request: wall time; forced halt; save in progress; restore in progress (14 R263-R268) -/
  request : Option Nat := none
  /-- timers in effect for the request (14 R262) -/
  timers : Timers := {}
  forced : Bool := false
  saving : Bool := false
  restoring : Bool := false
  /-- a forced halt has come during its restore, and takes effect when that ends (14 R263) -/
  haltDue : Bool := false
  /-- the request is that of a rotation: once saved it joins the launch's waiting workgroups (14 R271) -/
  rotating : Bool := false
  /-- PLACE has been reported for it (14 R268) -/
  placeReported : Bool := false
  /-- where its image is saved: the place in the context save area that firmware has reserved at its admission (14 R267) -/
  area : Option Nat := none
  /-- cycle of its admission or restore -/
  runSince : Nat := 0
deriving DecidableEq, Repr

def noWg : Workgroup := {}

/-! ### Launches and tasks -/

/-- A row of the group table (15 R283): kind 0 unused, 1 LOCAL, 2 SPAN, 3 TEAM, 4 TEAMX. -/
structure GroupRow where
  kind : Nat := 0
  handler : Nat := 0
  tcount : Nat := 0
  mask : BitVec 16 := 0
  scount : Nat := 0
  first : Nat := 0
  stride : Nat := 0
deriving DecidableEq, Repr

/-- An entry of the handler table (15 R285). -/
structure HandlerRow where
  set : Bool := false
  pc : Word := 0
  teams : Nat := 0
  size : Nat := 0
  budget : Nat := 0
deriving DecidableEq, Repr

/-- The states of a launch (13 R252). -/
inductive LState where
  | waiting | prologue | dispatching | running | complete
deriving DecidableEq, Repr

/-- A `.dev` REDM partial of a core at the memory-side unit (10 R199). -/
structure DevPartial where
  core : Nat
  entry : BufEntry
deriving DecidableEq, Repr

/-- A launch (13 R251-R257). -/
structure Launch where
  live : Bool := false
  func : Nat := 0
  part : Nat := 0
  /-- the address that the record was read from (13 R255) -/
  src : Word := 0
  record : List Byte := []
  state : LState := .waiting
  status : Nat := 0
  /-- the page on which the launch waits for a REPLAY: of its counter, its group image, or a `.dev` partial (13 R252) -/
  heldPage : Option Nat := none
  /-- the place of its dependence counter while that is not zero; `ready` once it has been zero -/
  ctrKey : Option Nat := none
  ready : Bool := false
  /-- order in which it became dispatchable (13 R257) -/
  order : Nat := 0
  groups : Sparse GroupRow := []
  handlers : Sparse HandlerRow := []
  nx : Nat := 0
  ny : Nat := 0
  nz : Nat := 0
  arg : Word := 0
  next : Nat := 0
  retired : Nat := 0
  /-- keys of its workgroups saved by rotation, oldest first: they wait after those not yet created (14 R271) -/
  rotated : List Nat := []
  /-- the warp of a prologue that ended with PREPEAT, with its s and p registers (13 R256) -/
  pwarp : Option Warp := none
  storage : Bool := false
  devParts : List DevPartial := []
  /-- bound collective: its descriptor, slices done, first error by slice (17 R315) -/
  coll : Option (List Byte) := none
  slicesDone : Nat := 0
  sliceErr : Sparse Nat := []
  /-- sequence number that its slices share -/
  collSeq : Option Nat := none
  /-- what RES held, address and bytes, where completed slices have written it (17 R318) -/
  oldRes : List (Nat × List Byte) := []
  /-- a slice of it has passed the checks of its start (17 R318) -/
  collRun : Bool := false
deriving DecidableEq, Repr

def noLaunch : Launch := {}
/-- The launch has not reached COMPLETE (13 R252). -/
def Launch.open_ (l : Launch) : Bool := l.live && l.state != .complete

/-- A ready-queue entry that is not an upcall (02 R19, R20). -/
inductive Task where
  | workgroup (lid lin : Nat)
  | spawned (wg id : Nat)
deriving DecidableEq, Repr

structure ReadyTask where
  task : Task
  prio : Nat
  order : Nat
deriving DecidableEq, Repr

/-- A spawned task that waits for its counter (13 R249). -/
structure WaitingTask where
  wg : Nat
  id : Nat
  key : Nat
  prio : Nat
  /-- the counter's virtual address -/
  va : Nat := 0
deriving DecidableEq, Repr

/-- What is not complete until its decrement is performed (17 R305): a walk of a workgroup, a launch, the bound collective of a
launch, a command or collective in its queue, or something on whose completion only the decrement itself depends. -/
inductive Origin where
  /-- a walk of a workgroup, with its place in the order of acceptance; none for one that was refused -/
  | walk (wg : Nat) (serial : Option Nat)
  | launch
  /-- a bound collective, with the place of its last slice -/
  | bound (serial : Nat)
  | cmd (id : Nat)
  | other
deriving DecidableEq, Repr

/-- A counter decrement made for a completion and not yet performed (17 R305). -/
structure Dec where
  part : Nat
  func : Nat
  core : Nat
  agent : Nat
  va : Word
  status : Nat
  /-- held on a fault record of this page -/
  page : Option Nat := none
  lid : Nat := 0
  origin : Origin := .other
  /-- coordinates of the workgroup that the completion belongs to, 0 where it belongs to none -/
  xyz : Nat × Nat × Nat := (0, 0, 0)
deriving DecidableEq, Repr

/-- Where the prologue of a partition stands (13 R255). -/
structure Prologue where
  lid : Nat
  warp : Warp
  words : Nat
deriving DecidableEq, Repr

/-! ### Collectives -/

inductive CollState where
  /-- finishing: the result is complete, its steps of 17 R316 are due; closing: it waits for its decrement (17 R305) -/
  | queued | running | finishing | voting | closing (id : Nat)
deriving DecidableEq, Repr

/-- A collective at this member (17 R309-R318). -/
structure Collective where
  by_ : Issued
  core : Nat
  desc : List Byte
  /-- workgroup of a bound slice, and the number of slices -/
  slice : Option Nat := none
  nwg : Nat := 1
  state : CollState := .queued
  seq : Nat := 0
  /-- the sequence number that the launch's slices share, once one of them has taken it -/
  shared : Option Nat := none
  /-- the group's entry as read at the start -/
  entry : List Byte := []
  /-- this member's contribution, element by element or line by line -/
  mine : CollData := .f32 []
  /-- final values of chunks (RING) or lines (PUSH) -/
  results : Sparse (Option CollData) := []
  /-- chunks that have passed to be reduced, and to be gathered -/
  hops : List (RingPhase × Nat) := []
  /-- new residuals (17 R316) -/
  residuals : List Byte := []
  votes : List (Nat × List VoteTriple) := []
  status : Nat := 0
  /-- wall time of the latest progress (17 R318) -/
  progress : Nat := 0
  page : Option Nat := none
deriving DecidableEq, Repr

/-! ### Faults and queues of a partition -/

/-- A fault record (15 R280). -/
structure FaultRec where
  cause : Nat
  flags : Nat := 0
  agent : Nat := 0
  part : Nat := 0
  func : Nat := 0
  core : Nat := 0xFFFF
  va : Nat := 0
  word : Word := 0
  pc : Word := 0
  launch : Nat := 0
  wgx : Nat := 0
  wgy : Nat := 0
  wgz : Nat := 0
  warp : Nat := 0xFF
  info : Word := 0
deriving DecidableEq, Repr

/-- An open record: which core's waiters it has, and its serial number once written (15 R280, R282). -/
structure OpenRec where
  rec_ : FaultRec
  seq : Option Nat
deriving DecidableEq, Repr

/-- A saved workgroup with everything that its image holds (14 R267). -/
structure SavedWg where
  key : Nat
  wg : Workgroup
  /-- warps with the slots they were saved from -/
  warps : List (Nat × Warp)
  walks : List Walk
  upcalls : List Upcall
  copies : List CopyCmd
  sweeps : List (Nat × SweepCmd)
  consumeDue : List (Nat × Nat) := []
  ready : List ReadyTask
  /-- MODEL: the partition's count of dispatchable launches when it was saved: where it is rotated, those before it are older (14 R271) -/
  stamp : Nat := 0
deriving DecidableEq, Repr

/-- A context's own state: a function's device-side state within its partition (14 R261). -/
structure Context where
  /-- held saved after DIVERGE (17 R324) -/
  diverged : Bool := false
  deficit : Int := 0
  /-- wall time of the soft request in force, and whether the halt is forced (14 R263) -/
  request : Option Nat := none
  /-- a soft request has come during a restore, and waits until that ends (14 R263) -/
  asked : Bool := false
  saved : List SavedWg := []
  placeRetries : Nat := 0
  /-- its turn is charged, and the cycle from which on (14 R269) -/
  charging : Bool := false
  turnSince : Nat := 0
deriving DecidableEq, Repr

/-- One hard partition (15 R282, R286, R288; 14 R262; 17 R308). -/
structure Partition where
  en : Bool := false
  err : Bool := false
  heatk : Nat := 12
  cxl : BitVec 4 := 0
  cores : Sparse Word := []
  chans : Sparse Word := []
  heatBase : Word := 0
  timers : Timers := {}
  wgq : Nat := 2500000
  /-- WGQ in effect for the turn (14 R262) -/
  wgqNow : Nat := 2500000
  qbase : Nat := 1250000
  fqbase : Word := 0
  fqen : Bool := false
  fqlog : Nat := 0
  fqovf : Bool := false
  fqtail : BitVec 32 := 0
  fqhead : BitVec 32 := 0
  fqHeld : List FaultRec := []
  opened : List OpenRec := []
  fqIrq : Bool := false
  cgtbase : Word := 0
  colls : List Collective := []
  /-- next sequence number and epoch of each group (17 R308) -/
  cseq : Sparse (Nat × Nat) := []
  /-- regions of pooled memory that the driver has registered: base, size and CXL port (09 R177); the spec names no register or
  step for it, so they are an input, which DEVICE_RESET forgets with the partition (DESIGN CHOICE, log 104) -/
  pools : List (Nat × Nat × Nat) := []
  /-- launches in the launch queue, by id: those whose workgroups are not all dispatched (12 R223) -/
  queue : List Nat := []
  nextLaunch : Nat := 1
  nextOrder : Nat := 0
  waitingTasks : List WaitingTask := []
  prologue : Option Prologue := none
  runq : List Nat := []
  turn : Option Nat := none
  /-- the context that a recovery halted, resumed first (18 R338) -/
  resume : Option Nat := none
  sramCorr : Nat := 0
  hbmCorr : Nat := 0
  uncorr : Nat := 0
deriving DecidableEq, Repr

def noPart : Partition := {}

/-! ### Functions -/

inductive DgState where
  | free | building | ready | failed
deriving DecidableEq, Repr

/-- A digest slot (17 R319-R326); `pages` maps the region's physical pieces: place, size, virtual address. -/
structure DigestSlot where
  state : DgState := .free
  base : Nat := 0
  len : Nat := 0
  lastErr : Nat := 0
  laneA : Word := 0
  laneB : Word := 0
  pages : List (Nat × Nat × Nat) := []
  pause : Option Nat := none
deriving DecidableEq, Repr

/-- One function (13 R258; 14 R262; 15 R275, R286, R287; 18 R336). -/
structure Func where
  cqbase : Word := 0
  cqen : Bool := false
  cqlog : Nat := 0
  cqhead : BitVec 32 := 0
  cqtail : BitVec 32 := 0
  ignoredTails : Nat := 0
  tlt : Word := 0
  dropped : Nat := 0
  lastSeq : Word := 0
  vfen : Bool := false
  part : Nat := 0
  weight : Nat := 1
  vftroot : Word := 0
  jrn : Word := 0
  jrnPos : Nat := 0
  /-- for each KIND, the position of the next entry that a replay looks at (18 R337) -/
  jrnRead : Sparse Nat := []
  /-- MODEL: entries recorded from LAUNCH words: position, record address, performed again by the replay (18 R337) -/
  jrnWords : List (Nat × Word × Bool) := []
  digests : Sparse DigestSlot := []
  ctx : Context := {}
deriving DecidableEq, Repr

def noFunc : Func := {}

/-! ### Cores -/

/-- One scheduler: the ISSUING warp's slot and the sweep queue (02 R35; 10 R210). -/
structure Scheduler where
  issuing : Option Nat := none
  sweeps : List SweepCmd := []
  /-- the ISSUING warp's turn is a promoted turn (02 R37) -/
  promotedTurn : Bool := false
  /-- the cycle in which it issued a word last (02 R35) -/
  lastIssue : Option Nat := none
deriving DecidableEq, Repr

/-- One core (01 R8). -/
structure Core where
  banks : Nat := 128
  /-- slot = scheduler * 16 + slot on the scheduler -/
  warps : Sparse Warp := []
  scheds : Sparse Scheduler := []
  ready : List ReadyTask := []
  nextReady : Nat := 0
  upcalls : List Upcall := []
  /-- consume upcalls that wait for room, walk and tile, in the order in which the tiles became COMPLETE (12 R229) -/
  consumeDue : List (Nat × Nat) := []
  walks : List Walk := []
  nextWalk : Nat := 1
  copies : List CopyCmd := []
  kvs : List KvCmd := []
  massQ : List MassOp := []
  nextAdmit : Nat := 0
deriving DecidableEq, Repr

def noCore : Core := {}

/-! ### The device -/

/-- The memory-side port's sampler (09 R182, R183). -/
structure HeatPort where
  /-- accesses still to count down; `none` before the first, when D is 2^k -/
  d : Option Nat := none
  armed : Bool := false
  q : Nat := 0
  /-- HEAT accesses while armed, none of them from q -/
  passed : Nat := 0
  recorded : Nat := 0
  /-- the recorded samples have reached a multiple of 2^20 and the halving is due (09 R183) -/
  halve : Bool := false
  /-- units whose entries its samples have been recorded in -/
  units : List Nat := []
deriving DecidableEq, Repr

/-- A heat sample on its way to the owner of the page's entry (09 R183). -/
structure HeatSample where
  unit : Nat
  owner : Nat
deriving DecidableEq, Repr

/-- A response of the SPDM responder (18 R340; DESIGN CHOICE, log 13). -/
inductive SpdmReply where
  /-- the version's digits: 1.3 -/
  | version (major minor : Nat)
  | capabilities (securedSessions : Bool)
  /-- ECDSA P-384, SHA-384: the selected bits of BaseAsymAlgo and BaseHashAlgo -/
  | algorithms (asym hash : Nat)
  /-- digests of the chains of the slots that hold one -/
  | digests (slots : List (Nat × List Byte))
  | certificate (slot : Nat) (chain : List Byte)
  | challengeAuth (slot : Nat) (chainDigest signature : List Byte)
  /-- the number of blocks, and the blocks asked for -/
  | measurements (count : Nat) (blocks : List (Nat × List Byte))
  | error
deriving DecidableEq, Repr

/-- What the device sends out: links, interrupts, responses. MODEL. -/
inductive Sent where
  | hop (part group seq : Nat) (slice : Option Nat) (chunk : Nat) (phase : RingPhase) (data : CollData) (info : CollInfo)
  | redst (header : BitVec 128) (data : CollData)
  | failFlit (part group seq : Nat) (slice : Option Nat)
  | lostFlit (part group seq : Nat) (slice : Option Nat)
  | header (part group seq : Nat) (slice : Option Nat) (info : CollInfo)
  | vote (part group seq rank : Nat) (value : List VoteTriple)
  | drain (dev core tag tile : Nat) (data : List (BitVec 32))
  | spdm (r : SpdmReply)
  | hostData (bytes : List Byte)
  | hostError
deriving DecidableEq, Repr

/-- Who issues the word that executes. -/
inductive Issuer where
  | warp (core slot : Nat)
  | prologue (part : Nat)
deriving DecidableEq, Repr

/-- What moves next: a scheduler issues, a prologue issues, or an event comes about. -/
inductive Move where
  | issue (core sched : Nat)
  | prologue (part : Nat)
  | event (i : Instr)
deriving DecidableEq, Repr

/-- One turn of the agenda: cycles that pass before it, then the move. -/
structure Turn where
  dt : Nat
  what : Move
deriving DecidableEq, Repr

/-- That a line belongs to a member or to the parity block of a parity group, by the place of the group's record; `written` once it is
written after the seal (16 R302). -/
structure KvMark where
  group : Nat
  written : Bool := false
deriving DecidableEq, Repr

/-- The device. -/
structure State where
  /-- cycles since device reset: CYCLE of every core (06 R101) -/
  now : Nat
  /-- wall time in units of 12.8 ns / 720720 (DEDUCED, log 6) -/
  wall : Nat
  /-- clock step k, 8 to 16 (01 R11) -/
  step : Nat
  watts : Nat
  power : Nat
  temp : Nat
  /-- windows that meet rule 3 (18 R332), and rule 1 in force -/
  coolWindows : Nat
  /-- wall time of the end of the last 1 ms window -/
  windowEnd : Nat
  hot : Bool
  narrow : Bool
  recov : Nat
  recovery : Bool
  /-- what the package flash holds, and what the device booted from; the first is an input (18 R339; DESIGN CHOICE, log 50) -/
  flash : FlashImage
  booted : FlashImage
  /-- the version counter that refuses a rollback (18 R339) -/
  flashVersion : Nat
  cores : Sparse Core
  parts : Sparse Partition
  funcs : Sparse Func
  launches : Sparse Launch
  wgs : Sparse Workgroup
  /-- device memory by physical place (DESIGN CHOICE, log 2) -/
  mem : List Host.Cell
  hdrs : Sparse (BitVec 16)
  poison : Sparse Bool
  /-- lines with an uncorrectable error not yet found; input (09 R184) -/
  badMem : Sparse Bool
  /-- lines with a single error not yet corrected; input (09 R184) -/
  softMem : Sparse Bool
  /-- lines of parity groups, with a mark for each group that a line belongs to (16 R302) -/
  kvLines : Sparse (List KvMark)
  heat : Sparse HeatPort
  samples : List HeatSample
  /-- cached translations: partition, function, page (15 R278) -/
  tlb : List (Nat × Nat × Page)
  /-- host pages, by the place of their first byte, whose ATS request the host refuses: a place names the function, and the
  PASID where the request carries one; input (15 R275-R277) -/
  atsRefused : List Nat
  /-- CXL ports whose link is down; input (09 R178) -/
  cxlDown : BitVec 4
  /-- devices in each partition's fabric; input (12 R233) -/
  fabric : List (Nat × Nat)
  decs : List Dec
  /-- MODEL: the next place in the order of accepted engine commands, and the number of the next that waits for its decrement -/
  nextCmd : Nat
  out : List Sent
  /-- MODEL: what moves next -/
  agenda : List Turn
  cur : Issuer
  /-- MODEL: counter of free values -/
  freeCtr : Nat
deriving DecidableEq, Repr

/-- The machine after DEVICE_RESET (18 R339; DESIGN CHOICE, log 3): only the physical function, nothing listed anywhere (DESIGN CHOICE, log 89). -/
def State.reset : State where
  now := 0
  wall := 0
  step := 16
  watts := 2800
  power := 0
  temp := 0
  coolWindows := 0
  windowEnd := 0
  hot := false
  narrow := false
  recov := 0
  recovery := false
  flash := {}
  booted := {}
  flashVersion := 0
  cores := []
  parts := []
  funcs := []
  launches := []
  wgs := []
  mem := []
  hdrs := []
  poison := []
  badMem := []
  softMem := []
  kvLines := []
  heat := []
  samples := []
  tlb := []
  atsRefused := []
  cxlDown := 0
  fabric := []
  decs := []
  nextCmd := 0
  out := []
  agenda := []
  cur := .warp 0 0
  freeCtr := 0

/-- Memory holds the canonical form: addresses strictly rising, no entry equal to what an unlisted byte reads as. -/
abbrev Memory.wf (m : List Host.Cell) : Prop := Sparse.wf (0 : Byte) m = true

end Sys2Proof.Machine
end

