-- ==== Sys2Proof/Machine/Access.lean ====
section
/-! DEFINITION. Reading and writing the parts of the state: cores, warps, workgroups, launches, partitions, functions, and
the registers of one warp. -/
namespace Sys2Proof.Machine

/-! ### Tables -/

def State.core (s : State) (c : Nat) : Core := get noCore s.cores c
def State.setCore (s : State) (c : Nat) (x : Core) : State := { s with cores := put noCore s.cores c x }
def State.modCore (s : State) (c : Nat) (f : Core → Core) : State := s.setCore c (f (s.core c))

def State.warp (s : State) (c slot : Nat) : Warp := get noWarp (s.core c).warps slot
def State.setWarp (s : State) (c slot : Nat) (w : Warp) : State :=
  s.modCore c (fun k => { k with warps := put noWarp k.warps slot w })
def State.modWarp (s : State) (c slot : Nat) (f : Warp → Warp) : State := s.setWarp c slot (f (s.warp c slot))

def State.wg (s : State) (k : Nat) : Workgroup := get noWg s.wgs k
def State.setWg (s : State) (k : Nat) (x : Workgroup) : State := { s with wgs := put noWg s.wgs k x }
def State.modWg (s : State) (k : Nat) (f : Workgroup → Workgroup) : State := s.setWg k (f (s.wg k))

def State.launch (s : State) (k : Nat) : Launch := get noLaunch s.launches k
def State.setLaunch (s : State) (k : Nat) (x : Launch) : State := { s with launches := put noLaunch s.launches k x }
def State.modLaunch (s : State) (k : Nat) (f : Launch → Launch) : State := s.setLaunch k (f (s.launch k))

def State.part (s : State) (p : Nat) : Partition := get noPart s.parts p
def State.setPart (s : State) (p : Nat) (x : Partition) : State := { s with parts := put noPart s.parts p x }
def State.modPart (s : State) (p : Nat) (f : Partition → Partition) : State := s.setPart p (f (s.part p))

def State.func (s : State) (f : Nat) : Func := get noFunc s.funcs f
def State.setFunc (s : State) (f : Nat) (x : Func) : State := { s with funcs := put noFunc s.funcs f x }
def State.modFunc (s : State) (f : Nat) (g : Func → Func) : State := s.setFunc f (g (s.func f))

def noSched : Scheduler := {}
def Core.sched (c : Core) (i : Nat) : Scheduler := get noSched c.scheds i
def Core.setSched (c : Core) (i : Nat) (x : Scheduler) : Core := { c with scheds := put noSched c.scheds i x }
def Core.modSched (c : Core) (i : Nat) (f : Scheduler → Scheduler) : Core := c.setSched i (f (c.sched i))

/-- A workgroup's storage is gone: the errors found in it are the partition's (18 R335). -/
def State.dropWg (s : State) (k : Nat) : State :=
  let g := s.wg k
  let s := s.modPart (s.launch g.lid).part (fun x => { x with sramCorr := x.sramCorr + g.corr, uncorr := x.uncorr + g.uncorr })
  s.setWg k noWg

/-- The CSRs that a workgroup's readers of this cycle receive: written ones are seen from the next cycle (07 R139). -/
def Workgroup.heldNow (g : Workgroup) (now : Nat) : HeldCsrs :=
  match g.csrHeld with
  | some h => if h.cycle = now then h else { cycle := now }
  | none => { cycle := now }

/-- The workgroup as a word that issues in this cycle sees it. -/
def Workgroup.seen (g : Workgroup) (now : Nat) : Workgroup :=
  let h := g.heldNow now
  { g with oob := h.oob.getD g.oob, err := h.err.getD g.err, kvtab := (h.kv.map Prod.fst).getD g.kvtab
           kvDesc := (h.kv.map Prod.snd).getD g.kvDesc }

/-- The coordinates of a workgroup. -/
def Workgroup.xyz (g : Workgroup) : Nat × Nat × Nat := (g.x, g.y, g.z)
/-- The key of a workgroup: launch id and linear index. -/
def wgKey (lid lin : Nat) : Nat := lid * 2 ^ 32 + lin
/-- The id of a launch: partition and serial number (13 R254). -/
def launchId (part serial : Nat) : Nat := part * 2 ^ 32 + serial

/-- The warp that issues: a warp of a core or a partition's prologue. -/
def State.issuerWarp (s : State) : Issuer → Warp
  | .warp c slot => s.warp c slot
  | .prologue p => match (s.part p).prologue with
    | some r => r.warp
    | none => noWarp
def State.setIssuerWarp (s : State) (i : Issuer) (w : Warp) : State :=
  match i with
  | .warp c slot => s.setWarp c slot w
  | .prologue p => s.modPart p (fun x => { x with prologue := x.prologue.map (fun r => { r with warp := w }) })
def State.modIssuer (s : State) (i : Issuer) (f : Warp → Warp) : State := s.setIssuerWarp i (f (s.issuerWarp i))

/-- All slots of a core. -/
def allSlots : List Nat := List.range 64
/-- The slots of a core whose warps belong to a workgroup and have not retired. -/
def State.wgSlots (s : State) (core wg : Nat) : List Nat :=
  ((s.core core).warps.filter (fun (_, w) => w.wg == wg && w.state != .retired)).map Prod.fst

/-! ### Registers of a warp -/

/-- A lane of a vector register's value. -/
def laneAt (v : LaneVec) (l : Nat) : Word := v.toList.getD l 0
/-- A vector register's value from a function of the lane. -/
def mkVec (f : Nat → Word) : LaneVec := Vector.ofFn (fun i => f i.val)

def Warp.readV (w : Warp) (r l : Nat) : Word := laneAt (get zeroVec w.v r) l
/-- A write to the lanes of a mask; the other lanes keep their values (06 R98). -/
def Warp.writeV (w : Warp) (r : Nat) (mask : LaneMask) (f : Nat → Word) : Warp :=
  { w with v := put zeroVec w.v r (mkVec (fun l => if mask.getLsbD l then f l else laneAt (get zeroVec w.v r) l)) }

def Warp.readS (w : Warp) (n : Nat) : Word := get 0 w.s n
def Warp.writeS (w : Warp) (n : Nat) (x : Word) : Warp := { w with s := put 0 w.s n x }

/-- p0 reads 1 in every lane (06 R97). -/
def Warp.readP (w : Warp) (k : Nat) : LaneMask := if k = 0 then BitVec.allOnes 64 else get 0 w.p k
/-- A write to p0 is discarded; other predicates are written in the lanes of a mask (06 R99). -/
def Warp.writeP (w : Warp) (k : Nat) (mask vals : LaneMask) : Warp :=
  if k = 0 then w else { w with p := put 0 w.p k ((w.readP k &&& ~~~mask) ||| (vals &&& mask)) }

def Warp.readX (w : Warp) (i : Nat) : Nat := (get 0 w.x i).toNat
def Warp.writeX (w : Warp) (i : Nat) (x : BitVec 16) : Warp := { w with x := put 0 w.x i x }

/-- XLIMi, 256 at warp start (06 R103). -/
def Warp.xlimit (w : Warp) (i : Nat) : Nat := get 256 w.xlim i

def noEvent : EventCtr := {}
/-- An event added to the warp's counters that count it; a SWAPPED warp counts only its cycles (18 R327). -/
def Warp.count (w : Warp) (event n : Nat) : Warp :=
  { w with events := if w.state.isSwapped && event != 5 then w.events else w.events.map (fun (k, c) =>
      if c.en && c.event == event then (k, { c with count := c.count + BitVec.ofNat 64 n }) else (k, c)) }

/-- A word of majors 0x30-0x4F in flight. -/
def Flight.floating (f : Flight) : Bool := decide (0x30 ≤ bits f.word 56 8) && decide (bits f.word 56 8 ≤ 0x4F)
/-- A word in flight lets no other issue: one that holds the warp (08 R153), or a floating-point one while TRAPEN is not 0 (06
R117). -/
def Warp.heldUp (w : Warp) : Bool := w.flights.any (fun f => f.holds || (f.floating && w.trap.en != 0))

/-- Nest register words (10 R207). -/
def Warp.readNest (w : Warp) (n k : Nat) : Word := get 0 w.nest (n * 8 + k)
def Warp.writeNest (w : Warp) (n k : Nat) (x : Word) : Warp := { w with nest := put 0 w.nest (n * 8 + k) x }

/-- A completing word's register write. -/
def RegWrite.apply (w : Warp) : RegWrite → Warp
  | .v n mask vals => w.writeV n mask (fun l => laneAt vals l)
  | .s n val => w.writeS n val
  | .p n mask vals => w.writeP n mask vals

/-- The next free values are further ones (DESIGN CHOICE, log 4). -/
def State.nextFree (s : State) : State := { s with freeCtr := s.freeCtr + 1 }

/-- The live lanes: the union of the frontier's masks (02 R33). -/
def Warp.live (w : Warp) : LaneMask :=
  (w.frontier ++ w.spilled).foldl (fun m e => m ||| e.lanes) 0

/-- The warp runs a prologue or belongs to no team. -/
def Warp.handler (w : Warp) : Bool := w.team.isSome

end Sys2Proof.Machine
end

