-- ==== Sys2Proof/Machine/Wake.lean ====
section
/-! DEFINITION. Warp state changes that other operations cause (02 R24, R26-R28; 06 R105): parking, waking, becoming
READY, becoming wakeable while SWAPPED, and the order of the schedulers. -/
namespace Sys2Proof.Machine

/-- Membership of a warp in the states that a wake may change: what it is parked on. -/
def Warp.parkOn (w : Warp) : Option Park :=
  match w.state with
  | .parked p => some p
  | .swapped (.parked p) => some p
  | .frozen (.parked p) => some p
  | _ => none

/-- The waiting counter of R37 starts afresh, and the promotion ends, when a warp leaves READY or issues. -/
def Sched.reset (x : Sched) (now : Nat) : Sched := { x with waited := 0, promoted := none, readySince := now, stints := x.stints + 1 }

/-- A SWAPPED warp becomes wakeable (06 R105). -/
def State.markWakeable (s : State) (c slot : Nat) : State :=
  let w := s.warp c slot
  if w.sched.wakeable then s else s.setWarp c slot { w with sched := { w.sched with wakeable := true, wakeableSince := s.now } }

/-- A soft request is in force for a workgroup: a warp of it that reaches a boundary is held there (14 R264). -/
def State.asked (s : State) (k : Nat) : Bool := (s.wg k).request.isSome

/-- A warp that parked in this cycle from its own turn goes on with that turn: its park counts as not having come about (02 R27). A
warp selected in its place meanwhile is READY as it was. -/
def State.goOn (s : State) (c slot : Nat) : State :=
  let x := (s.core c).sched (slot / 16)
  let s := match x.issuing with
    | some j => s.modWarp c j (fun w => { w with state := if w.state = WState.issuing then .ready else w.state })
    | none => s
  let s := s.modWarp c slot (fun w => { w with state := .issuing, sched := { w.sched with onTurn := false, held := false } })
  s.modCore c (fun k => k.modSched (slot / 16) (fun x => { x with issuing := some slot, promotedTurn := (s.warp c slot).sched.promotedTurn }))

/-- The park is an arrival at a barrier under a soft request: it is a boundary whenever the barrier completes (14 R264). -/
def State.heldArrival (s : State) (k : Nat) (p : Park) : Bool :=
  match p with
  | .barrier _ => s.asked k
  | _ => false

/-- A warp whose condition is met becomes READY, or goes on with its turn where it parked in this cycle and no save of its
workgroup has begun, before which no further word issues (14 R264, R265); a SWAPPED one becomes
wakeable, unless its swap-out is still in progress, in which case it becomes so when that ends; a FROZEN one is READY at its
release (02 R24, R27; 06 R106). -/
def State.wakeWarp (s : State) (c slot : Nat) : State :=
  let w := s.warp c slot
  match w.state with
  | .parked p =>
    if w.sched.onTurn && w.sched.parkedSince == s.now && !s.heldArrival w.wg p && !(s.wg w.wg).saving then s.goOn c slot
    else s.setWarp c slot { w with state := .ready, sched := w.sched.reset s.now }
  | .frozen (.parked _) => s.setWarp c slot { w with state := .frozen .ready }
  | .swapped (.parked _) =>
    let s := s.setWarp c slot { w with state := .swapped .ready }
    (match w.res with
      | .movingOut _ => s
      | _ => s.markWakeable c slot)
  | _ => s

/-- What a warp is parked on replaced, whatever else its state is. -/
def WState.onPark (g : Park → Park) : WState → WState
  | .parked p => .parked (g p)
  | .swapped (.parked p) => .swapped (.parked (g p))
  | .frozen (.parked p) => .frozen (.parked (g p))
  | x => x

/-- All warps of a core that are parked on a condition. -/
def State.parkedOn (s : State) (c : Nat) (f : Park → Bool) : List Nat :=
  ((s.core c).warps.filter (fun (_, w) => match w.parkOn with | some p => f p | none => false)).map Prod.fst

/-- Every core's number that has any state. -/
def State.coreNums (s : State) : List Nat := s.cores.map Prod.fst

/-- A warp of a saved context whose condition is met is READY, or SWAPPED and wakeable, when restored (14 R261). -/
def Warp.wakeSaved (f : Park → Bool) (w : Warp) : Warp :=
  match w.parkOn with
  | none => w
  | some p =>
    if f p then
      match w.state with
      | .parked _ => { w with state := .ready }
      | .swapped _ => { w with state := .swapped .ready }
      | .frozen _ => { w with state := .frozen .ready }
      | _ => w
    else w

/-- Warps of saved contexts that are parked on a condition wake (14 R261). -/
def State.wakeSaved (s : State) (f : Park → Bool) : State :=
  { s with funcs := s.funcs.map (fun (i, x) => (i, { x with ctx := { x.ctx with saved := x.ctx.saved.map (fun (v : SavedWg) =>
      { v with warps := v.warps.map (fun (slot, w) => (slot, w.wakeSaved f)) }) } })) }

/-- All warps of the device that are parked on a condition wake together (02 R26). -/
def State.wakeAll (s : State) (f : Park → Bool) : State :=
  (s.wakeSaved f).coreNums.foldl (fun s c => (s.parkedOn c f).foldl (fun s slot => s.wakeWarp c slot) s) (s.wakeSaved f)

/-- The state is a task boundary of its warp (14 R264). -/
def WState.boundary : WState → Bool
  | .parked _ | .dormant | .frozen _ | .swapped (.parked _) | .swapped .dormant => true
  | _ => false

/-- The warp parks: it leaves its scheduler's issue place (02 R24). -/
def State.parkWarp (s : State) (c slot : Nat) (p : Park) : State :=
  let w := s.warp c slot
  let s := s.setWarp c slot { w with
    state := .parked p
    sched := { (w.sched.reset s.now) with
      parkedSince := s.now, onTurn := ((s.core c).sched (slot / 16)).issuing == some slot, victim := false
      promotedTurn := ((s.core c).sched (slot / 16)).promotedTurn
      held := w.sched.held || s.asked w.wg } }
  s.modCore c (fun k => k.modSched (slot / 16) (fun x => if x.issuing = some slot then { x with issuing := none, promotedTurn := false } else x))

/-- The warp leaves ISSUING for READY (02 R24): GW, YIELD, a blocked word, a hand-over. -/
def State.yieldTurn (s : State) (c slot : Nat) : State :=
  let w := s.warp c slot
  let s := if w.state = .issuing then s.setWarp c slot { w with state := .ready, sched := w.sched.reset s.now } else s
  s.modCore c (fun k => k.modSched (slot / 16) (fun x => if x.issuing = some slot then { x with issuing := none, promotedTurn := false } else x))

/-- The last arrival of a barrier, which parks no warp: under a soft request the warp is READY and held, as those that it
wakes are (14 R264). -/
def State.lastArrival (s : State) (c slot : Nat) : State :=
  if s.asked (s.warp c slot).wg then (s.yieldTurn c slot).modWarp c slot (fun w => { w with sched := { w.sched with held := true } }) else s

/-- The warp leaves its scheduler's issue place for another state. -/
def State.leaveIssue (s : State) (c slot : Nat) (st : WState) : State :=
  let w := s.warp c slot
  let s := s.setWarp c slot { w with
    state := st, sched := { (w.sched.reset s.now) with held := w.sched.held || (st.boundary && s.asked w.wg) } }
  s.modCore c (fun k => k.modSched (slot / 16) (fun x => if x.issuing = some slot then { x with issuing := none, promotedTurn := false } else x))

end Sys2Proof.Machine
end

