-- ==== Sys2Proof/Machine/Mem.lean ====
section
/-! DEFINITION. Device memory: physical places, translation (15 R275-R278), lines with headers, compression (09 R179-R181),
storage errors (09 R184-R185), digest upkeep (17 R319-R321), heat sampling (09 R182-R183), fault records (15 R280-R282). -/
namespace Sys2Proof.Machine

/-! ### Places

A place is a natural number: the space times 2^64 plus the address. Spaces 0-15 are the partitions' HBM, 16 is the package's
window of pooled memory; from 32 on each is the host memory that ATS reaches for a function, without a PASID or under one. Places
from 2^200 hold the logical contents of COMP pages. -/

/-- HBM bytes belong to their partition and address, whichever channels the partition has (DESIGN CHOICE, log 108). -/
def hbmPlace (p a : Nat) : Nat := p * 2 ^ 64 + a
/-- One window of pooled addresses serves the package (01 R10; 00 R3). -/
def poolPlace (a : Nat) : Nat := 16 * 2 ^ 64 + a
/-- The host's address space for a function: its own, or that of the PASID under which its ATS requests go (15 R275, R276;
DESIGN CHOICE, log 111). -/
def hostSpace (f : Nat) (pasid : Option Nat) : Nat :=
  match pasid with
  | none => f
  | some i => 65536 * (i + 1) + f
def hostPlace (space a : Nat) : Nat := (32 + space) * 2 ^ 64 + a
/-- The logical contents of a COMP page: its descriptor, and its home area, whose 32-byte slots hold 64-byte lines. -/
def compPlace (p desc home : Nat) : Nat := (p + 1) * 2 ^ 200 + desc * 2 ^ 100 + 2 * home
/-- A COMP place without its descriptor: the home slot alone says which line it is (15 R279). -/
def homePlace (k : Nat) : Nat := k / 2 ^ 200 * 2 ^ 200 + k % 2 ^ 100

/-- The context save area: the place that firmware reserves for the image of a workgroup, by its key (14 R267). It lies in the
partition's device memory at an address that the spec does not give, beside the bytes that addresses name (DESIGN CHOICE, log 76). -/
def areaPlace (k : Nat) : Nat := 2 ^ 120 + k * 2 ^ 40

/-- What an unlisted byte of memory reads as (DESIGN CHOICE, log 2). -/
def blankByte : Byte := 0

/-- The byte at a place. -/
def State.byteAt (s : State) (k : Nat) : Byte := get blankByte s.mem k
/-- `n` bytes from a place. -/
def State.bytesAt (s : State) (k n : Nat) : List Byte := (List.range n).map (fun i => s.byteAt (k + i))
/-- A little-endian number of `n` bytes at a place. -/
def State.numAt (s : State) (k n : Nat) : Nat := numLE (s.bytesAt k n)

/-- The memory with bytes stored from a place upward. -/
def storeBytes (m : List Host.Cell) (k : Nat) : List Byte → List Host.Cell
  | [] => m
  | b :: r => storeBytes (put blankByte m k b) (k + 1) r

/-- Raw bytes stored, without any of the upkeep of a line write. -/
def State.rawStore (s : State) (k : Nat) (bs : List Byte) : State := { s with mem := storeBytes s.mem k bs }

/-- Channels of a partition (15 R286). -/
def Partition.channels (p : Partition) : Nat := p.chans.foldl (fun n (_, w) => n + popcount 64 w.toNat) 0
/-- Cores of a partition in ascending number. -/
def Partition.coreList (p : Partition) : List Nat :=
  (List.range 256).filter (fun c => (get 0 p.cores (c / 64)).getLsbD (c % 64))
/-- The HBM address space runs to 3 GB for each channel (15 R286). -/
def Partition.hbmSize (p : Partition) : Nat := 3 * 10 ^ 9 * p.channels

/-- The pooled-memory window holds 4 TiB of addresses (00 R3). -/
def poolWindow : Nat := 2 ^ 42
/-- The pooled region that holds an address: base, size, port. A region lies in the window, on a port of the partition (15 R286). -/
def Partition.poolRegion (p : Partition) (a : Nat) : Option (Nat × Nat × Nat) :=
  p.pools.find? (fun (b, n, port) => decide (b ≤ a) && decide (a < b + n) && decide (b + n ≤ poolWindow) && p.cxl.getLsbD port)

/-! ### Translation -/

/-- What an access is (15 R277). -/
structure Access where
  write : Bool := false
  fetch : Bool := false
  engine : Bool := false
  /-- the 64 KiB units that the elements of its word stand in, where they stand in several -/
  word : List Nat := []
deriving DecidableEq, Repr

/-- Outcome of a translation (15 R277): of a page fault, the flags and address of its record. -/
inductive Tr where
  | ok (p : Page)
  | page (flags va : Nat)
  | protect
deriving DecidableEq, Repr

/-- The first byte of the page that a fault record names where no leaf gives a page: the 64 KiB unit of the address (DEDUCED, log 15). -/
def faultPage (va : Nat) : Nat := va / 65536 * 65536

/-- A level of the walk: low VA bit, index bits, whether a leaf may and must stand there (15 R275). -/
structure Level where
  shift : Nat
  nbits : Nat
  leafOk : Bool
  mustLeaf : Bool
deriving DecidableEq, Repr

def levels : List Level :=
  [⟨48, 9, false, false⟩, ⟨39, 9, false, false⟩, ⟨30, 9, true, false⟩, ⟨21, 9, true, false⟩, ⟨16, 5, true, true⟩]

/-- The address space in which the host answers a function's ATS requests: PEN sends them under PASID (15 R275). -/
def Func.hostSpace (x : Func) (f : Nat) : Nat :=
  Machine.hostSpace f (if x.vftroot.getLsbD 43 then some (bits x.vftroot 44 20) else none)

/-- A page that stands for a partition's whole HBM space, for accesses by physical address. -/
def hbmPage (p : Nat) : Page :=
  { place := hbmPlace p 0, size := 2 ^ 57, tier := 0, kind := 0, heat := false, comp := none, ro := false, addr := 0, va := 0 }

/-- A number of a table or descriptor at an HBM address, as the walk receives it: 0 where its line is poisoned or has an uncorrectable
error (09 R185). -/
def State.tableNum (s : State) (p a n : Nat) : Nat :=
  let id := hbmPlace p a / 64
  if get false s.poison id || get false s.badMem id then 0 else s.numAt (hbmPlace p a) n

/-- A compression descriptor read (15 R279). -/
def State.compRef (s : State) (p d : Nat) : CompRef :=
  { desc := d, home := s.tableNum p d 8, ovf := s.tableNum p (d + 8) 8, map := s.tableNum p (d + 16) 8, e := s.tableNum p (d + 24) 4 }

/-- The form of a well-formed leaf, and what it maps (15 R276): `ref` reads a descriptor. -/
def leafPage (p space e va shift : Nat) (ref : Nat → CompRef) : Option Page :=
  let addr := e / 2 ^ 6 % 2 ^ 46 * 64
  let tier := e / 2 ^ 60 % 4
  let kind := e / 2 ^ 58 % 4
  let comp := e / 2 ^ 62 % 2 = 1 ∧ tier = 0
  if e / 2 ^ 2 % 16 ≠ 0 ∨ e / 2 ^ 52 % 8 ≠ 0 ∨ tier = 3 ∨ kind = 3 then none
  else if ¬ comp ∧ addr % 2 ^ shift ≠ 0 then none
  else
    let base := va / 2 ^ shift * 2 ^ shift
    some { place := if comp then compPlace p addr (ref addr).home
                    else if tier = 0 then hbmPlace p addr else if tier = 1 then poolPlace addr else hostPlace space addr
           size := 2 ^ shift, tier := tier, kind := kind, heat := e / 2 ^ 63 % 2 = 1
           comp := if comp then some (ref addr) else none, ro := e / 2 ^ 55 % 2 = 1, addr := addr, va := base, leaf := e }

/-- The checks of R277 at a leaf, after its form. -/
def leafCheck (s : State) (e : Nat) (pg : Page) (acc : Access) : Tr :=
  if (acc.write ∧ e / 2 ^ 55 % 2 = 1) ∨ (acc.engine ∧ e / 2 ^ 57 % 2 = 0) ∨ (acc.fetch ∧ e / 2 ^ 56 % 2 = 1) then .protect
  else if pg.tier = 2 ∧ s.atsRefused.contains pg.place then .page 8 pg.va
  else .ok pg

/-- The next table down that a well-formed entry names, above the levels `rest`. -/
def nextTable (e : Nat) (rest : List Level) : Option Nat :=
  let next := e / 2 ^ 6 % 2 ^ 46 * 64
  let size := match rest with
    | n :: _ => 8 * 2 ^ n.nbits
    | [] => 64
  if e / 2 ^ 2 % 16 ≠ 0 ∨ e / 2 ^ 52 ≠ 0 ∨ next % size ≠ 0 then none else some next

/-- The address of the entry that a walk reads in a table. -/
def Level.entryAt (l : Level) (table va : Nat) : Nat := table + 8 * (va / 2 ^ l.shift % 2 ^ l.nbits)

/-- The walk from a table down (15 R277). -/
def walkTable (s : State) (p f va : Nat) (acc : Access) : Nat → List Level → Tr
  | _, [] => .page 4 (faultPage va)
  | table, l :: rest =>
    if l.entryAt table va + 8 > (s.part p).hbmSize then .protect
    else
      let e := s.tableNum p (l.entryAt table va) 8
      if e % 2 = 0 then .page 0 (faultPage va)
      else if e / 2 % 2 = 1 then
        if l.leafOk then
          match leafPage p ((s.func f).hostSpace f) e va l.shift (s.compRef p) with
          | none => .page 4 (faultPage va)
          | some pg => leafCheck s e pg acc
        else .page 4 (faultPage va)
      else if l.mustLeaf then .page 4 (faultPage va)
      else
        match nextTable e rest with
        | none => .page 4 (faultPage va)
        | some next => walkTable s p f va acc next rest

/-- The lines that the walk reads, by HBM offset: of each table down to the entry that ends it, and of a COMP leaf's descriptor. -/
def walkReads (s : State) (p va : Nat) : Nat → List Level → List Nat
  | _, [] => []
  | table, l :: rest =>
    if l.entryAt table va + 8 > (s.part p).hbmSize then []
    else
      let e := s.tableNum p (l.entryAt table va) 8
      let next := if e % 2 = 0 then []
        else if e / 2 % 2 = 1 then
          match (leafPage p 0 e va l.shift (s.compRef p)).bind Page.comp with
          | some r => if l.leafOk ∧ r.desc + 64 ≤ (s.part p).hbmSize then [r.desc] else []
          | none => []
        else if l.mustLeaf then []
        else
          match nextTable e rest with
          | none => []
          | some next => walkReads s p va next rest
      l.entryAt table va / 64 * 64 :: next

/-- Translation of an address by the tables as they stand, where the function has any. -/
def State.tableTr (s : State) (p f va : Nat) (acc : Access) : Tr :=
  walkTable s p f va acc (bits (s.func f).vftroot 1 40 * 4096) levels

/-- A cached translation covers an address of a function. -/
def tlbCovers (p f va : Nat) (x : Nat × Nat × Page) : Bool :=
  x.1 == p && x.2.1 == f && decide (x.2.2.va ≤ va) && decide (va < x.2.2.va + x.2.2.size)

/-- What a cached translation of an address answers, where that differs from what the tables answer now, with its page. -/
def State.cachedTr (s : State) (p f va : Nat) (acc : Access) (now_ : Tr) : Option (Page × Tr) :=
  (s.tlb.find? (fun x => tlbCovers p f va x && decide (leafCheck s x.2.2.leaf x.2.2 acc ≠ now_))).map
    (fun x => (x.2.2, leafCheck s x.2.2.leaf x.2.2 acc))

/-- Bytes of the page that a translation answers, of a fault the unit that its record names. -/
def Tr.size : Tr → Nat
  | .ok pg => pg.size
  | _ => 65536

/-- What a cached translation answers for an address, where that differs from what the tables answer. -/
def State.oldTr (s : State) (p f va : Nat) (acc : Access) : Option (Page × Tr) := s.cachedTr p f va acc (s.tableTr p f va acc)

/-- Bytes of the largest page, old or new, on which an address stands together with an element of its word. -/
def State.sharedSize (s : State) (p f va : Nat) (acc : Access) : Nat :=
  (va :: acc.word).foldl (fun n a =>
    let old := match s.oldTr p f a acc with
      | some (pg, _) => pg.size
      | none => 1
    [(s.tableTr p f a acc).size, old].foldl (fun n k => if va / k = a / k then max n k else n) n) 1

/-- Translation of a virtual address in a function's address space (15 R275-R277): by the tables as they stand, or, until an
INVAL, by an entry that was used before and has changed since (15 R278); the elements of a word on one page, the old or the new,
use a single one (15 R277): the old only where each of them has it (DESIGN CHOICE, log 57). -/
def State.translate (s : State) (p f : Nat) (va : Nat) (acc : Access) : Tr :=
  if (s.func f).vftroot.getLsbD 0 = false ∨ va ≥ 2 ^ 57 then .protect
  else
    match s.oldTr p f va acc with
    | none => s.tableTr p f va acc
    | some (_, old) =>
      let n := s.sharedSize p f va acc
      if Config.cachedEntry s.now (va / n * n) && acc.word.all (fun a => a / n != va / n || (s.oldTr p f a acc).isSome) then old
      else s.tableTr p f va acc

/-- The lines that the translation of an address reads in memory. -/
def State.tableLines (s : State) (p f va : Nat) : List (Page × Nat) :=
  if (s.func f).vftroot.getLsbD 0 = false ∨ va ≥ 2 ^ 57 then []
  else (walkReads s p va (bits (s.func f).vftroot 1 40 * 4096) levels).map (fun a => (hbmPage p, a))

/-- The cached translations of a function that `sel` selects are dropped. -/
def State.dropCached (s : State) (f : Nat) (sel : Page → Bool) : State := { s with tlb := s.tlb.filter (fun (_, g, pg) => g != f || !sel pg) }

/-- The connection matrix grants a page: all its bytes lie in the partition's own memory, of a COMP page its descriptor, home area,
overflow entries and bitmap (15 R279, R286; 09 R177). -/
def State.pageExists (s : State) (p : Nat) (pg : Page) : Bool :=
  match pg.comp, pg.tier with
  | some r, _ =>
    let n := (s.part p).hbmSize
    decide (r.desc + 64 ≤ n) && decide (r.home + pg.size / 2 ≤ n) &&
      (r.e == 0 || (decide (r.ovf + 64 * r.e ≤ n) && decide (r.map + (r.e + 7) / 8 ≤ n)))
  | none, 0 => decide (pg.addr + pg.size ≤ (s.part p).hbmSize)
  | none, 1 => match (s.part p).poolRegion pg.addr with
    | some (b, n, _) => decide (pg.addr + pg.size ≤ b + n - n / 32)
    | none => false
  | none, _ => true

/-! ### Lines

A line is a page and the page offset of its first byte, a multiple of 64. -/

/-- The number of a line, for headers, poison and errors; a line of a COMP page is known by its home slot (15 R279). -/
def lineId (pg : Page) (off : Nat) : Nat :=
  (match pg.comp with
    | none => pg.place + off
    | some _ => homePlace (pg.place + off)) / 64

/-- The HBM address of the home slot of a COMP page's line. -/
def slotAddr (pg : Page) (off : Nat) : Nat := (pg.place % 2 ^ 100 + off / 64 * 64) / 2

/-- RAWLINES of a compression descriptor (15 R279). -/
def State.compRaw (s : State) (p d : Nat) : Nat := s.numAt (hbmPlace p (d + 28)) 4
/-- The tag of a home slot, and the entry number of a RAW slot. -/
def State.compTag (s : State) (p slot : Nat) : Nat := s.numAt (hbmPlace p slot) 1
def State.compEntry (s : State) (p slot : Nat) : Nat := s.numAt (hbmPlace p (slot + 4)) 4

/-- Overflow entry `e` lies in the partition's memory. -/
def State.ovfIn (s : State) (p ovf e : Nat) : Bool := decide (ovf + 64 * e + 64 ≤ (s.part p).hbmSize)

/-- The connection matrix grants a line of a page that it grants: of a RAW line the overflow entry that its slot names, and the
entry's bit, lie in the partition's memory (15 R279, R286). -/
def State.lineExists (s : State) (p : Nat) (pg : Page) (off : Nat) : Bool :=
  match pg.comp with
  | none => true
  | some r =>
    s.compTag p (slotAddr pg off) != 3 ||
      (s.ovfIn p r.ovf (s.compEntry p (slotAddr pg off)) && decide (r.map + s.compEntry p (slotAddr pg off) / 8 < (s.part p).hbmSize))

/-- Translation of an access that is then performed: one that the connection matrix forbids is PROTECT (15 R286). -/
def State.translateIn (s : State) (p f : Nat) (va : Nat) (acc : Access) : Tr :=
  match s.translate p f va acc with
  | .ok pg => if s.pageExists p pg && s.lineExists p pg (va - pg.va) then .ok pg else .protect
  | t => t

/-- The stored bytes of a line (09 R179 for a COMP page) (DEDUCED, log 8). -/
def State.lineBytes (s : State) (p : Nat) (pg : Page) (off : Nat) : List Byte :=
  match pg.comp with
  | none => s.bytesAt (pg.place + off) 64
  | some r =>
    match s.compTag p (slotAddr pg off) with
    | 0 => List.replicate 64 0
    | 3 =>
      let e := s.compEntry p (slotAddr pg off)
      if s.ovfIn p r.ovf e then s.bytesAt (hbmPlace p (r.ovf + 64 * e)) 64 else List.replicate 64 blankByte
    | _ => s.bytesAt (64 * lineId pg off) 64

/-- The physical address at which a line is stored: of a COMP page its home slot, or its overflow entry (09 R179, R184). -/
def State.lineAddr (s : State) (p : Nat) (pg : Page) (off : Nat) : Nat :=
  match pg.comp with
  | none => pg.addr + off
  | some r =>
    if s.compTag p (slotAddr pg off) = 3 then r.ovf + 64 * s.compEntry p (slotAddr pg off) else slotAddr pg off

/-- The place of a pooled line's shadow header (09 R177). -/
def State.shadowPlace (s : State) (p : Nat) (pg : Page) (off : Nat) : Option Nat :=
  if pg.tier = 1 then
    match (s.part p).poolRegion pg.addr with
    | some (b, n, _) => some (poolPlace (b + n - n / 32 + 2 * ((pg.addr + off - b) / 64)))
    | none => none
  else none

/-- A line's header (05 R85; SCALE 0x80 where the line is poisoned, 09 R185) (DEDUCED, log 53). -/
def State.header (s : State) (p : Nat) (pg : Page) (off : Nat) : Nat :=
  let h := match s.shadowPlace p pg off with
    | some k => s.numAt k 2
    | none => (get 0 s.hdrs (lineId pg off)).toNat
  if get false s.poison (lineId pg off) then 0x8000 + h % 256 else h

/-- A line of a sealed block is written: the parity of its groups may match no longer (16 R302). -/
def State.kvTouch (s : State) (id : Nat) : State :=
  { s with kvLines := put [] s.kvLines id ((get [] s.kvLines id).map (fun m => { m with written := true })) }

/-- A line's header written. -/
def State.setHeader (s : State) (p : Nat) (pg : Page) (off : Nat) (h : Nat) : State :=
  let s := s.kvTouch (lineId pg off)
  match s.shadowPlace p pg off with
  | some k => s.rawStore k (bytesLE 2 h)
  | none => { s with hdrs := put 0 s.hdrs (lineId pg off) (BitVec.ofNat 16 h) }

/-- What a reader of a line receives: zeros where it is poisoned (09 R185). -/
def State.readLine (s : State) (p : Nat) (pg : Page) (off : Nat) : List Byte :=
  if get false s.poison (lineId pg off) then List.replicate 64 0 else s.lineBytes p pg off

/-- A byte as a reader receives it. -/
def State.readByte (s : State) (p : Nat) (pg : Page) (off : Nat) : Byte :=
  match pg.comp with
  | none => if get false s.poison (lineId pg (off / 64 * 64)) then 0 else s.byteAt (pg.place + off)
  | some _ => (s.readLine p pg (off / 64 * 64)).getD (off % 64) 0

/-! ### Compression (09 R180) -/

/-- The 32-bit words w_i - w_0, or the 64-bit words, as signed values. -/
def deltasFit (line wbits dbits : Nat) : Bool :=
  (List.range (512 / wbits)).all (fun i =>
    let d := signedNat wbits (line / 2 ^ (wbits * i) + 2 ^ wbits - line % 2 ^ wbits)
    decide (-((2 ^ (dbits - 1) : Nat) : Int) ≤ d) && decide (d ≤ ((2 ^ (dbits - 1) : Nat) : Int) - 1))

/-- The scheme of a line: 0 ZERO, 1 B4D1, 2 B8D3, 3 incompressible. -/
def compScheme (bytes : List Byte) : Nat :=
  let line := lineNum bytes
  if line = 0 then 0 else if deltasFit line 32 8 then 1 else if deltasFit line 64 24 then 2 else 3

/-- The lowest free overflow entry of a bitmap among the first `n` left to look at, from entry `e`. -/
def State.freeEntry (s : State) (p map : Nat) : Nat → Nat → Option Nat
  | 0, _ => none
  | n + 1, e =>
    if (s.byteAt (hbmPlace p (map + e / 8))).toNat / 2 ^ (e % 8) % 2 = 0 then some e
    else State.freeEntry s p map n (e + 1)

/-- A write that would make a line raw has no free entry (09 R181). -/
def State.overflows (s : State) (p : Nat) (pg : Page) (off : Nat) (new : List Byte) : Bool :=
  match pg.comp with
  | none => false
  | some r => decide (compScheme new = 3) && decide (s.compTag p (slotAddr pg off) ≠ 3) &&
      (s.freeEntry p r.map r.e 0).isNone

/-- The bit of an overflow entry; one outside the partition's memory is no access's (R286). -/
def State.setMapBit (s : State) (p map e : Nat) (b : Bool) : State :=
  let k := hbmPlace p (map + e / 8)
  let old := (s.byteAt k).toNat
  let cleared := old - old / 2 ^ (e % 8) % 2 * 2 ^ (e % 8)
  if map + e / 8 < (s.part p).hbmSize then s.rawStore k [BitVec.ofNat 8 (cleared + (if b then 2 ^ (e % 8) else 0))] else s

/-- A line of a COMP page stored: home slot tag, overflow entry, bitmap and RAWLINES (09 R179, R181). -/
def State.compStore (s : State) (p : Nat) (r : CompRef) (pg : Page) (off : Nat) (new : List Byte) : State :=
  let j := slotAddr pg off
  let old := s.compTag p j
  let scheme := compScheme new
  let home := hbmPlace p j
  if scheme = 3 then
    if old = 3 then (if s.ovfIn p r.ovf (s.compEntry p j) then s.rawStore (hbmPlace p (r.ovf + 64 * s.compEntry p j)) new else s)
    else
      match s.freeEntry p r.map r.e 0 with
      | none => s
      | some e =>
        let s := s.setMapBit p r.map e true
        let s := s.rawStore (hbmPlace p (r.desc + 28)) (bytesLE 4 (s.compRaw p r.desc + 1))
        let s := (s.rawStore home [3]).rawStore (home + 4) (bytesLE 4 e)
        s.rawStore (hbmPlace p (r.ovf + 64 * e)) new
  else
    let s := if old = 3 then
        let s := s.setMapBit p r.map (s.compEntry p j) false
        s.rawStore (hbmPlace p (r.desc + 28)) (bytesLE 4 (s.compRaw p r.desc - 1))
      else s
    (s.rawStore home [BitVec.ofNat 8 scheme]).rawStore (64 * lineId pg off) new

/-! ### Digests (17 R319, R321) -/

/-- One byte into the CRC, most significant bit first. -/
def crcByte (crc : Nat) (b : Byte) : Nat :=
  (List.range 8).foldl (fun c i =>
    let top := c / 2 ^ 63 % 2
    let bit := b.toNat / 2 ^ (7 - i) % 2
    let c2 := c * 2 % 2 ^ 64
    if top = bit then c2 else Nat.xor c2 0x42F0E1EBA9EA3693) crc

def crc64 (init : Nat) (bytes : List Byte) : Nat := bytes.foldl crcByte init

/-- Lane A's and lane B's terms of a line at its virtual address. -/
def crcA (va : Nat) (line : List Byte) : Word := BitVec.ofNat 64 (crc64 0 (bytesLE 8 va ++ line))
def crcB (va : Nat) (line : List Byte) : Word := BitVec.ofNat 64 (crc64 (2 ^ 64 - 1) (line ++ bytesLE 8 va))

/-- The virtual address of a place within a region's pieces. -/
def regionVa (pages : List (Nat × Nat × Nat)) (k : Nat) : Option Nat :=
  match pages.find? (fun (b, n, _) => decide (b ≤ k) && decide (k < b + n)) with
  | some (b, _, va) => some (va + (k - b))
  | none => none

/-- A slot after a write to the line at place `k`: old terms subtracted, new ones added (17 R321). -/
def DigestSlot.upkeep (d : DigestSlot) (k : Nat) (old new : List Byte) : DigestSlot :=
  if d.state = .ready then
    match regionVa d.pages k with
    | some va => { d with laneA := d.laneA - crcA va old + crcA va new, laneB := d.laneB - crcB va old + crcB va new }
    | none => d
  else d

/-- Upkeep of every function's slots. -/
def State.digestUpkeep (s : State) (k : Nat) (old new : List Byte) : State :=
  { s with funcs := s.funcs.map (fun (f, x) => (f, { x with digests := x.digests.map (fun (i, d) => (i, d.upkeep k old new)) })) }

/-! ### Writing lines -/

/-- The pooled line's link is down (09 R178). -/
def State.linkDown (s : State) (p : Nat) (pg : Page) : Bool :=
  decide (pg.tier = 1) && (match (s.part p).poolRegion pg.addr with
    | some (_, _, port) => s.cxlDown.getLsbD port
    | none => false)

/-- A line written: digests, compression, and the poison that only a write of all 64 bytes clears (09 R185; 10 R191). -/
def State.writeLine (s : State) (p : Nat) (pg : Page) (off : Nat) (new : List Byte) (whole : Bool) : State :=
  let old := s.lineBytes p pg off
  let id := lineId pg off
  let s := (s.kvTouch id).digestUpkeep (pg.place + off) old new
  let s := match pg.comp with
    | none => s.rawStore (pg.place + off) new
    | some r => s.compStore p r pg off new
  if whole ∧ get false s.poison id then
    ({ s with poison := put false s.poison id false }).setHeader p pg off 0
  else s

/-- One byte to be written: its page, page offset and value. -/
structure ByteWrite where
  page : Page
  off : Nat
  val : Byte
deriving DecidableEq, Repr

/-- The lines that byte writes touch, each once, in order of first touch. -/
def touchedLines (ws : List ByteWrite) : List (Page × Nat) :=
  ws.foldl (fun acc w =>
    let l := (w.page, w.off / 64 * 64)
    if acc.any (fun (pg, o) => lineId pg o == lineId l.1 l.2) then acc else acc ++ [l]) []

/-- A line's bytes after the byte writes that fall in it; a later write of one byte wins. -/
def mergeLine (pg : Page) (off : Nat) (old : List Byte) (ws : List ByteWrite) : List Byte :=
  ws.foldl (fun bs w => if lineId w.page (w.off / 64 * 64) = lineId pg off then bs.set (w.off % 64) w.val else bs) old

/-- All 64 bytes of the line are written. -/
def coversLine (pg : Page) (off : Nat) (ws : List ByteWrite) : Bool :=
  (List.range 64).all (fun i => ws.any (fun w => lineId w.page (w.off / 64 * 64) == lineId pg off && w.off % 64 == i))

/-- The first line for which the writes find no overflow entry, as a virtual address of its page (09 R181). Lines are
taken one after the other, each with the entries that the lines before it have used. -/
def State.firstOverflow (s : State) (p : Nat) (ws : List ByteWrite) : List (Page × Nat) → Option Nat
  | [] => none
  | (pg, off) :: r =>
    let new := mergeLine pg off (s.lineBytes p pg off) ws
    if s.overflows p pg off new then some pg.va
    else match pg.comp with
      | none => State.firstOverflow s p ws r
      | some c => State.firstOverflow (s.compStore p c pg off new) p ws r

/-- A home slot tagged ZERO by a write to its frame: its line reads with header 0x0000 (15 R279). -/
def initSlots (p : Nat) (ws : List ByteWrite) (hdrs : Sparse (BitVec 16)) : Sparse (BitVec 16) :=
  ws.foldl (fun h w =>
    let a := w.page.place + w.off
    if w.page.comp = none ∧ a / 2 ^ 64 = p ∧ a % 32 = 0 ∧ w.val = 0 then put 0 h (homePlace (compPlace p 0 (a % 2 ^ 64)) / 64) 0 else h) hdrs

/-- The lines of one access written. A write to a pooled line whose link is down is dropped (09 R178). -/
def State.writeLines (s : State) (p : Nat) (ws : List ByteWrite) (lines : List (Page × Nat)) : State :=
  let s := lines.foldl (fun s (pg, off) =>
    if s.linkDown p pg then s
    else s.writeLine p pg off (mergeLine pg off (s.lineBytes p pg off) ws) (coversLine pg off ws)) s
  { s with hdrs := initSlots p ws s.hdrs }

/-- Bytes that the device itself writes at an HBM address of a partition; outside the partition's memory the matrix forbids
the request, and it is not performed (15 R286; DEDUCED, log 92). -/
def State.hbmStore (s : State) (p a : Nat) (bs : List Byte) : State :=
  if a + bs.length > (s.part p).hbmSize then s
  else
    let ws := bs.zipIdx.map (fun (b, i) => ByteWrite.mk (hbmPage p) (a + i) b)
    s.writeLines p ws (touchedLines ws)

/-! ### Fault records (15 R280-R282) -/

/-- The 64 bytes of a record (15 R280). -/
def FaultRec.bytes (r : FaultRec) (seq : Nat) : List Byte :=
  [BitVec.ofNat 8 r.cause, BitVec.ofNat 8 r.flags, BitVec.ofNat 8 r.agent, BitVec.ofNat 8 r.part] ++
  bytesLE 2 r.func ++ bytesLE 2 r.core ++ bytesLE 8 r.va ++ bytesLE 8 r.word.toNat ++ bytesLE 8 r.pc.toNat ++
  bytesLE 4 r.launch ++ bytesLE 4 r.wgx ++ bytesLE 4 r.wgy ++ bytesLE 4 r.wgz ++ [BitVec.ofNat 8 r.warp, 0, 0, 0] ++
  bytesLE 4 seq ++ bytesLE 8 r.info.toNat

/-- The record is one that stays open and has waiters: PAGE or COMPOVF without SKIP (15 R280). -/
def FaultRec.opens (r : FaultRec) : Bool := (r.cause == 8 || r.cause == 18) && r.flags / 32 % 2 == 0

/-- The fault queue has room: EN, and fewer than 2^LOG2N records (15 R282). -/
def Partition.fqRoom (p : Partition) : Bool := p.fqen && decide ((p.fqtail - p.fqhead).toNat < 2 ^ p.fqlog)

/-- A record written at its entry, TAIL advanced, the interrupt raised. -/
def State.writeRecord (s : State) (p : Nat) (r : FaultRec) : State :=
  let x := s.part p
  let a := bits x.fqbase 12 45 * 4096 + 64 * (x.fqtail.toNat % 2 ^ x.fqlog)
  let s := s.hbmStore p a (r.bytes x.fqtail.toNat)
  s.modPart p (fun y => { y with fqtail := y.fqtail + 1, fqIrq := true
                                 opened := y.opened.map (fun o => if o.rec_ = r ∧ o.seq.isNone then { o with seq := some x.fqtail.toNat } else o) })

/-- A record reported: written where there is room and nothing is held before it, else held with OVF set. A record that
opens enters the list of open records either way. -/
def State.report (s : State) (r : FaultRec) : State :=
  let s := if r.opens then s.modPart r.part (fun y => { y with opened := y.opened ++ [{ rec_ := r, seq := none }] }) else s
  let x := s.part r.part
  if x.fqRoom ∧ x.fqHeld = [] then s.writeRecord r.part r
  else s.modPart r.part (fun y => { y with fqHeld := y.fqHeld ++ [r], fqovf := true })

/-! ### Storage errors (09 R184, R185) -/

/-- An uncorrectable error recorded in ERRSTAT. -/
def ErrStat.add (e : ErrStat) (kind loc : Nat) : ErrStat :=
  { loc := if e.first = 0 then loc else e.loc
    count := min 255 (e.count + 1)
    first := if e.first = 0 then kind + 1 else e.first
    kinds := e.kinds ||| BitVec.ofNat 5 (2 ^ kind) }

/-- A single error of a line is corrected and counted (09 R184; 18 R335). -/
def State.correctLine (s : State) (p id : Nat) : State :=
  if get false s.softMem id then
    { s.modPart p (fun x => { x with hbmCorr := x.hbmCorr + 1 }) with softMem := put false s.softMem id false }
  else s

/-- The lines of an access of workgroup `g` (none for an agent that belongs to none) are looked at: a single error is
corrected; an uncorrectable one is recorded with the line's physical address, and the line poisoned. A poisoned line is no new error
(DESIGN CHOICE, log 116). -/
def State.lookAt (s : State) (p : Nat) (g : Option Nat) (r : FaultRec) (lines : List (Page × Nat)) : State :=
  lines.foldl (fun s (pg, off) =>
    let id := lineId pg off
    let s := s.correctLine p id
    if get false s.badMem id ∨ s.linkDown p pg then
      let s := { s with badMem := put false s.badMem id false, poison := put false s.poison id true }
      let s := match g with
        | some k => s.modWg k (fun w => { w with err := w.err.add 4 0 })
        | none => s
      let s := s.modPart p (fun x => { x with uncorr := x.uncorr + 1 })
      s.report { r with cause := 0x14, flags := 16, part := p, va := s.lineAddr p pg off, info := 0 }
    else s) s

/-- The translation of an address reads its tables, an access of workgroup `g` whose storage errors have the record `r`. -/
def State.walked (s : State) (p f va : Nat) (g : Option Nat) (r : FaultRec) : State := s.lookAt p g r (s.tableLines p f va)

/-- A translation that an access has used is cached: only an entry with V is (15 R278). One that was not cached has read the tables. -/
def State.cachePage (s : State) (p : Nat) (g : Option Nat) (r : FaultRec) (pg : Page) : State :=
  if pg.leaf % 2 = 0 ∨ s.tlb.contains (p, r.func, pg) then s
  else { s.walked p r.func pg.va g r with tlb := (p, r.func, pg) :: s.tlb }
def State.cachePages (s : State) (p : Nat) (g : Option Nat) (r : FaultRec) (lines : List (Page × Nat)) : State :=
  lines.foldl (fun s (pg, _) => s.cachePage p g r pg) s

/-- What an access does besides its reads and writes: the translations that it has used are cached (15 R278), and errors found. -/
def State.findErrors (s : State) (p : Nat) (g : Option Nat) (r : FaultRec) (lines : List (Page × Nat)) : State :=
  (s.cachePages p g r lines).lookAt p g r lines

/-- A PAGE or COMPOVF fault of an agent of a core: it joins the open record of the page and core, or writes one
(15 R280: one record per page per core). Its translation, an access of workgroup `g`, has read the tables (09 R184). -/
def State.reportPage (s : State) (r : FaultRec) (g : Option Nat := none) : State :=
  let s := s.walked r.part r.func r.va g { r with word := 0, pc := 0 }
  if (s.part r.part).opened.any (fun o => o.rec_.func == r.func && o.rec_.core == r.core && o.rec_.va == r.va) then s
  else s.report r

/-- A protection violation of an access of workgroup `g`, whose translation has read the tables. -/
def State.reportProtect (s : State) (r : FaultRec) (g : Option Nat := none) : State :=
  (s.walked r.part r.func r.va g { r with word := 0, pc := 0 }).report r

/-- A write to pooled lines whose link is down is recorded with cause STORAGE, one record for each line (09 R178). -/
def State.reportDropped (s : State) (p : Nat) (r : FaultRec) (lines : List (Page × Nat)) : State :=
  lines.foldl (fun s (pg, off) =>
    if s.linkDown p pg then s.report { r with cause := 0x14, flags := 17, part := p, va := s.lineAddr p pg off, info := 0 } else s) s

/-! ### Heat (09 R182, R183; 15 R288) -/

/-- The heat-table unit of a page: 64 KiB units of HBM, then of the pooled regions in ascending address. A COMP page's is that of its
home area (DESIGN CHOICE, log 124). -/
def State.heatUnit (s : State) (p : Nat) (pg : Page) : Nat :=
  let x := s.part p
  if pg.tier = 1 then
    let before := x.pools.foldl (fun n (b, len, _) =>
      if b + len ≤ pg.addr then n + len / 65536 else if b ≤ pg.addr then n + (pg.addr - b) / 65536 else n) 0
    x.hbmSize / 65536 + before
  else (match pg.comp with | some _ => slotAddr pg 0 | none => pg.addr) / 65536

/-- The HBM channel that serves a line, among those of the partition (15 R286; DESIGN CHOICE, log 12). -/
def State.channelOf (s : State) (p line : Nat) : Nat := Config.channelOf p line % max 1 (s.part p).channels

/-- The memory-side port that serves a line: a channel, that of the home slot for a COMP page, or 384 plus the CXL port of
a pooled region (09 R177, R182; 15 R286). -/
def State.portOf (s : State) (p : Nat) (pg : Page) (off : Nat) : Nat :=
  match pg.tier, pg.comp with
  | 1, _ => (match (s.part p).poolRegion pg.addr with
    | some (_, _, port) => 384 + port
    | none => 384)
  | _, some _ => s.channelOf p (hbmPlace p (slotAddr pg off) / 64)
  | _, none => s.channelOf p (lineId pg off)

def noPort : HeatPort := {}
def portKey (p port : Nat) : Nat := p * 512 + port

/-- Units of the pooled regions that lie below an address. -/
def Partition.unitsBelow (x : Partition) (a : Nat) : Nat :=
  x.pools.foldl (fun n (b, len, _) => if b < a then n + len / 65536 else n) 0

/-- The port that serves the first line of a unit. -/
def State.unitPort (s : State) (p unit : Nat) : Nat :=
  let x := s.part p
  let n := x.hbmSize / 65536
  if unit < n then s.channelOf p (hbmPlace p (unit * 65536) / 64)
  else
    match x.pools.find? (fun (b, len, _) => decide (x.unitsBelow b ≤ unit - n) && decide (unit - n < x.unitsBelow b + len / 65536)) with
    | some (_, _, port) => 384 + port
    | none => 384

/-- The port that owns a unit's heat entry: the one that serves its page's first line, which a sample of the page has named;
before any, the one that serves the unit's first line (09 R183) (DEDUCED, log 51). -/
def State.unitOwner (s : State) (p unit : Nat) : Nat :=
  match s.heat.find? (fun (k, h) => decide (k / 512 = p) && h.units.contains unit) with
  | some (k, _) => k % 512
  | none => s.unitPort p unit

/-- The HBM address of a unit's heat entry. -/
def State.heatAddr (s : State) (p unit : Nat) : Nat := bits (s.part p).heatBase 16 36 * 65536 + unit
/-- 64 KiB units of a partition's HBM space and pooled regions. HBM bytes beyond its last whole unit have the number of the first unit
after it, which is the first pooled one (DESIGN CHOICE, log 124). -/
def Partition.heatUnits (p : Partition) : Nat := p.hbmSize / 65536 + p.pools.foldl (fun n (_, len, _) => n + len / 65536) 0

/-- Every counter that a port owns becomes half, where a halving is due (R183). -/
def State.halveHeat (s : State) (p port : Nat) : State :=
  let h := get noPort s.heat (portKey p port)
  if h.halve then
    let b := hbmPlace p (s.heatAddr p 0)
    let s2 := s.mem.foldl (fun (s2 : State) (c : Host.Cell) =>
      if b ≤ c.1 ∧ c.1 < b + (s.part p).heatUnits ∧ s.unitOwner p (c.1 - b) = port then s2.hbmStore p (s.heatAddr p (c.1 - b)) [BitVec.ofNat 8 (c.2.toNat / 2)] else s2) s
    { s2 with heat := put noPort s2.heat (portKey p port) { h with halve := false } }
  else s

/-- The port owns the unit's entry from now on. -/
def State.ownUnit (s : State) (p unit owner : Nat) : State :=
  let h := s.heat.map (fun ((k, x) : Nat × HeatPort) => (k, if k / 512 = p then { x with units := x.units.filter (fun u => u != unit) } else x))
  let x := get noPort h (portKey p owner)
  { s with heat := put noPort h (portKey p owner) { x with units := unit :: x.units } }

/-- A sample recorded in a heat entry that the port owns: the byte saturates, and each 2^20 samples make a halving due; one
that arrives with a halving due is applied after it. -/
def State.recordHeat (s : State) (p unit owner : Nat) : State :=
  let s := (s.halveHeat p owner).ownUnit p unit owner
  let a := s.heatAddr p unit
  let s := s.hbmStore p a [BitVec.ofNat 8 (min 255 ((s.byteAt (hbmPlace p a)).toNat + 1))]
  let h := get noPort s.heat (portKey p owner)
  let h2 : HeatPort := { h with recorded := h.recorded + 1, halve := h.halve || decide ((h.recorded + 1) % 2 ^ 20 = 0) }
  { s with heat := put noPort s.heat (portKey p owner) h2 }

/-- The pointer moves on where 2^k accesses have passed while armed with none from its requester (R182). -/
def HeatPort.skip (h : HeatPort) (full n : Nat) : HeatPort :=
  if h.armed ∧ h.passed ≥ full then { h with passed := 0, q := (h.q + 1) % max 1 n } else h

/-- One access to a HEAT page at a port from a requester (09 R182). -/
def State.heatAccess (s : State) (p : Nat) (pg : Page) (off requester : Nat) : State :=
  let x := s.part p
  let port := s.portOf p pg off
  let n := (x.coreList).length
  let full := 2 ^ x.heatk
  let h := (get noPort s.heat (portKey p port)).skip full n
  let set (h : HeatPort) (s : State) : State :=
    { s with heat := put noPort s.heat (portKey p port) h }
  if h.armed then
    if x.coreList.getD h.q 0 = requester then
      let s := set { h with armed := false, d := some full, passed := 0, q := (h.q + 1) % max 1 n } s
      let unit := s.heatUnit p pg
      let owner := s.portOf p pg 0
      if owner = port then s.recordHeat p unit owner else { s with samples := s.samples ++ [{ unit := unit, owner := portKey p owner }] }
    else set { h with passed := h.passed + 1 } s
  else
    let d := h.d.getD full - 1
    set { h with d := some d, armed := decide (d = 0), passed := 0 } s

/-- The accesses of one word: one for each line of a HEAT page that a memory-side port serves, of the HBM or POOL tier
(DEDUCED, log 16). -/
def State.heatLines (s : State) (p requester : Nat) (lines : List (Page × Nat)) : State :=
  lines.foldl (fun s (pg, off) => if pg.heat && pg.tier != 2 then s.heatAccess p pg off requester else s) s

/-! ### Counters that reach zero (17 R305) -/

/-- The page of a place, as far as the reading and writing of a line need it. -/
def State.pageOfPlace (s : State) (k : Nat) : Page :=
  if k ≥ 2 ^ 200 then
    let p := k / 2 ^ 200 - 1
    let d := k % 2 ^ 200 / 2 ^ 100
    { hbmPage p with place := compPlace p d 0, size := 2 ^ 99, comp := some (s.compRef p d), addr := d }
  else if k / 2 ^ 64 < 16 then hbmPage (k / 2 ^ 64)
  else if k / 2 ^ 64 < 32 then
    { hbmPage 0 with place := k / 65536 * 65536, size := 65536, tier := 1, addr := k % 2 ^ 64 / 65536 * 65536 }
  else { hbmPage 0 with place := k / 65536 * 65536, size := 65536, tier := 2, addr := k % 2 ^ 64 / 65536 * 65536 }

/-- A number of `n` bytes at a place, as a reader of its line receives it. -/
def State.lineNumAt (s : State) (k n : Nat) : Nat :=
  let pg := s.pageOfPlace k
  let p := if k ≥ 2 ^ 200 then k / 2 ^ 200 - 1 else k / 2 ^ 64 % 16
  numLE ((List.range n).map (fun i => s.readByte p pg (k - pg.place + i)))

/-- A little-endian field of a record. -/
def field (r : List Byte) (lo n : Nat) : Nat := numLE ((r.drop lo).take n)
def fieldW (r : List Byte) (lo n : Nat) : Word := BitVec.ofNat 64 (field r lo n)

/-- A counter's address, of whose two low bits nothing is known (DEDUCED, log 30). -/
def counterVa (va : Word) : Nat := va.toNat / 4 * 4

/-- COUNT of the counter word at a place. -/
def State.countAt (s : State) (k : Nat) : Nat := s.lineNumAt k 3

/-- The place of the counter that a warp is parked on. -/
def Warp.waitsOn (w : Warp) : Option Nat :=
  match w.parkOn with
  | some (.counter k _) => some k
  | _ => none

/-- Places of counters that warps, spawned tasks and launches wait on. -/
def State.waitedPlaces (s : State) : List Nat :=
  (s.cores.flatMap (fun (_, c) => c.warps.filterMap (fun (_, w) => w.waitsOn))) ++
  (s.funcs.flatMap (fun (_, x) => x.ctx.saved.flatMap (fun (v : SavedWg) => v.warps.filterMap (fun (_, w) => w.waitsOn)))) ++
  (s.parts.flatMap (fun (_, p) => p.waitingTasks.map WaitingTask.key)) ++
  (s.launches.filterMap (fun (_, l) => l.ctrKey))

/-- A task put on its core's ready queue (02 R19, R20). -/
def State.pushReady (s : State) (core : Nat) (t : Task) (prio : Nat) : State :=
  s.modCore core (fun c => { c with ready := c.ready ++ [{ task := t, prio := prio, order := c.nextReady }], nextReady := c.nextReady + 1 })

/-- A spawned task of a saved workgroup that becomes ready joins the saved ready queue (14 R261). -/
def State.pushSaved (s : State) (wg id prio : Nat) : State :=
  { s with funcs := s.funcs.map (fun (f, x) => (f, { x with ctx := { x.ctx with saved := x.ctx.saved.map (fun (v : SavedWg) =>
      if v.key = wg then { v with ready := v.ready ++ [{ task := .spawned wg id, prio := prio, order := v.ready.length }] } else v) } })) }

/-- A spawned task becomes ready: on its workgroup's core, or in its saved context. -/
def State.readySpawned (s : State) (wg id prio : Nat) : State :=
  if (s.wg wg).live then s.pushReady (s.wg wg).core (.spawned wg id) prio else s.pushSaved wg id prio

/-- Records waiting on a counter become ready, launches among them, then every warp parked on it wakes (17 R305). -/
def State.counterZero (s : State) (k : Nat) : State :=
  let s := s.parts.foldl (fun s (p, x) =>
    let ready := x.waitingTasks.filter (fun t => t.key == k)
    let s := s.modPart p (fun y => { y with waitingTasks := y.waitingTasks.filter (fun t => t.key != k) })
    ready.foldl (fun s t => s.readySpawned t.wg t.id t.prio) s) s
  let s := { s with launches := s.launches.map (fun ((i, l) : Nat × Launch) =>
    (i, if l.ctrKey = some k then { l with ctrKey := none, ready := true } else l)) }
  s.wakeAll (fun p => match p with | .counter j _ => j == k | _ => false)

/-! A waiter keeps the place that its counter's address was translated to. An INVAL drops the translation: the waiter is
placed again, or has no place until a later translation gives it one (15 R278, R281). -/

/-- The place of no counter. -/
def noKey : Nat := 2 ^ 300

/-- The place of a counter by its virtual address, now. -/
def State.counterKey (s : State) (p f va : Nat) : Nat :=
  match s.translateIn p f va {} with
  | .ok pg => if pg.tier = 2 then noKey else pg.place + (va - pg.va)
  | _ => noKey

/-- A waiter's park, placed again where `sel` holds of its place and address. -/
def State.placePark (s : State) (lid : Nat) (sel : Nat → Nat → Nat → Bool) : Park → Park
  | .counter k va =>
    let l := s.launch lid
    if sel l.func k va then .counter (s.counterKey l.part l.func va) va else .counter k va
  | p => p

/-- Every waiter on a counter that `sel` selects, by function, place and address, is placed again. -/
def State.placeWaiters (s : State) (sel : Nat → Nat → Nat → Bool) : State :=
  let warp (w : Warp) (lid : Nat) : Warp := { w with state := w.state.onPark (s.placePark lid sel) }
  { s with
    cores := s.cores.map (fun ((i, c) : Nat × Core) => (i, { c with warps := c.warps.map (fun ((j, w) : Nat × Warp) =>
      (j, warp w (s.wg w.wg).lid)) }))
    funcs := s.funcs.map (fun ((i, x) : Nat × Func) => (i, { x with ctx := { x.ctx with saved := x.ctx.saved.map (fun (v : SavedWg) =>
      { v with warps := v.warps.map (fun ((j, w) : Nat × Warp) => (j, warp w v.wg.lid)) }) } }))
    parts := s.parts.map (fun ((p, x) : Nat × Partition) => (p, { x with waitingTasks := x.waitingTasks.map (fun (t : WaitingTask) =>
      let f := (s.launch (t.wg / 2 ^ 32)).func
      if sel f t.key t.va then { t with key := s.counterKey p f t.va } else t) }))
    launches := s.launches.map (fun ((i, l) : Nat × Launch) => (i, match l.ctrKey with
      | some k =>
        let va := counterVa (fieldW l.record 16 8)
        if sel l.func k va then { l with ctrKey := some (s.counterKey l.part l.func va) } else l
      | none => l)) }

/-- After a write, every waited counter whose COUNT went from nonzero to zero wakes its waiters; those without a place look
for one first. -/
def State.counterWakes (before after : State) : State :=
  let after := if after.waitedPlaces.contains noKey then after.placeWaiters (fun _ k _ => k == noKey) else after
  let ks := (after.waitedPlaces).eraseDups
  (ks.filter (fun k => before.countAt k != 0 && after.countAt k == 0)).foldl (fun s k => s.counterZero k) after

/-- One access's writes performed: lines, then the wakes of counters it took to zero (09 R181, 17 R305, R321). -/
def State.performWrites (s : State) (p : Nat) (ws : List ByteWrite) : State :=
  State.counterWakes s (s.writeLines p ws (touchedLines ws))

end Sys2Proof.Machine
end

