-- ==== Sys2Proof/Machine/Operands.lean ====
section
/-! DEFINITION. The operand forms: what each specifier reads (03 R50-R53, 06 R98), in integer and floating-point types, and
where a destination writes. -/
namespace Sys2Proof.Machine

/-- What a word sees when it issues: who issues, the issuing frontier entry, its active lanes, and the places the warp
belongs to. -/
structure Ctx where
  who : Issuer
  core : Nat
  slot : Nat
  w : Warp
  e : Entry
  /-- lanes of the entry whose guard holds (03 R45) -/
  act : LaneMask
  wgk : Nat
  wg : Workgroup
  lid : Nat
  launch : Launch
  func : Nat
  part : Nat
  /-- the word that issues -/
  word : Word := 0
deriving DecidableEq, Repr

/-- A special operand (03 R51). -/
def special (c : Ctx) (k lane : Nat) : Word :=
  match k with
  | 0 => BitVec.ofNat 64 lane
  | 1 => BitVec.ofNat 64 c.w.num
  | 2 => BitVec.ofNat 64 c.wg.x
  | 3 => BitVec.ofNat 64 c.wg.y
  | 4 => BitVec.ofNat 64 c.wg.z
  | 5 => BitVec.ofNat 64 c.launch.nx
  | 6 => BitVec.ofNat 64 c.launch.ny
  | 7 => BitVec.ofNat 64 c.launch.nz
  | 8 => 64
  | 9 => BitVec.ofNat 64 c.core
  | 10 => BitVec.ofNat 64 (c.core / 64)
  | 11 => BitVec.ofNat 64 c.func
  | 13 => BitVec.allOnes 64
  | 14 => c.w.live
  | _ => 0

/-- The register number of an indexed specifier: xi + o, unsigned, without wrapping (03 R52). -/
def vxReg (w : Warp) (i : BitVec 2) (o : BitVec 6) : Nat := w.readX i.toNat + o.toNat

/-- All 64 bits of an operand (Src64): an immediate is its value sign-extended. -/
def src64 (c : Ctx) (o : Operand) (lane : Nat) : Word :=
  match o with
  | .v n => c.w.readV n.toNat lane
  | .s n => c.w.readS n.toNat
  | .sp k => special c k.toNat lane
  | .vx i o => c.w.readV (vxReg c.w i o) lane
  | .imm k => k.signExtend 64

/-- Src in an integer type: the low w bits, extended (06 R98, 03 R51, R53). -/
def srcInt (c : Ctx) (t : Ty) (o : Operand) (lane : Nat) : Word := narrow t (src64 c o lane)

/-- Src in a floating-point type, as a bit pattern: registers give their low bits; an immediate, and a special operand
but ONES, convert their integer with round to nearest, ALLLANES as an unsigned one (DESIGN CHOICE, log 115); ONES is 1.0 (03 R51, R53). -/
def srcFp (c : Ctx) (t : Ty) (o : Operand) (lane : Nat) : Nat :=
  match o with
  | .imm k => (fpOfInt (fmtOf t) .rn k.toInt).1
  | .sp k =>
    if k = 13 then (fpOfInt (fmtOf t) .rn 1).1 else (fpOfInt (fmtOf t) .rn (special c k.toNat lane).toNat).1
  | o => (src64 c o lane).toNat % 2 ^ (fmtOf t).width

/-- A shift amount: the raw immediate, or bits [7:0] of the register or special operand (06 R110). -/
def shiftAmt (c : Ctx) (o : Operand) (lane : Nat) : Nat :=
  match o with
  | .imm k => k.toInt.toNat
  | o => (src64 c o lane).toNat % 256

/-- The warp with a destination written: a vector register in the active lanes, a scalar register once from lane 0's
value where some lane is active (03 R45, R50, 06 R98). -/
def writeDst (c : Ctx) (w : Warp) (d : Operand) (f : Nat → Word) : Warp :=
  match d with
  | .v n => w.writeV n.toNat c.act f
  | .vx i o => w.writeV (vxReg c.w i o) c.act f
  | .s n => if c.act = 0 then w else w.writeS n.toNat (f 0)
  | _ => w

/-- The register write of a long-latency word's destination. -/
def dstWrite (c : Ctx) (d : Operand) (f : Nat → Word) : List RegWrite :=
  if c.act = 0 then []
  else
    match d with
    | .v n => [.v n.toNat c.act (mkVec f)]
    | .vx i o => [.v (vxReg c.w i o) c.act (mkVec f)]
    | .s n => [.s n.toNat (f 0)]
    | _ => []

/-- The register that a destination names. -/
def dstReg (c : Ctx) (d : Operand) : List Reg :=
  match d with
  | .v n => [.v n.toNat]
  | .vx i o => [.v (vxReg c.w i o)]
  | .s n => [.s n.toNat]
  | _ => []

/-- The lanes that an operation computes: the active lanes, or lane 0 alone on the scalar unit (06 R109). -/
def opLanes (c : Ctx) (d : Operand) : List Nat :=
  match d with
  | .s _ => if c.act = 0 then [] else [0]
  | _ => lanesOf c.act

end Sys2Proof.Machine
end

