-- ==== Sys2Proof/Machine/Ops.lean ====
section
/-! DEFINITION. Shared operations on warps, workgroups and launches: the frontier (02 R33-R34), counters and completions (17
R305), walks that end (12 R236), retirement and barriers (02 R30-R32; 10 R199), taking a trap and returning from it (07
R142-R145), stopping a launch (03 R62), page faults and protection violations (10 R189; 14 R273). -/
namespace Sys2Proof.Machine

/-! ### The frontier -/

/-- The order in which entries issue: higher priority, then lower PC (02 R33). -/
def Entry.before (a b : Entry) : Bool := decide (a.prio.toNat > b.prio.toNat) || (a.prio == b.prio && decide (a.pc.toNat < b.pc.toNat))

/-- An entry put in its place of the issue order. -/
def insertEntry (e : Entry) : List Entry → List Entry
  | [] => [e]
  | x :: r => if e.before x then e :: x :: r else x :: insertEntry e r

/-- An entry added to the frontier: it merges with the entry of the same PC into the union of the lanes with the higher
priority; an entry with no lanes is not created (02 R33). -/
def addEntry (e : Entry) (f : List Entry) : List Entry :=
  if e.lanes = 0 then f
  else
    match f.find? (fun x => x.pc == e.pc) with
    | some x =>
      insertEntry { prio := if x.prio.toNat ≥ e.prio.toNat then x.prio else e.prio, pc := e.pc, lanes := x.lanes ||| e.lanes }
        (f.filter (fun y => y.pc != e.pc))
    | none => insertEntry e f

/-- A frontier of more than 16 entries spills its last: the lowest priority, and of those the highest PC; a free place
refills the first spilled entry, which merges as it comes in (02 R34). Answers the entries moved. -/
def settleFrontier : Nat → List Entry → List Entry → List Entry × List Entry × Nat
  | 0, f, sp => (f, sp, 0)
  | n + 1, f, sp =>
    if f.length > 16 then
      match f.getLast? with
      | some e =>
        let (f2, sp2, k) := settleFrontier n f.dropLast (insertEntry e sp)
        (f2, sp2, k + 1)
      | none => (f, sp, 0)
    else
      match sp with
      | e :: r =>
        if f.length < 16 then
          let (f2, sp2, k) := settleFrontier n (addEntry e f) r
          (f2, sp2, k + 1)
        else (f, sp, 0)
      | [] => (f, sp, 0)

/-- The warp with a frontier put in place: spills and refills cost 20 cycles each and are counted (02 R34, 18 R327). -/
def Warp.setFrontier (w : Warp) (now : Nat) (f : List Entry) : Warp :=
  let (f2, sp, k) := settleFrontier 200 f w.spilled
  let w := { w with frontier := f2, spilled := sp }
  if k = 0 then w else ({ w with sched := { w.sched with gapUntil := max w.sched.gapUntil (now + 1 + 20 * k) } }).count 6 k

/-- The entry `e` replaced by others, which merge as they come (02 R33). -/
def Warp.replaceEntry (w : Warp) (now : Nat) (e : Entry) (news : List Entry) : Warp :=
  w.setFrontier now (news.foldl (fun f x => addEntry x f) (w.frontier.filter (fun x => x != e)))

/-- Sequential advance keeps the priority (02 R33). -/
def Warp.advance (w : Warp) (now : Nat) (e : Entry) : Warp :=
  w.replaceEntry now e [{ e with pc := e.pc + 8 }]

/-! ### Completions -/

/-- A completion's decrement, to be performed by the memory-side unit (17 R305). -/
def State.decrement (s : State) (part func core agent lid : Nat) (va : Word) (status : Nat) (o : Origin) (xyz : Nat × Nat × Nat) : State :=
  { s with decs := s.decs ++
    [{ part := part, func := func, core := core, agent := agent, va := va, status := status, lid := lid, origin := o, xyz := xyz }] }

/-- A completion's decrement where its counter's field names one: address 0 is none. -/
def State.complete (s : State) (part func core agent lid : Nat) (va : Word) (status : Nat) (o : Origin := .other)
    (xyz : Nat × Nat × Nat := (0, 0, 0)) : State :=
  if va = 0 then s else s.decrement part func core agent lid va status o xyz

/-- The decrement of a command that stays in its queue until that is performed (17 R305). -/
def State.closing (s : State) (b : Issued) (core agent : Nat) (va : Word) (status : Nat) : State :=
  { s.decrement b.part b.func core agent b.lid va status (.cmd s.nextCmd) b.xyz with nextCmd := s.nextCmd + 1 }

/-- An engine command or a collective is accepted: the next takes the next place in the order of acceptance (17 R322). -/
def State.accepted (s : State) : State := { s with nextCmd := s.nextCmd + 1 }

/-- The function and partition of a workgroup. -/
def State.wgFunc (s : State) (g : Workgroup) : Nat := (s.launch g.lid).func
def State.wgPart (s : State) (g : Workgroup) : Nat := (s.launch g.lid).part

/-- The part of a fault record that names the place of a warp (15 R280) (DEDUCED, log 65). -/
def recordFor (c : Ctx) (cause : Nat) (word : Word) : FaultRec :=
  match c.who with
  | .warp _ _ =>
    { cause := cause, agent := 0, part := c.part, func := c.func, core := c.core, word := word, pc := c.e.pc
      launch := c.lid % 2 ^ 32, wgx := c.wg.x, wgy := c.wg.y, wgz := c.wg.z, warp := c.w.num }
  | .prologue _ =>
    { cause := cause, agent := 6, part := c.part, func := c.func, word := word, pc := c.e.pc, launch := c.lid % 2 ^ 32 }

/-- The part of a fault record that names an engine command's issuer (14 R273). -/
def recordOf (core agent cause : Nat) (b : Issued) : FaultRec :=
  { cause := cause, agent := agent, part := b.part, func := b.func, core := core, word := b.word, pc := b.pc
    launch := b.lid % 2 ^ 32, wgx := b.xyz.1, wgy := b.xyz.2.1, wgz := b.xyz.2.2, warp := b.warpNum }

/-- The workgroup that an access of a context belongs to. -/
def Ctx.owner (c : Ctx) : Option Nat :=
  match c.who with
  | .warp _ _ => some c.wgk
  | .prologue _ => none

/-! ### Walks that end (12 R231, R236, R244) -/

/-- The walk with an id on a core. -/
def Core.walk (c : Core) (wid : Nat) : Option Walk := c.walks.find? (fun w => w.wid == wid)
def State.modWalk (s : State) (core wid : Nat) (f : Walk → Walk) : State :=
  s.modCore core (fun c => { c with walks := c.walks.map (fun w => if w.wid = wid then f w else w) })

/-- Walks of a workgroup that are not DONE. -/
def State.openWalks (s : State) (core wg : Nat) : List Walk :=
  (s.core core).walks.filter (fun w => w.wg == wg && w.state != .done)

/-- A promoted walk is DONE: the walk that waits for it resumes when it waits for no other and for no halt (12 R238). -/
def Walk.unpromote (w : Walk) (wid : Nat) : Walk :=
  if w.promoted.contains wid then
    let rest := w.promoted.filter (fun j => j != wid)
    { w with promoted := rest, state := if w.state = .suspended ∧ rest = [] ∧ !w.haltPending then .stalled else w.state }
  else w

/-- A walk reaches DONE: its counter is decremented, warps parked on it wake, a walk suspended for it resumes, and walks
of its workgroup that have been DONE for 16 later ones are forgotten (12 R231, R238, R244). -/
def State.walkDone (s : State) (core wid status : Nat) : State :=
  match (s.core core).walk wid with
  | none => s
  | some k =>
    let g := s.wg k.wg
    let s := s.modCore core (fun c => { c with
      walks := (c.walks.map (fun w =>
        if w.wid = wid then { w with state := .done, status := status, multiplying := false }
        else if w.wg = k.wg ∧ w.state = .done then { w with laterDone := w.laterDone + 1 }
        else w.unpromote wid)).filter (fun w => decide (w.laterDone < 16))
      upcalls := c.upcalls.filter (fun u => u.wid != wid)
      consumeDue := c.consumeDue.filter (fun (j, _) => j != wid) })
    let s := s.complete (s.wgPart g) (s.wgFunc g) core 3 g.lid (fieldW k.record 48 8) status (.walk k.wg (some k.serial)) g.xyz
    (s.parkedOn core (fun p => match p with | .walk w => w == wid | _ => false)).foldl (fun s slot => s.wakeWarp core slot) s

def Walk.order (w : Walk) : Nat := field w.record 1 1
def Walk.split (w : Walk) : Nat := field w.record 35 1
def Walk.tag (w : Walk) : Nat := field w.record 38 2
def Walk.peerdev (w : Walk) : Nat := field w.record 40 2
def Walk.peercore (w : Walk) : Nat := field w.record 42 1
def Walk.accrow (w : Walk) : Nat := field w.record 32 2
def Walk.drain (w : Walk) : Nat := field w.record 34 1
def Walk.flags (w : Walk) : Nat := field w.record 56 4
def Walk.stats (w : Walk) : Bool := w.flags / 64 % 2 == 1

/-- The buffers in which a tile stands whose consume has not been raised, given the tiles whose consume waits (12 R236) (DEDUCED, log 90). -/
def Walk.openBuffers (w : Walk) (due : List (Nat × Nat)) : List Nat :=
  [(0, w.buf0), (1, w.buf1)].filterMap (fun (b, x) => match x.state with
    | .idle => none
    | .accumulating => some b
    | .complete => if w.drain = 1 ∨ due.contains (w.wid, x.tile) then some b else none)

/-- A buffer whose values the spec leaves unspecified (12 R236; DESIGN CHOICE, log 4): its rows and columns, with the statistics'. -/
def Workgroup.freeBuffer (w : Walk) (n : Nat) (g : Workgroup) (b : Nat) : Workgroup :=
  let cols := if w.stats then w.tn + 2 else w.tn
  let places := (List.range w.tm).flatMap (fun i => (List.range cols).map (fun j => (w.accrow + b * w.tm + i) * 128 + j))
  { g with acc := places.foldl (fun m k => put 0 m k (Config.freeWord n k)) g.acc }

/-- The engine stops one walk: no further upcalls, those not taken are withdrawn, and the buffers of tiles whose consume was
not raised hold free values; it is ABORTING until every started upcall is complete. A QUEUED walk goes straight to DONE (12
R231, R236). -/
def State.stopWalk (s : State) (core wid status : Nat) : State :=
  match (s.core core).walk wid with
  | none => s
  | some k =>
    match k.state with
    | .done => s
    | .aborting => s
    | .queued => s.walkDone core wid status
    | _ =>
      let bs := k.openBuffers (s.core core).consumeDue
      let s := (s.modWg k.wg (fun g => bs.foldl (Workgroup.freeBuffer k s.freeCtr) g)).nextFree
      let s := s.modCore core (fun c => { c with
        upcalls := c.upcalls.filter (fun u => u.wid != wid || u.team.isSome)
        consumeDue := c.consumeDue.filter (fun (j, _) => j != wid) })
      s.modWalk core wid (fun w => { w with state := .aborting, status := status, multiplying := false })

/-- The walk whose upcall a handler warp runs. -/
def State.handlerWalk (s : State) (core : Nat) (w : Warp) : Option Nat :=
  match w.uparg with
  | some place => ((s.core core).upcalls.find? (fun u => u.place == place)).map Upcall.wid
  | none => none

/-! ### REDM flushes (05 R95; 10 R199) -/

/-- Combine of a REDM operation in its type; partials of .f32 are FP32 and add to nearest (05 R95) (DEDUCED, log 63). -/
def redmCombine (op : RedmOp) (t : Ty) (x y : Nat) : Nat :=
  let ix := intOf t (BitVec.ofNat 64 x)
  let iy := intOf t (BitVec.ofNat 64 y)
  let cut (z : Int) : Nat := (BitVec.ofInt 64 z).toNat % 2 ^ width t
  match op with
  | .add => if t = .f32 then addRne32 x y else cut (ix + iy)
  | .min => if t = .f32 then (fpMinMax fmtF32 false false (unpack fmtF32 x) (unpack fmtF32 y)).1 else cut (min ix iy)
  | .max => if t = .f32 then (fpMinMax fmtF32 false true (unpack fmtF32 x) (unpack fmtF32 y)).1 else cut (max ix iy)
  | .and => Nat.land x y
  | .or => Nat.lor x y
  | .xor => Nat.xor x y

/-- Entries keyed by address and operation, combined in order: the core partial Q (05 R95 step 2), one for each OP, TYPE and SCOPE in
order of first entry (DESIGN CHOICE, log 125). -/
def combineEntries (es : List BufEntry) : List BufEntry :=
  es.foldl (fun acc e =>
    match acc.find? (fun x => x.key == e.key && x.op == e.op && x.ty == e.ty && x.scope == e.scope) with
    | some _ => acc.map (fun x => if x.key == e.key && x.op == e.op && x.ty == e.ty && x.scope == e.scope
        then { x with partial_ := redmCombine x.op x.ty x.partial_ e.partial_ } else x)
    | none => acc ++ [e]) []

/-- A fault of a flush at an entry: cause, flags and address of its record. -/
structure FlushFault where
  cause : Nat
  flags : Nat := 1
  va : Nat
deriving DecidableEq, Repr

/-- Where an entry's update goes: the page held since issue, or a new translation after an INVAL (10 R197, R199). -/
def State.entryPlace (s : State) (p f : Nat) (e : BufEntry) : Except FlushFault (Page × Nat) :=
  if e.stale then
    match s.translateIn p f e.va { write := true } with
    | .ok pg => .ok (pg, e.va - pg.va)
    | .page fl at_ => .error { cause := 8, flags := 1 + fl, va := at_ }
    | .protect => .error { cause := 9, va := e.va }
  else if s.lineExists p e.page (e.key - e.page.place) then .ok (e.page, e.key - e.page.place) else .error { cause := 9, va := e.va }

/-- M ← R(M + Q) at the entry's address, an access of the workgroup `g` from a core's port, whose storage errors have the
record `r`, or the fault (10 R199; 09 R178, R181, R182, R185). -/
def State.applyEntry (s : State) (p f core : Nat) (g : Option Nat) (r : FaultRec) (e : BufEntry) : Except FlushFault State :=
  match s.entryPlace p f e with
  | .error c => .error c
  | .ok (pg, off) =>
    let line := [(pg, off / 64 * 64)]
    let s := ((s.findErrors p g r line).heatLines p core line).reportDropped p r line
    let n := width e.ty / 8
    let old := numLE ((List.range n).map (fun i => s.readByte p pg (off + i)))
    let ws := (bytesLE n (redmCombine e.op e.ty old e.partial_)).zipIdx.map (fun (b, i) => ByteWrite.mk pg (off + i) b)
    match s.firstOverflow p ws (touchedLines ws) with
    | some va => .error { cause := 0x12, va := va }
    | none => .ok (s.performWrites p ws)

/-- `.dev` partials of a core sent to the memory-side unit, which combines a core's successive values in arrival order. -/
def Launch.addDev (l : Launch) (core : Nat) (e : BufEntry) : Launch :=
  match l.devParts.find? (fun d => d.core == core && d.entry.key == e.key && d.entry.op == e.op && d.entry.ty == e.ty) with
  | some _ => { l with devParts := l.devParts.map (fun d =>
      if d.core == core && d.entry.key == e.key && d.entry.op == e.op && d.entry.ty == e.ty
      then { d with entry := { d.entry with partial_ := redmCombine e.op e.ty d.entry.partial_ e.partial_ } } else d) }
  | none => { l with devParts := l.devParts ++ [{ core := core, entry := e }] }

/-- The record of a memory-side unit that flushes for a workgroup (10 R199; 15 R280). -/
def State.flushRecord (s : State) (k : Nat) (f : FlushFault) : FaultRec :=
  let g := s.wg k
  { cause := f.cause, flags := f.flags, agent := 7, part := s.wgPart g, func := s.wgFunc g, va := f.va, launch := g.lid % 2 ^ 32
    wgx := g.x, wgy := g.y, wgz := g.z }

/-- Core partials of workgroup k applied in order until one waits for a REPLAY: answers the state, the entries left and the fault. A
protection violation is reported, and its update not performed (DEDUCED, log 122). -/
def State.flushEntries (s : State) (k core : Nat) : List BufEntry → State × List BufEntry × Option FlushFault
  | [] => (s, [], none)
  | e :: r =>
    let g := s.wg k
    if e.scope = .dev then State.flushEntries (s.modLaunch g.lid (fun l => l.addDev core e)) k core r
    else
      match s.applyEntry (s.wgPart g) (s.wgFunc g) core (some k) (s.flushRecord k { cause := 0x14, va := 0 }) e with
      | .ok s => State.flushEntries s k core r
      | .error f => if f.cause = 9 then State.flushEntries (s.reportProtect (s.flushRecord k f) (some k)) k core r else (s, e :: r, some f)

/-- The buffered entries of a list of slots and of retired members, in ascending scheduler and slot (05 R95 step 2); of one slot those of
retired warps in their order, then the current warp's (DESIGN CHOICE, log 125). -/
def State.gatherEntries (s : State) (core : Nat) (retired : List RetiredEntry) (slots : List Nat) : List BufEntry :=
  let live := slots.map (fun i => (i, (s.warp core i).abuf))
  let dead := retired.map (fun r => (r.sched * 16 + r.slot, [r.entry]))
  let all := (List.range 64).flatMap (fun i => (dead.filter (fun (j, _) => j == i)).flatMap Prod.snd ++
    (live.filter (fun (j, _) => j == i)).flatMap Prod.snd)
  combineEntries all

/-! ### Groups and barriers (02 R29-R30; 07 R137; 15 R283-R284) -/

/-- The group row of a launch; row 0 is LOCAL with every warp (02 R29). -/
def Launch.group (l : Launch) (g : Nat) : GroupRow :=
  if g = 0 then { kind := 1, mask := BitVec.allOnes 16 } else get {} l.groups g

/-- The run of a SPAN row that a workgroup belongs to (15 R284). -/
def GroupRow.run (r : GroupRow) (lin : Nat) : Option Nat :=
  if lin < r.first then none
  else if r.stride = 0 then (if lin - r.first < r.scount then some 0 else none)
  else if (lin - r.first) % r.stride < r.scount then some ((lin - r.first) / r.stride) else none

/-- A warp is a member of group g: it holds g in GRPS (06 R103). -/
def Warp.memberOf (w : Warp) (g : Nat) : Bool := w.grps.contains g

/-- The workgroups whose warps share the instance of group g that workgroup `k` sees. -/
def State.instanceWgs (s : State) (k g : Nat) : List Nat :=
  let x := s.wg k
  let row := (s.launch x.lid).group g
  if row.kind = 2 then
    (s.wgs.filter (fun (_, y) => y.live && y.lid == x.lid && row.run y.lin == row.run x.lin)).map Prod.fst
  else [k]

/-- Current members of the instance: workgroup, core and slot. A handler warp's TEAM row is its own instance. -/
def State.members (s : State) (k g : Nat) : List (Nat × Nat × Nat) :=
  (s.instanceWgs k g).flatMap (fun j =>
    let c := (s.wg j).core
    ((s.wgSlots c j).filter (fun i => (s.warp c i).memberOf g)).map (fun i => (j, c, i)))

def State.hasArrived (s : State) (j g slot : Nat) : Bool := (get 0 (s.wg j).arrived g).getLsbD slot

/-- A saved workgroup lies in the instance of a SPAN group (15 R284). -/
def State.savedIn (s : State) (k g : Nat) (v : SavedWg) : Bool :=
  let x := s.wg k
  let row := (s.launch x.lid).group g
  row.kind == 2 && v.wg.lid == x.lid && row.run v.wg.lin == row.run x.lin

/-- The saved workgroups of the instance. -/
def State.savedMates (s : State) (k g : Nat) : List SavedWg :=
  (s.func (s.launch (s.wg k).lid).func).ctx.saved.filter (fun v => s.savedIn k g v)

/-- Some member of the instance is saved and has not arrived, or the barrier flushes and a member is saved (02 R30; 14 R264). -/
def State.memberSaved (s : State) (k g : Nat) : Bool :=
  let flush := (s.instanceWgs k g).any (fun j => get false (s.wg j).flushing g)
  (s.savedMates k g).any (fun (v : SavedWg) =>
    v.warps.any (fun (i, w) => w.memberOf g && (flush || get false v.wg.flushing g || !(get 0 v.wg.arrived g).getLsbD i)))

/-- A saved workgroup whose barrier on group g is complete: its mask clears and its members are woken. -/
def SavedWg.completeBarrier (v : SavedWg) (g : Nat) : SavedWg :=
  { v with wg := { v.wg with arrived := put 0 v.wg.arrived g 0 }
           warps := v.warps.map (fun (i, w) => (i, w.wakeSaved (fun p => p == .barrier g))) }

/-- Every current member has arrived, and someone has (02 R30). -/
def State.barrierFull (s : State) (k g : Nat) : Bool :=
  let ms := s.members k g
  ms.all (fun (j, _, i) => s.hasArrived j g i) && (s.instanceWgs k g).any (fun j => get 0 (s.wg j).arrived g != 0) &&
    !(s.memberSaved k g)

/-- Some member of a workgroup's warps has arrived and the barrier is not complete (14 R264). -/
def State.partlyArrived (s : State) (k : Nat) : Bool := (s.wg k).arrived.any (fun (_, m) => m != 0)

/-- The flush of a barrier to which a FLUSHA contributed (10 R199): one core after another in ascending number
(DESIGN CHOICE, log 125), each with the entries of all member warps on it, current or retired. Answers whether it is done; a fault
pauses it with the rest of the entries put back on a workgroup of that core. -/
def State.flushBarrier (s : State) (k g : Nat) : State × Bool :=
  let wgs := s.instanceWgs k g
  let cores := s.coreNums.filter (fun c => wgs.any (fun j => (s.wg j).core == c))
  cores.foldl (fun (s, ok) core =>
    if !ok then (s, false)
    else
      let here := wgs.filter (fun j => (s.wg j).core == core)
      let j := here.headD k
      let slots := ((s.members k g).filter (fun (_, c, _) => c == core)).map (fun (_, _, i) => i)
      let retired := here.flatMap (fun j => (s.wg j).retiredBuf.filter (fun r => r.grps.contains g))
      let es := s.gatherEntries core retired slots
      let s := slots.foldl (fun s i => s.modWarp core i (fun w => { w with abuf := [] })) s
      let s := here.foldl (fun s j => s.modWg j (fun y => { y with retiredBuf := y.retiredBuf.filter (fun r => !r.grps.contains g) })) s
      let (s, left, fault) := s.flushEntries j core es
      match fault with
      | some f =>
        let s := s.reportPage (s.flushRecord j f) (some j)
        let s := s.modWg j (fun y => { y with
          retiredBuf := y.retiredBuf ++ left.map (fun e => { sched := 0, slot := 0, grps := [g], entry := e })
          flushWait := some (some g, f.va) })
        (s, false)
      | none => (s, true)) (s, true)

/-- A complete barrier: the flush where one is due, then the masks clear and all members wake together (02 R26, R30). -/
def State.completeBarrier (s : State) (k g : Nat) : State :=
  if s.barrierFull k g then
    let wgs := s.instanceWgs k g
    let flush := wgs.any (fun j => get false (s.wg j).flushing g)
    let ms := s.members k g
    let (s, ok) := if flush then s.flushBarrier k g else (s, true)
    if ok then
      let s := s.modFunc (s.launch (s.wg k).lid).func (fun f => { f with ctx := { f.ctx with saved := f.ctx.saved.map (fun (v : SavedWg) =>
        if s.savedIn k g v then v.completeBarrier g else v) } })
      let s := wgs.foldl (fun s j => s.modWg j (fun x => { x with
        arrived := put 0 x.arrived g 0, flushing := put false x.flushing g false
        flushWait := if x.flushWait.map Prod.fst = some (some g) then none else x.flushWait })) s
      ms.foldl (fun s (_, c, i) =>
        if (s.warp c i).parkOn = some (.barrier g) then s.wakeWarp c i else s) s
    else s
  else s

/-- An arrival at group g: recorded once (02 R30). -/
def State.arrive (s : State) (k g slot : Nat) (flush : Bool) : State :=
  s.modWg k (fun x => { x with
    arrived := put 0 x.arrived g (get 0 x.arrived g ||| BitVec.ofNat 64 (2 ^ slot))
    flushing := if flush then put false x.flushing g true else x.flushing })

/-! ### Retirement (02 R24, R30, R32) -/

/-- A slice of a bound collective starts (17 R315) (DEDUCED, log 79). -/
def State.startSlice (s : State) (g : Workgroup) : State :=
  let l := s.launch g.lid
  match l.coll with
  | none => s
  | some d =>
    s.accepted.modPart l.part (fun p => { p with colls := p.colls ++
      [{ by_ := { slot := 0, wg := 0, xyz := g.xyz, serial := s.nextCmd, func := l.func, part := l.part, lid := g.lid, warpNum := 0xFF, pc := 0, word := 0 }
         core := 0xFFFF, desc := d, slice := some g.lin, nwg := l.nx * l.ny * l.nz
         shared := l.collSeq, status := if field l.record 72 8 % 64 = 0 then 0 else 1 }] })

/-- The workgroup releases its allocation: handler warps retire, its mass registers are free, the launch counts it, a
KINDS bit still set marks the launch with STORAGE (09 R185), and its slice of a bound collective starts (02 R32). -/
def State.releaseWg (s : State) (k : Nat) : State :=
  let g := s.wg k
  let s := (s.wgSlots g.core k).foldl (fun s i => s.setWarp g.core i noWarp) s
  let s := s.modCore g.core (fun c => { c with
    walks := c.walks.filter (fun w => w.wg != k)
    scheds := c.scheds.map (fun (i, x) => (i, match x.issuing with
      | some slot => if (get noWarp c.warps slot).state = .retired then { x with issuing := none } else x
      | none => x)) })
  let s := s.dropWg k
  let s := s.modLaunch g.lid (fun l => { l with retired := l.retired + 1, storage := l.storage || decide (g.err.kinds ≠ 0) })
  s.startSlice g

/-- Spawned tasks that wait on a counter, of a workgroup whose last work warp retires, are discarded with CANCEL (13 R249). -/
def State.discardTasks (s : State) (k : Nat) : State :=
  let g := s.wg k
  let l := s.launch g.lid
  let waits (t : SpawnTask) : Bool := (s.part l.part).waitingTasks.any (fun x => x.wg == k && x.id == t.id)
  let s := (g.tasks.filter waits).foldl (fun s t =>
    s.complete l.part l.func g.core 8 g.lid (fieldW t.record 24 8) 0x40 .other g.xyz) s
  let s := s.modPart l.part (fun p => { p with waitingTasks := p.waitingTasks.filter (fun t => t.wg != k) })
  s.modWg k (fun x => { x with tasks := x.tasks.filter (fun t => !waits t) })

/-- The buffered entries of a workgroup's warps, retired ones too, are taken out (10 R199). -/
def State.takeBuffers (s : State) (core k : Nat) : State :=
  let s := (s.wgSlots core k).foldl (fun s i => s.modWarp core i (fun w => { w with abuf := [] })) s
  s.modWg k (fun x => { x with retiredBuf := [] })

/-- Every walk of a workgroup is complete: DONE, with its decrement performed (02 R32; 17 R305). -/
def State.walksComplete (s : State) (core k : Nat) : Bool := (s.openWalks core k).isEmpty && s.decs.all (fun d => match d.origin with
    | .walk j _ => j != k
    | _ => true)

/-- The REDM entries that remain in a workgroup, those of its handler warps among them, are flushed (10 R199), and the
allocation is released at once or, while walks are in flight, when the last is complete (02 R32). -/
def State.finishWg (s : State) (k : Nat) : State :=
  let g := s.wg k
  let es := s.gatherEntries g.core g.retiredBuf (s.wgSlots g.core k)
  let (s, left, fault) := (s.takeBuffers g.core k).flushEntries k g.core es
  match fault with
  | some f =>
    let s := s.reportPage (s.flushRecord k f) (some k)
    s.modWg k (fun x => { x with
      retiredBuf := left.map (fun e => { sched := 0, slot := 0, grps := [], entry := e }), flushWait := some (none, f.va) })
  | none =>
    let s := s.modWg k (fun x => { x with flushWait := none })
    if s.walksComplete g.core k then s.releaseWg k
    else s.modWg k (fun x => { x with draining := true })

/-- A workgroup has no work warp left: spawned tasks that wait on a counter are discarded; those that are ready still run as work
warps of it, and it goes on for them (13 R249; DEDUCED, log 99); without one it finishes. -/
def State.retireWg (s : State) (k : Nat) : State :=
  let s := s.discardTasks k
  if (s.wg k).tasks = [] then s.finishWg k else s

/-- A draining workgroup whose last walk is complete releases its allocation (02 R32), REDM entries that its handlers have made
meanwhile being flushed first (DEDUCED, log 91). -/
def State.settleDrain (s : State) (k : Nat) : State :=
  if (s.wg k).draining ∧ s.walksComplete (s.wg k).core k then s.retireWg k else s

/-- The work warps of a workgroup that have not retired. -/
def State.workWarps (s : State) (core k : Nat) : List Nat :=
  (s.wgSlots core k).filter (fun i => !(s.warp core i).handler)

/-- What a word in flight of a retiring warp still does: an AWIN sets the window (02 R24; 12 R245). -/
def Workgroup.endFlight (g : Workgroup) (f : Flight) : Workgroup :=
  match f.late with
  | .window x y => { g with awbase := x, awlimit := y }
  | _ => g

/-- The last work warp of a spawned task has retired: the task ends with status 0 (13 R249). -/
def State.endTask (s : State) (core k t : Nat) : State :=
  if (s.wgSlots core k).any (fun i => (s.warp core i).task == some t) then s
  else
    let g := s.wg k
    let l := s.launch g.lid
    let s := match g.tasks.find? (fun x => x.id == t) with
      | some x => s.complete l.part l.func core 8 g.lid (fieldW x.record 24 8) 0 .other g.xyz
      | none => s
    s.modWg k (fun x => { x with tasks := x.tasks.filter (fun y => y.id != t) })

/-- The slot of a warp that has finished is free; its words in flight complete; its entries await the flush; its retirement can complete a barrier,
end its spawned task, and retire the workgroup (02 R24, R30, R32; 13 R249). -/
def State.retireWarp (s : State) (core slot : Nat) : State :=
  let w := s.warp core slot
  let k := w.wg
  let s := s.leaveIssue core slot .retired
  let s := s.setWarp core slot noWarp
  let s := s.modCore core (fun c => { c with walks := c.walks.map (fun x => if x.slot = slot ∧ x.wg = k then { x with slot := 64 } else x) })
  let s := s.modWg k (fun g => w.flights.foldl Workgroup.endFlight g)
  let s := s.modWg k (fun g => { g with
    retiredBuf := g.retiredBuf ++ w.abuf.map (fun e => { sched := slot / 16, slot := slot % 16, grps := w.grps, entry := e }) })
  let s := s.modWg k (fun g => { g with arrived := g.arrived.map (fun (i, m) => (i, m &&& ~~~(BitVec.ofNat 64 (2 ^ slot)))) })
  let s := w.grps.foldl (fun s g => s.completeBarrier k g) s
  let s := match w.task with
    | none => s
    | some t => s.endTask core k t
  if (s.workWarps core k).isEmpty && !w.handler then s.retireWg k else s

/-! ### Split owners that end (12 R233, R236) -/

def Walk.over (w : Walk) : Bool := w.state == .done || w.state == .aborting

/-- A block of an ATTN walk has begun and some of its substeps are to come (12 R241). -/
def Walk.inBlock (w : Walk) : Bool := !w.multiplying && decide (w.finished < w.begun)

/-- A sender names this owner: the tag, on the core where the owner was submitted, which its id keeps. -/
def Walk.sendsTo (x w : Walk) : Bool :=
  x.drain == 1 && x.peerdev == 0xFFFF && x.peercore == w.wid % 256 && x.tag == w.tag && w.order == 4 && w.split == 0

/-- A sender has a drain that is not accepted. -/
def Walk.drainDue (x : Walk) : Bool := x.drain == 1 && !x.over && decide (x.tilesDone > x.drainsAccepted)

/-- The core belongs to the partition. -/
def Partition.owns (p : Partition) (c : Nat) : Bool := (get 0 p.cores (c / 64)).getLsbD (c % 64)

/-- Walks of a partition's cores that send drains to the owner and are not over. -/
def State.senders (s : State) (p : Nat) (w : Walk) : List (Nat × Walk) :=
  s.cores.flatMap (fun (c, k) => if (s.part p).owns c then (k.walks.filter (fun x => x.sendsTo w && !x.over)).map (fun x => (c, x)) else [])

/-- Walks of a saved workgroup abort with PEER: they are restored so. -/
def SavedWg.abortWalks (v : SavedWg) (n : Nat) (xs : List Walk) : SavedWg :=
  let mine (wid : Nat) : Bool := xs.any (fun x => x.wid == wid)
  { v with
    wg := xs.foldl (fun g x => (x.openBuffers v.consumeDue).foldl (Workgroup.freeBuffer x n) g) v.wg
    walks := v.walks.map (fun x => if mine x.wid then { x with state := .aborting, status := 0x41, multiplying := false } else x)
    upcalls := v.upcalls.filter (fun u => u.team.isSome || !mine u.wid)
    consumeDue := v.consumeDue.filter (fun (j, _) => !mine j) }

/-- The senders to a split owner in a saved workgroup that are not over. -/
def SavedWg.senders (v : SavedWg) (w : Walk) (sel : Walk → Bool) : List Walk := v.walks.filter (fun x => x.sendsTo w && !x.over && sel x)

/-- Senders to a split owner abort with PEER, of the partition's cores and of its saved workgroups (12 R233, R236); a draining
workgroup whose last walk ends so releases its allocation by the WALK_DONE of that walk. -/
def State.abortSenders (s : State) (p : Nat) (w : Walk) (sel : Walk → Bool) : State :=
  let s := ((s.senders p w).filter (fun (_, x) => sel x)).foldl (fun s (c, x) => s.stopWalk c x.wid 0x41) s
  if s.funcs.any (fun (_, x) => x.part == p && x.ctx.saved.any (fun v => v.senders w sel != [])) then
    State.nextFree { s with funcs := s.funcs.map (fun ((f, x) : Nat × Func) => (f, if x.part = p then
      { x with ctx := { x.ctx with saved := x.ctx.saved.map (fun v => v.abortWalks s.freeCtr (v.senders w sel)) } } else x)) }
  else s

/-- A walk aborts (12 R236): a split owner's pending drains abort their senders; if it is cancelled, or is DONE at once,
every sender to it aborts (12 R233). -/
def State.abortWalk (s : State) (core wid status : Nat) : State :=
  match (s.core core).walk wid with
  | none => s
  | some w =>
    if w.over then s
    else (s.stopWalk core wid status).abortSenders (s.wgPart (s.wg w.wg)) w (fun x => status == 0x40 || w.state == .queued || x.drainDue)

/-! ### Stopping a launch (03 R62) -/

/-- The launch is over, and its record leaves the launch storage (13 R252, R254). -/
def State.removeLaunch (s : State) (lid : Nat) : State :=
  (s.modPart (s.launch lid).part (fun p => { p with queue := p.queue.filter (fun i => i != lid) })).setLaunch lid noLaunch

/-- A launch ends before its bound collective: the collective's DONE is decremented with the launch's status, and slices that have
not started fail as they start (DESIGN CHOICE, log 102). -/
def State.endBound (s : State) (lid status : Nat) : State :=
  let l := s.launch lid
  match l.coll with
  | none => s
  | some d =>
    (s.modPart l.part (fun p => { p with colls := p.colls.map (fun c =>
      if c.slice.isSome && c.by_.lid == lid && c.state == .queued then { c with status := status } else c) })).complete
        l.part l.func 0xFFFF 4 lid (fieldW d 40 8) status

/-- The launch is COMPLETE, and no longer queued if it was: its DONE counter is decremented with a status, and its record leaves the
launch storage when that is performed (13 R252; 17 R305) (DEDUCED, log 66). Partials at the memory-side unit that no emission's end has applied are dropped (DESIGN
CHOICE, log 103). -/
def State.endLaunch (s : State) (lid status : Nat) : State :=
  let l := s.launch lid
  if !l.open_ then s
  else
    let s := s.endBound lid status
    let s := s.modPart l.part (fun p => { p with
      queue := p.queue.filter (fun i => i != lid)
      prologue := match p.prologue with
        | some r => if r.lid = lid then none else some r
        | none => none })
    let va := fieldW l.record 24 8
    if va = 0 then s.removeLaunch lid
    else
      (s.complete l.part l.func 0xFFFF 8 lid va status .launch).setLaunch lid
        { l with state := .complete, status := status, heldPage := none, rotated := [], pwarp := none, devParts := [], coll := none }

/-- Every walk of a workgroup ends at once with a status: walks that send drains to it abort, but for those of the
workgroups `ending` with it (03 R62 step 3; 12 R233, R236). -/
def State.endWalks (s : State) (core k : Nat) (ending : Nat → Bool) (status : Nat → Nat) : State :=
  (s.openWalks core k).foldl (fun s w =>
    (s.walkDone core w.wid (status w.wid)).abortSenders (s.wgPart (s.wg k)) w (fun x => !ending x.wg)) s

/-- The workgroups of a launch, and of the launches of a function, by key. -/
def inLaunch (lid k : Nat) : Bool := k / 2 ^ 32 == lid
def State.inFunc (s : State) (f k : Nat) : Bool := (s.launch (k / 2 ^ 32)).func == f

/-- Steps 2, 3 and 5 of R62 for the resident workgroups of a launch (DEDUCED, log 55). -/
def State.stopWgs (s : State) (lid : Nat) (bad : Option Nat) : State :=
  let ks := (s.wgs.filter (fun (_, g) => g.live && g.lid == lid)).map Prod.fst
  ks.foldl (fun s k =>
    let g := s.wg k
    let l := s.launch lid
    let s := s.endWalks g.core k (inLaunch lid) (fun j => if bad = some j then 0x0F else 0x40)
    let s := g.tasks.foldl (fun s t => s.complete l.part l.func g.core 8 lid (fieldW t.record 24 8) 0x40 .other g.xyz) s
    let s := s.modPart l.part (fun p => { p with waitingTasks := p.waitingTasks.filter (fun t => t.wg != k) })
    let s := s.modCore g.core (fun c => { c with
      ready := c.ready.filter (fun t => match t.task with | .spawned j _ => j != k | .workgroup j _ => j != lid)
      massQ := c.massQ.filter (fun o => (get noWarp c.warps o.slot).wg != k)
      walks := c.walks.filter (fun w => w.wg != k) })
    let s := (s.wgSlots g.core k).foldl (fun s i => (s.leaveIssue g.core i .retired).setWarp g.core i noWarp) s
    s.dropWg k) s

/-- The walks of a saved workgroup end with a status, and walks that send drains to them abort, but for those that end with them. -/
def State.endSavedWalks (s : State) (v : SavedWg) (ending : Nat → Bool) (status : Nat) : State :=
  let l := s.launch v.wg.lid
  v.walks.foldl (fun s w => if w.state = .done then s
    else (s.complete l.part l.func v.wg.core 3 v.wg.lid (fieldW w.record 48 8) status (.walk v.key (some w.serial)) v.wg.xyz).abortSenders l.part w (fun x => !ending x.wg)) s

/-- Saved workgroups and waiting tasks of a stopped launch are discarded with it. -/
def State.stopSaved (s : State) (lid : Nat) : State :=
  let l := s.launch lid
  let s := (s.func l.func).ctx.saved.foldl (fun s (v : SavedWg) =>
    if v.wg.lid = lid then
      let s := s.endSavedWalks v (inLaunch lid) 0x40
      v.wg.tasks.foldl (fun s t => s.complete l.part l.func v.wg.core 8 lid (fieldW t.record 24 8) 0x40 .other v.wg.xyz) s
    else s) s
  let s := s.modFunc l.func (fun f => { f with ctx := { f.ctx with saved := f.ctx.saved.filter (fun v => v.wg.lid != lid) } })
  s.coreNums.foldl (fun s c => s.modCore c (fun k => { k with
    ready := k.ready.filter (fun t => match t.task with | .workgroup j _ => j != lid | _ => true) })) s

/-- A launch stops (03 R62): warps, walks and spawned tasks, the fault record, the completion with the cause. -/
def State.stopLaunch (s : State) (lid cause : Nat) (bad : Option Nat) (r : FaultRec) : State :=
  let s := s.stopWgs lid bad
  let s := s.stopSaved lid
  let s := s.report r
  s.endLaunch lid cause

/-- The launch of an issuing word stops with a cause; a prologue ends with it (03 R62, R63; 13 R255). -/
def stopAt (c : Ctx) (s : State) (cause : Nat) (word : Word) (info : Word) (va : Nat) (flags : Nat := 0) : State :=
  let bad := match c.who with
    | .warp core _ => s.handlerWalk core c.w
    | .prologue _ => none
  s.stopLaunch c.lid cause bad { (recordFor c cause word) with info := info, va := va, flags := flags }

/-! ### Traps (07 R142-R145) -/

/-- Taking a trap at a word of entry E: with INTRAP set or no vector the launch stops with the cause; otherwise TRAPPC,
TRAPCAUSE, TRAPLANES and TRAPINFO are written, the whole frontier is saved with E at the word, one entry of priority 255 at
TRAPVEC holds E's lanes, INTRAP is set and the open windows close (07 R142). No fault of a prologue is delivered (13
R255). -/
def takeTrap (c : Ctx) (s : State) (cause : Nat) (lanes : LaneMask) (info : Word) (word : Word) : State :=
  let w := s.issuerWarp c.who
  match c.who with
  | .prologue _ => stopAt c s cause word info 0
  | .warp _ _ =>
    if w.trap.intrap ∨ w.trap.vec = 0 then stopAt c s cause word info 0
    else
      s.setIssuerWarp c.who { w with
        trap := { w.trap with pc := c.e.pc, cause := cause, lanes := lanes, info := info, intrap := true
                              saved := some { frontier := w.frontier, spilled := w.spilled, e := c.e } }
        frontier := [{ prio := 255, pc := w.trap.vec, lanes := c.e.lanes }]
        spilled := []
        windows := [] }

/-- Returning from a trap (07 R145): the saved frontier comes back with E at TRAPPC, or at the word after it, entries
merge, INTRAP clears. -/
def returnTrap (w : Warp) (now : Nat) (skip : Bool) : Warp :=
  match w.trap.saved with
  | none => w
  | some t =>
    let pc := if skip then w.trap.pc + 8 else w.trap.pc
    let w := { w with trap := { w.trap with intrap := false, saved := none }, spilled := t.spilled, frontier := t.frontier }
    w.replaceEntry now t.e [{ t.e with pc := pc }]

/-! ### Faults of an access (10 R189; 14 R273) -/

/-- The warp is FROZEN with its state kept, and a PROTECT record is written (14 R273); a prologue stops its launch with
PROTECT (13 R255). -/
def freezeAt (c : Ctx) (s : State) (word : Word) (va : Nat) (flags : Nat) : State :=
  match c.who with
  | .prologue _ => stopAt c s 9 word 0 va flags
  | .warp core slot =>
    let s := s.leaveIssue core slot (.frozen .ready)
    s.reportProtect { (recordFor c 9 word) with va := va, flags := flags } c.owner

/-- The warp, or the prologue, parks on page-fault replay, and the fault is reported or joins an open record (10 R189,
15 R280). A prologue has no park state of its own: it waits by its open record (13 R255). -/
def parkFault (c : Ctx) (s : State) (cause : Nat) (word : Word) (va : Nat) (flags : Nat) : State :=
  let s := s.modIssuer c.who (fun w => w.count 8 1)
  let s := match c.who with
    | .warp core slot => s.parkWarp core slot (.replay (faultPage va))
    | .prologue _ => s.modIssuer c.who (fun w => { w with state := .parked (.replay (faultPage va)) })
  s.reportPage { (recordFor c cause word) with va := faultPage va, flags := flags } c.owner

end Sys2Proof.Machine
end

