-- ==== Sys2Proof/Machine/Fields.lean ====
section
/-! DEFINITION. What a word's fields name: its header, its latency class (03 R60), the registers it touches in the order of
03 R58, the v specifiers it checks in the order of 03 R52, and the words a prologue accepts (03 R63). -/
namespace Sys2Proof.Machine

/-- One register field of a word. -/
inductive Fld where
  /-- an operand specifier -/
  | op (o : Operand)
  /-- the register after a data specifier, of a 128-bit access (10 R187) -/
  | second (o : Operand)
  /-- the k registers from v number n (07 R126) -/
  | range (n k : Nat)
  /-- a register named otherwise -/
  | reg (r : Reg)
deriving DecidableEq, Repr

/-- The register that a specifier names, if any. -/
def operandRegs (w : Warp) : Operand → List Reg
  | .v n => [.v n.toNat]
  | .s n => [.s n.toNat]
  | .vx i o => [.v (vxReg w i o)]
  | _ => []

/-- The register after the one that a data specifier names. -/
def operandNext (w : Warp) : Operand → List Reg
  | .v n => [.v (n.toNat + 1)]
  | .s n => [.s (n.toNat + 1)]
  | .vx i o => [.v (vxReg w i o + 1)]
  | _ => []

def Fld.regs (w : Warp) : Fld → List Reg
  | .op o => operandRegs w o
  | .second o => operandNext w o
  | .range n k => (List.range k).map (fun i => .v (n + i))
  | .reg r => [r]

/-- The index register that a field's specifier uses. -/
def Fld.idx : Fld → List Reg
  | .op (.vx i _) => [.x i.toNat]
  | _ => []

/-- The header of a word; a pair has no lookahead and no guard of its own. -/
def hdrOf : Instr → Hdr
  | .nop h | .bra h _ _ _ _ | .brx h _ _ _ | .call h _ _ _ _ | .ret h _ _ _ | .exit h | .parkCtr h _ | .parkWalk h _
  | .yield h | .bar h _ | .trap h _ | .tretRetry h | .tretSkip h | .bkpt h _ | .csrr h _ _ | .csrw h _ _ | .shape h _ _
  | .iadd h _ _ _ _ | .isub h _ _ _ _ | .imul h _ _ _ _ | .imulh h _ _ _ _ | .imad h _ _ _ _ _ | .ineg h _ _ _
  | .iabs h _ _ _ | .imin h _ _ _ _ | .imax h _ _ _ _ | .iadds h _ _ _ _ | .isubs h _ _ _ _ | .and h _ _ _ _
  | .or h _ _ _ _ | .xor h _ _ _ _ | .not h _ _ _ | .andn h _ _ _ _ | .shl h _ _ _ _ | .shr h _ _ _ _ | .sar h _ _ _ _
  | .rot h _ _ _ _ | .bfe h _ _ _ _ | .bfi h _ _ _ _ _ | .popc h _ _ _ | .clz h _ _ _ | .ctz h _ _ _ | .brev h _ _ _
  | .icmp h _ _ _ _ _ | .sel h _ _ _ _ _ | .mov h _ _ _ | .movi h _ _ _ | .lea h _ _ _ _ _
  | .fadd h _ _ _ _ _ _ | .fsub h _ _ _ _ _ _ | .fmul h _ _ _ _ _ _ | .fmac h _ _ _ _ _ _ _ | .fmin h _ _ _ _
  | .fmax h _ _ _ _ | .fabs h _ _ _ | .fneg h _ _ _ | .fcmp h _ _ _ _ _ | .fclass h _ _ _ | .frnd h _ _ _ _
  | .fdiv h _ _ _ _ _ | .fsqrt h _ _ _ _ | .frcp h _ _ _ | .frsq h _ _ _ | .fexp2 h _ _ _ | .flog2 h _ _ _ | .fsin h _ _ _
  | .fcos h _ _ _ | .ftanh h _ _ _ | .hadd2 h _ _ _ _ _ _ | .hmul2 h _ _ _ _ _ _ | .hmac2 h _ _ _ _ _ _ _
  | .cvt h _ _ _ _ _ _ | .cvtn h _ _ _ _ | .cvtw h _ _ _ _ _ | .qres h _ _ _ _
  | .shfl h _ _ _ _ | .shflx h _ _ _ | .bcast h _ _ _ | .perm h _ _ _ | .vote h _ _ | .red h _ _ _ _ _ _ _
  | .redStep h _ _ _ _ _ _ _ | .scan h _ _ _ _ _ _ _ _ | .zip2 h _ _ | .zip3 h _ _ | .zip4 h _ _ | .unzip2 h _ _
  | .unzip3 h _ _ | .unzip4 h _ _
  | .ld h _ _ _ _ _ _ | .st h _ _ _ _ _ _ | .ldh h _ _ _ _ _ | .sth h _ _ _ _ _ | .atom h _ _ _ _ _ _ _
  | .cas h _ _ _ _ _ _ _ | .redm h _ _ _ _ _ | .flusha h _ | .fence h _ _ _ | .afence h | .pref h _ _ _ _ | .copy h _ _
  | .nset h _ _ _ | .nget h _ _ _ | .nrst h _ | .tsweep h _ _ _ _ _
  | .mtcfg h _ _ _ | .mtlink h _ _ _ | .mtclr h _ _ | .mtload h _ _ _ _ | .mtset h _ _ _ _ | .mtadd h _ _ _ _ _
  | .mtget h _ _ _ _ | .mtpfx h _ _ _ _ | .mtfind h _ _ _ _ | .mttot h _ _ _ | .mtcutIdx h _ _ _ _ | .mtcutMass h _ _ _ _
  | .walk h _ _ _ | .wreg h _ _ _ _ | .wstat h _ _ _ | .wcancel h _ | .mfence h | .harg h _ _ | .hret h | .hretAbort h
  | .awin h _ _ | .kvx h _ _ _ _ | .kvseal h _ | .kvfree h _ _ | .tspawn h _ _ | .tdec h _ _ _ | .launch h _ _
  | .pemit h _ _ | .pcancel h | .prepeat h _ _ | .coll h _ | .dreg h _ _ _ | .dunreg h _ | .dgrd h _ _ _ | .pmcfg h _ _
  | .pmrd h _ _ => h
  | .pairWord gap gw _ _ => { la := 0, gap := gap, gw := gw, guard := 0, gn := false }
  | _ => { la := 0, gap := 0, gw := false, guard := 0, gn := false }

/-- The data fields of an FM word and its base register. -/
def fmFlds (w : Width) (base : BitVec 6) (d : Operand) : List Fld :=
  (if w = .w128 then [.op d, .second d] else [.op d]) ++ [.op (.s base)]

/-- The register fields in the order dst, a, b, C (03 R52, R58). -/
def fldsOf : Instr → List Fld
  | .brx _ a _ _ | .ret _ a _ _ => [.op a]
  | .parkCtr _ a | .parkWalk _ a => [.op (.s a)]
  | .csrr _ d _ => [.op d]
  | .csrw _ _ a => [.op a]
  | .shape _ a b => [.op a, .op b]
  | .iadd _ _ d a b | .isub _ _ d a b | .imul _ _ d a b | .imulh _ _ d a b | .imin _ _ d a b | .imax _ _ d a b
  | .iadds _ _ d a b | .isubs _ _ d a b | .and _ _ d a b | .or _ _ d a b | .xor _ _ d a b | .andn _ _ d a b
  | .shl _ _ d a b | .shr _ _ d a b | .sar _ _ d a b | .rot _ _ d a b | .bfe _ _ d a b | .lea _ _ d a b _
  | .fadd _ _ _ _ d a b | .fsub _ _ _ _ d a b | .fmul _ _ _ _ d a b | .fmin _ _ d a b | .fmax _ _ d a b
  | .fdiv _ _ _ d a b | .hadd2 _ _ _ _ d a b | .hmul2 _ _ _ _ d a b => [.op d, .op a, .op b]
  | .imad _ _ d a b z | .bfi _ _ d a b z | .sel _ _ d a b z => [.op d, .op a, .op b, .op (.v z)]
  | .fmac _ _ _ _ d a b z | .hmac2 _ _ _ _ d a b z => [.op d, .op a, .op b, .op (.v z)]
  | .ineg _ _ d a | .iabs _ _ d a | .not _ _ d a | .popc _ _ d a | .clz _ _ d a | .ctz _ _ d a | .brev _ _ d a
  | .fabs _ _ d a | .fneg _ _ d a | .fclass _ _ d a | .frnd _ _ _ d a | .fsqrt _ _ _ d a | .frcp _ _ d a | .frsq _ _ d a
  | .fexp2 _ _ d a | .flog2 _ _ d a | .fsin _ _ d a | .fcos _ _ d a | .ftanh _ _ d a | .cvt _ _ _ _ _ d a
  | .cvtw _ _ _ _ d a => [.op d, .op a]
  | .icmp _ _ p _ a b | .fcmp _ _ p _ a b => [.reg (.p p.toNat), .op a, .op b]
  | .mov _ _ d a =>
    [match d with | .reg d => .op d | .pred k => .reg (.p k.toNat) | .idx i => .reg (.x i.toNat),
     match a with | .op a => .op a | .pred k => .reg (.p k.toNat)]
  | .movi _ _ d _ => [.op d]
  | .cvtn _ _ b d a => [.op d, .op a] ++ (match b with | some b => [.op b] | none => [])
  | .qres _ _ d a rho => [.op d, .op a, .op (.v rho)]
  | .shfl _ _ off d a => [.op d, .op a] ++ (match off with | .abs b => [.op b] | _ => [])
  | .shflx _ d a b | .perm _ d a b => [.op d, .op a, .op b]
  | .bcast _ pick d a => [.op d, .op a] ++ (match pick with | .lane b => [.op b] | .first => [])
  | .vote _ d p =>
    [match d with | .mask d | .count d | .first d => .op d | .some q | .every q | .same q => .reg (.p q.toNat), .reg (.p p.toNat)]
  | .red _ _ _ _ _ _ d a | .redStep _ _ _ _ _ _ d a | .scan _ _ _ _ _ _ _ d a => [.op d, .op a]
  | .zip2 _ d a | .unzip2 _ d a => [.range d.toNat 2, .range a.toNat 2]
  | .zip3 _ d a | .unzip3 _ d a => [.range d.toNat 3, .range a.toNat 3]
  | .zip4 _ d a | .unzip4 _ d a => [.range d.toNat 4, .range a.toNat 4]
  | .ld _ _ _ w base _ d | .st _ _ _ w base _ d => fmFlds w base d
  | .ldh _ _ w base _ d | .sth _ _ w base _ d => fmFlds w base d
  | .pref _ w base _ d => fmFlds w base d
  | .atom _ _ _ _ _ d a b =>
    (match d with | some d => [.op d] | none => []) ++ [.op a] ++ (match b with | some b => [.op b] | none => [])
  | .cas _ _ _ _ _ d a b => [.op d, .op a, .op b]
  | .redm _ _ _ _ a b => [.op a, .op b]
  | .copy _ _ a => [.op a]
  | .nset _ _ _ a => [.op a]
  | .nget _ d _ _ => [.op d]
  | .tsweep _ _ _ _ d ctr => [.op (.s d)] ++ (match ctr with | some c => [.op (.s c)] | none => [])
  | .mtcfg _ _ _ a => [.op a]
  | .mtload _ _ _ a b | .mtset _ _ _ a b | .mtadd _ _ _ _ a b => [.op a, .op b]
  | .mtget _ _ _ d a | .mtpfx _ _ _ d a | .mtfind _ _ _ d a | .mtcutIdx _ _ _ d a | .mtcutMass _ _ _ d a => [.op d, .op a]
  | .mttot _ _ _ d => [.op d]
  | .walk _ _ d a => [.op d, .op a]
  | .wreg _ _ d a b => [.op d, .op a, .op b]
  | .wstat _ d a _ => [.op d, .op a]
  | .wcancel _ a => [.op a]
  | .harg _ d _ => [.op d]
  | .awin _ a b => [.op a, .op b]
  | .kvx _ _ d a b => [.op d, .op a, .op b]
  | .kvseal _ a => [.op a]
  | .kvfree _ a b => [.op a, .op b]
  | .tspawn _ _ a => [.op a]
  | .tdec _ _ a b => [.op a, .op b]
  | .launch _ d a => [.op d, .op a]
  | .pemit _ a b | .prepeat _ a b => [.op a, .op b]
  | .coll _ a => [.op a]
  | .dreg _ _ a b => [.op a, .op b]
  | .dgrd _ _ _ d => [.op d]
  | .pmcfg _ _ a => [.op a]
  | .pmrd _ _ d => [.op d]
  | .pairWord _ _ h0 h1 => [.op (.v h0.d), .op h0.b, .op (.v h1.d), .op h1.b]
  | _ => []

/-- Registers that a word touches otherwise, last in the order of 03 R58. -/
def implicitOf : Instr → List Reg
  | .call _ _ _ _ _ => [.s 63]
  | .red _ _ _ _ _ pe _ _ => [.p pe.toNat]
  | .scan _ _ _ _ _ _ pe _ _ => [.p pe.toNat]
  | .cas _ _ _ _ ps _ _ _ => [.p ps.toNat]
  | _ => []

/-- Every register that a word touches, in the order of 03 R58; p0 is never pending. -/
def touched (i : Instr) (w : Warp) : List Reg :=
  let all : List Reg := match i with
    | .pairWord _ _ h0 h1 =>
      [.v h0.d.toNat] ++ operandRegs w h0.b ++ [.p h0.guard.toNat] ++ [.v h1.d.toNat] ++ operandRegs w h1.b ++ [.p h1.guard.toNat] ++
        (fldsOf i).flatMap Fld.idx
    | _ => (fldsOf i).flatMap (Fld.regs w) ++ [.p (hdrOf i).guard.toNat] ++ (fldsOf i).flatMap Fld.idx ++ implicitOf i
  all.filter (fun r => r != Reg.p 0)

/-- A register in the form of TRAPINFO[9:0] (03 R50, R51, R58). -/
def Reg.spec : Reg → Nat
  | .v n => n
  | .s n => 0x100 + n
  | .p n => 0x1F0 + n
  | .x n => 0x1F8 + n

/-- The INDEX check of one field: the failing specifier (03 R52, 07 R126, 10 R187). For the second register of an indexed
data specifier the specifier itself is named (DEDUCED, log 59). -/
def Fld.outside (w : Warp) : Fld → Option Nat
  | .op (.v n) => if n.toNat ≥ w.nregs then some n.toNat else none
  | .op (.vx i o) =>
    if vxReg w i o ≥ w.nregs ∨ vxReg w i o ≥ w.xlimit i.toNat then some (encOp (.vx i o)).toNat else none
  | .second (.v n) => if n.toNat + 1 ≥ w.nregs then some (n.toNat + 1) else none
  | .second (.vx i o) =>
    if vxReg w i o + 1 ≥ w.nregs ∨ vxReg w i o + 1 ≥ w.xlimit i.toNat then some (encOp (.vx i o)).toNat else none
  | .range n k => if n + k > w.nregs then some n else none
  | _ => none

/-- The first failing specifier of a word, with the pair half in bit 16 (03 R52, R56). -/
def indexFault (i : Instr) (w : Warp) : Option Nat :=
  match i with
  | .pairWord _ _ h0 h1 =>
    match [Fld.op (.v h0.d), .op h0.b].findSome? (Fld.outside w) with
    | some x => some x
    | none => ([Fld.op (.v h1.d), .op h1.b].findSome? (Fld.outside w)).map (fun x => x + 0x10000)
  | _ => (fldsOf i).findSome? (Fld.outside w)

/-- The word reads or writes a vector register. -/
def usesV (i : Instr) : Bool :=
  (fldsOf i).any (fun f => match f with | .op (.v _) | .op (.vx _ _) | .second (.v _) | .second (.vx _ _) | .range _ _ => true | _ => false)

/-! ### The prologue (03 R63) -/

/-- Operands of a scalar form that the front-end core has. -/
def operandFront : Operand → Bool
  | .s _ | .imm _ => true
  | .sp k => k == 0x0C || k == 0x0D || k == 0x08 || k == 0x0B
  | _ => false

/-- Majors 0x10-0x4F. -/
def laneWord : Instr → Bool
  | .iadd .. | .isub .. | .imul .. | .imulh .. | .imad .. | .ineg .. | .iabs .. | .imin .. | .imax .. | .iadds .. | .isubs ..
  | .and .. | .or .. | .xor .. | .not .. | .andn .. | .shl .. | .shr .. | .sar .. | .rot .. | .bfe .. | .bfi .. | .popc ..
  | .clz .. | .ctz .. | .brev .. | .icmp .. | .sel .. | .mov .. | .movi .. | .lea ..
  | .fadd .. | .fsub .. | .fmul .. | .fmac .. | .fmin .. | .fmax .. | .fabs .. | .fneg .. | .fcmp .. | .fclass .. | .frnd ..
  | .fdiv .. | .fsqrt .. | .frcp .. | .frsq .. | .fexp2 .. | .flog2 .. | .fsin .. | .fcos .. | .ftanh .. | .hadd2 .. | .hmul2 ..
  | .hmac2 .. | .cvt .. | .cvtn .. | .cvtw .. | .qres .. => true
  | _ => false

/-- A field names an s register, an immediate or a special operand of the front end. -/
def Fld.front : Fld → Bool
  | .op o => operandFront o
  | .second o => operandFront o
  | .range _ _ => false
  | .reg _ => true

/-- The words that a prologue accepts (03 R63). A word that names a predicate or an x register as its destination is a scalar
form where its sources are uniform (DEDUCED, log 98). -/
def prologueOk (i : Instr) : Bool :=
  match i with
  | .nop _ | .bra _ .lane _ _ _ | .call _ .lane _ _ _ | .pcancel _ => true
  | .ret _ a _ _ => operandFront a
  | .ld _ .g _ _ _ _ d | .st _ .g _ _ _ _ d => operandFront d
  | .pemit _ a b | .prepeat _ a b => operandFront a && operandFront b
  | .movi _ _ d _ => operandFront d
  | .mov _ _ _ (.pred _) => false
  | i => laneWord i && (fldsOf i).all Fld.front

end Sys2Proof.Machine
end

