-- ==== Sys2Proof/Machine/Recorded.lean ====
section
/-! DEFINITION. The replay journal's ring (18 R336, R337): entries written while EN is 1, looked for by kind and taken in their order
while REPLAY is. -/
namespace Sys2Proof.Machine

def Func.jrnOn (f : Func) : Bool := f.jrn.getLsbD 0
def Func.jrnReplays (f : Func) : Bool := f.jrn.getLsbD 1
/-- Entries that the ring holds. -/
def Func.jrnCap (f : Func) : Nat := 2 ^ min 16 (bits f.jrn 7 5) * 32768
def Func.jrnAddr (f : Func) (i : Nat) : Nat := bits f.jrn 12 45 * 4096 + 32 * (i % f.jrnCap)

/-- An entry: KIND, launch id, CYCLE, A and B. -/
def journalBytes (kind lid cycle a b : Nat) : List Byte :=
  [BitVec.ofNat 8 kind, 0, 0, 0] ++ bytesLE 4 lid ++ bytesLE 8 cycle ++ bytesLE 8 a ++ bytesLE 8 b

/-- 32 bytes written as the next entry of a function's journal. -/
def State.journalRaw (s : State) (f : Nat) (bs : List Byte) : State :=
  let x := s.func f
  if x.jrnOn then (s.hbmStore x.part (x.jrnAddr x.jrnPos) bs).modFunc f (fun y => { y with jrnPos := x.jrnPos + 1 }) else s
/-- An input recorded. -/
def State.journal (s : State) (f kind lid a b : Nat) : State := s.journalRaw f (journalBytes kind lid s.now a b)

/-- The 32 bytes of entry i. -/
def State.jrnEntry (s : State) (f i : Nat) : List Byte :=
  let x := s.func f
  s.bytesAt (hbmPlace x.part (x.jrnAddr i)) 32

/-- Raw argument entries that follow an entry of KIND 6. -/
def rawEntries (e : List Byte) : Nat := (field e 24 8 + 23) / 24

/-- An entry recorded from a LAUNCH that the replay has performed again. -/
def Func.jrnDone (f : Func) (i : Nat) : Bool := f.jrnWords.any (fun (j, _, done) => j == i && done)
/-- An entry recorded from a LAUNCH that the replay has not performed again. -/
def Func.jrnAwaits (f : Func) (i : Nat) : Bool := f.jrnWords.any (fun (j, _, done) => j == i && !done)

/-- The first entry of a KIND from position i on; the argument entries after a KIND 6 are passed over, and the entries of a
LAUNCH performed again. -/
def State.jrnFind (s : State) (f kind : Nat) : Nat → Nat → Option Nat
  | 0, _ => none
  | n + 1, i =>
    if i ≥ (s.func f).jrnPos then none
    else
      let e := s.jrnEntry f i
      if field e 0 1 = kind ∧ !(s.func f).jrnDone i then some i
      else State.jrnFind s f kind n (if field e 0 1 = 6 then i + 1 + rawEntries e else i + 1)

/-- The oldest position that the ring still holds. -/
def Func.jrnOldest (f : Func) : Nat := f.jrnPos - min f.jrnPos f.jrnCap
/-- The next recorded entry of a KIND, with its position. -/
def State.jrnNext (s : State) (f kind : Nat) : Option (Nat × List Byte) :=
  let x := s.func f
  (s.jrnFind f kind x.jrnCap (max x.jrnOldest (get 0 x.jrnRead kind))).map (fun i => (i, s.jrnEntry f i))
/-- The entry at a position is taken. -/
def State.jrnTake (s : State) (f kind i : Nat) : State := s.modFunc f (fun x => { x with jrnRead := put 0 x.jrnRead kind (i + 1) })

/-- A LAUNCH of the record at an address may be performed: under a replay its recorded launch is the next of those not entered yet
(18 R337). One that the journal does not hold waits for nothing. -/
def State.launchTurn (s : State) (f : Nat) (src : Word) : Bool :=
  !(s.func f).jrnReplays ||
    (match (s.func f).jrnWords.find? (fun (_, a, done) => a == src && !done), s.jrnNext f 1 with
      | some (i, _, _), some (j, _) => decide (i ≤ j)
      | _, _ => true)

end Sys2Proof.Machine
end

