-- ==== Sys2Proof/Machine/Issue.lean ====
section
/-! DEFINITION. How a word issues (03 R65): its checks in order, what an instruction's body may answer, and what every
issued word does: the PC advances, lookahead windows count, the gap and give-way act, counters count (02 R33-R38; 03
R44-R45, R57-R58; 18 R327). -/
namespace Sys2Proof.Machine

/-- What the body of an instruction answers. -/
inductive Res where
  /-- performed: sequential advance; `regs` are the registers that a long-latency word leaves pending -/
  | done (s : State) (regs : List Reg)
  /-- performed: the issuing entry is replaced by these -/
  | jump (s : State) (es : List Entry)
  /-- performed, and the frontier is as the body left it, or stays at the word until the flight ends -/
  | stay (s : State) (regs : List Reg)
  /-- not performed: the warp is blocked (02 R38) -/
  | wait (s : State) (b : Block)
  /-- a precise trap: cause, lanes, information (07 R142) -/
  | trap (s : State) (cause : Nat) (lanes : LaneMask) (info : Word)
  /-- the launch stops: cause, information (03 R62) -/
  | stop (s : State) (cause : Nat) (info : Word)
  /-- not performed: the body has parked or frozen the warp, or ended its launch or prologue -/
  | over (s : State)
deriving DecidableEq, Repr

/-! ### The issuing word's context -/

/-- The lanes of an entry in which a guard holds (03 R45). -/
def guardLanes (w : Warp) (e : Entry) (k : BitVec 3) (neg : Bool) : LaneMask :=
  e.lanes &&& (if neg then ~~~(w.readP k.toNat) else w.readP k.toNat)

/-- The warp or prologue that issues, with the entry that it issues from: the first of its frontier (02 R33). -/
def State.issuer (s : State) : Option (Warp × Entry) :=
  let w := s.issuerWarp s.cur
  match w.state, w.frontier with
  | .issuing, e :: _ => some (w, e)
  | .ready, e :: _ => some (w, e)
  | _, _ => none

/-- The context of a word with a header, for a warp or prologue. -/
def State.ctxAt (s : State) (who : Issuer) (w : Warp) (e : Entry) (h : Hdr) : Ctx :=
  match who with
  | .warp core slot =>
    let g := s.wg w.wg
    let l := s.launch g.lid
    { who := who, core := core, slot := slot, w := w, e := e, act := guardLanes w e h.guard h.gn, wgk := w.wg, wg := g.seen s.now
      lid := g.lid, launch := l, func := l.func, part := l.part }
  | .prologue p =>
    let lid := match (s.part p).prologue with
      | some r => r.lid
      | none => 0
    let l := s.launch lid
    { who := who, core := 0xFFFF, slot := 0, w := w, e := e, act := guardLanes w e h.guard h.gn, wgk := 0, wg := noWg
      lid := lid, launch := l, func := l.func, part := p }

/-- The context of the word that issues. -/
def State.ctx (s : State) (w : Warp) (e : Entry) (h : Hdr) : Ctx := s.ctxAt s.cur w e h

/-- The context runs a prologue. -/
def Ctx.front (c : Ctx) : Bool :=
  match c.who with
  | .prologue _ => true
  | .warp _ _ => false

/-! ### Blocked warps (02 R38) -/

/-- Sweeps of a warp that use a nest. -/
def Core.sweepsOn (k : Core) (slot : Nat) (ns : List Nat) : Bool :=
  (k.sched (slot / 16)).sweeps.any (fun w => w.by_.slot == slot &&
    (ns.contains w.ns || match w.op with | .copy nd => ns.contains nd.toNat | _ => false))

/-- Spawned tasks of a partition that have not started. -/
def State.storedTasks (s : State) (p : Nat) : Nat :=
  s.wgs.foldl (fun n (_, g) => if (s.launch g.lid).part = p then n + (g.tasks.filter (fun t => !t.started)).length else n) 0

/-- A queue has no room for a further entry of the warp (12 R223; 13 R249, R254) (DESIGN CHOICE, log 7). -/
def State.roomFull (s : State) (core slot : Nat) (r : Room) : Bool :=
  let k := s.core core
  let w := s.warp core slot
  let p := s.wgPart (s.wg w.wg)
  match r with
  | .copy => decide (k.copies.length ≥ 16)
  | .walk =>
    let n := (k.walks.filter (fun x => x.state != .done && x.fromHandler == w.handler)).length
    decide (n ≥ (if w.handler then 4 else 8))
  | .spawn => decide (s.storedTasks p ≥ Config.taskStorage + 1)
  | .launch => decide ((s.part p).queue.length ≥ Config.launchStorage + 1)
  | .kvseal => decide (k.kvs.length ≥ 16)
  | .coll => decide ((s.part p).colls.length ≥ 64)

/-- An AWIN or WREG of the workgroup has not completed (19 R341). -/
def State.gateOpen (s : State) (core wg : Nat) : Bool :=
  !((s.wgSlots core wg).any (fun i => (s.warp core i).flights.any Flight.walkGate))

/-! ### Words in flight -/

/-- The registers that writes go to; p0 is discarded. -/
def writeRegs (ws : List RegWrite) : List Reg :=
  ws.filterMap (fun x => match x with
    | .v n _ _ => some (.v n)
    | .s n _ => some (.s n)
    | .p n _ _ => if n = 0 then none else some (.p n))

/-- Every register write applied to a warp. -/
def applyWrites (w : Warp) (ws : List RegWrite) : Warp := ws.foldl RegWrite.apply w

/-- A word put in flight with its results (03 R58). A prologue's word completes at once. -/
def launchFlight (c : Ctx) (s : State) (kind : FlightKind) (regs : List Reg) (writes : List RegWrite) (late : Late)
    (holds gate : Bool) : State :=
  s.modIssuer c.who (fun w =>
    if c.front then applyWrites w writes
    else { w with nextFlight := w.nextFlight + 1, flights := w.flights ++
      [{ id := w.nextFlight, kind := kind, pc := c.e.pc, word := c.word, regs := regs, writes := writes, late := late, holds := holds, walkGate := gate }] })

/-- A long-latency word whose register writes are known: nothing is in flight where it writes none. -/
def fly (c : Ctx) (s : State) (writes : List RegWrite) : Res :=
  if writes = [] then .done s [] else .done (launchFlight c s .timed (writeRegs writes) writes .none false false) (writeRegs writes)

/-! ### What every issued word does -/

/-- Windows after one more word, with the word's own (03 R57). -/
def countWindows (ws : List Window) (h : Hdr) (pc : Word) (regs : List Reg) : List Window :=
  let old := (ws.map (fun x => { x with left := x.left - 1 })).filter (fun x => decide (x.left > 0))
  if h.la = 0 then old else old ++ [{ left := h.la.toNat, pc := pc, regs := regs }]

/-- The counters of issued words (18 R327). -/
def Warp.countWord (w : Warp) (i : Instr) : Warp := (w.count 1 1).count 2 (match i with | .pairWord _ _ _ _ => 1 | _ => 0)

/-- A warp's place on its scheduler after it has issued a word, performed or trapped (02 R37; 07 R136). -/
def Sched.afterWord (x : Sched) (now : Nat) : Sched :=
  { x with waited := 0, promoted := none, block := none, issuedAt := some now, stints := x.stints + 1 }

/-- The warp has issued a word that traps: it counts, and nothing else of it acts (03 R65; 18 R327) (DEDUCED, log 123). -/
def Warp.trapped (w : Warp) (now : Nat) (i : Instr) : Warp := { w.countWord i with sched := w.sched.afterWord now }

/-- The warp's bookkeeping for an issued word: windows, gap, counters of words (02 R36-R37; 03 R57; 18 R327). -/
def Warp.issued (w : Warp) (now : Nat) (i : Instr) (pc : Word) (regs : List Reg) : Warp :=
  let h := hdrOf i
  let w := w.countWord i
  { w with windows := countWindows w.windows h pc regs
           sched := { w.sched.afterWord now with gapUntil := max w.sched.gapUntil (now + 1 + h.gap.toNat) } }

/-- The scheduler has issued its word of this cycle (02 R35). -/
def State.slotUsed (s : State) (who : Issuer) : State :=
  match who with
  | .warp core slot => s.modCore core (fun k => k.modSched (slot / 16) (fun x => { x with lastIssue := some s.now }))
  | .prologue _ => s

/-- The turn ends after a word with GW, and after the one word of a promoted turn (02 R36, R37). -/
def State.endTurn (s : State) (c : Ctx) (gw : Bool) : State :=
  let s := s.slotUsed c.who
  match c.who with
  | .prologue p => s.modPart p (fun x => { x with prologue := x.prologue.map (fun r => { r with words := r.words + 1 }) })
  | .warp core slot =>
    let x := (s.core core).sched (slot / 16)
    if gw ∨ (x.promotedTurn ∧ x.issuing = some slot) then s.yieldTurn core slot else s

/-- A word has issued: its bookkeeping, then the frontier. -/
def finish (i : Instr) (c : Ctx) (s : State) (regs : List Reg) (front : Warp → Warp) : State :=
  (s.modIssuer c.who (fun w => front (w.issued s.now i c.e.pc regs))).endTurn c (hdrOf i).gw

/-- A blocked word: the warp leaves ISSUING and is not selected until what it waits for is there; a promoted one keeps its
promotion and its place in their order, which goes by its READY time too (02 R37, R38). -/
def State.blockWarp (s : State) (c : Ctx) (b : Block) : State :=
  match c.who with
  | .prologue _ => s
  | .warp core slot =>
    let x := (s.warp core slot).sched
    (s.yieldTurn core slot).modWarp core slot (fun w => { w with sched := { w.sched with
      promoted := x.promoted, readySince := if x.promoted.isSome then x.readySince else w.sched.readySince, block := some b } })

/-- What an answer makes of the state. -/
def Res.apply (i : Instr) (c : Ctx) : Res → State
  | .done s regs => finish i c s regs (fun w => w.advance s.now c.e)
  | .jump s es => finish i c s [] (fun w => w.replaceEntry s.now c.e es)
  | .stay s regs => finish i c s regs id
  | .wait s b => s.blockWarp c b
  | .trap s cause lanes info => (takeTrap c (s.modIssuer c.who (fun w => w.trapped s.now i)) cause lanes info (encode i)).endTurn c false
  | .stop s cause info => (stopAt c s cause (encode i) info 0).slotUsed c.who
  | .over s => s

/-! ### The checks of 03 R65 -/

/-- The cause of a word that is not an instruction (03 R61, R56). -/
def illegalCause (i : Instr) : Nat :=
  match i with
  | .pairWord _ _ _ _ => 2
  | .illegal w => if w.getLsbD 63 then 2 else 1
  | _ => 1

/-- The lanes of a pair word that are active in either half, or in one (DEDUCED, log 60). -/
def pairLanes (w : Warp) (e : Entry) (i : Instr) (half : Option Nat) : LaneMask :=
  match i with
  | .pairWord _ _ h0 h1 =>
    (match half with
      | some 0 => guardLanes w e h0.guard false
      | some _ => guardLanes w e h1.guard false
      | none => guardLanes w e h0.guard false ||| guardLanes w e h1.guard false)
  | _ => guardLanes w e (hdrOf i).guard (hdrOf i).gn

/-- LOOKAHEAD: the earliest window whose pending registers the word touches, and the first such register (03 R58). -/
def lookaheadFault (i : Instr) (w : Warp) : Option (Window × Reg) :=
  w.windows.findSome? (fun x => ((touched i w).find? (fun r => x.regs.contains r)).map (fun r => (x, r)))

/-- An element width of a nest (10 R207). -/
def Warp.nestEw (w : Warp) (n : Nat) : Nat := bits (w.readNest n 0) 58 2

/-- Checks that rank with those of 03 R61 but need the warp's state: EXIT in a handler or in a trap handler (07 R134), the
words of a handler in a work warp and the reverse (12 R242, R245), the
prologue's own words on a core (03 R63), TSWEEP's element widths (10 R209), QRES whose indexed destination is ρ (06 R121). -/
def stateIllegal (i : Instr) (c : Ctx) : Bool :=
  match i with
  | .exit _ => c.w.handler || c.w.trap.intrap
  | .wreg .. => decide (c.act ≠ 0) && c.w.handler
  | .awin .. => decide (c.act ≠ 0) && (c.w.handler || c.w.num != 0)
  | .harg .. | .hret _ | .hretAbort _ => decide (c.act ≠ 0) && !c.w.handler
  | .pemit _ _ _ | .pcancel _ | .prepeat _ _ _ => !c.front
  | .tsweep _ op t ns _ _ =>
    decide (c.act ≠ 0) &&
      (decide (width t ≠ 8 * 2 ^ c.w.nestEw ns.toNat) || match op with | .copy nd => c.w.nestEw nd.toNat != c.w.nestEw ns.toNat | _ => false)
  | .qres _ _ (.vx x o) _ rho => vxReg c.w x o == rho.toNat
  | _ => false

/-- The pending registers that block a word (02 R38). -/
def blockOf (i : Instr) (w : Warp) : Option Block :=
  let rs := touched i w
  if w.flights.any (fun f => f.regs.any (fun r => rs.contains r)) then some (.regs rs) else none

/-- What a word waits for, before any effect, where its instruction waits "as for a pending register" (02 R38; 10 R203, R208; 12
R223; 13 R249, R254; 19 R341). -/
def queueWait (i : Instr) (c : Ctx) (s : State) : Option Block :=
  let room (r : Room) : Option Block := if s.roomFull c.core c.slot r then some (.room r) else none
  let nests (ns : List Nat) : Option Block := if (s.core c.core).sweepsOn c.slot ns then some (.nests ns) else none
  let aligned (a : Operand) (n : Nat) : Bool := decide ((src64 c a 0).toNat % n = 0)
  if c.act = 0 then none
  else
    match i with
    | .copy _ _ _ => room .copy
    | .walk _ _ _ a => if !aligned a 8 then none else if !s.gateOpen c.core c.wgk then some .walkGate else room .walk
    | .tspawn _ _ a => if aligned a 8 then room .spawn else none
    | .launch _ _ a =>
      if !aligned a 8 then none else if !s.launchTurn c.func (src64 c a 0) then some .recorded else room .launch
    | .kvseal _ a => if aligned a 32 then room .kvseal else none
    | .coll _ a => if aligned a 64 then room .coll else none
    | .nset _ _ n _ | .nrst _ n => nests [n.toNat]
    | .nget _ _ n _ => nests [n.toNat]
    | .tsweep _ op _ ns _ _ => nests (match op with | .copy nd => [ns.toNat, nd.toNat] | _ => [ns.toNat])
    | _ => none

/-- What a warp's word waits for: the checks of 03 R65 that come before a wait must pass (02 R38). -/
def wordWait (i : Instr) (c : Ctx) (s : State) : Option Block :=
  if c.w.heldUp then some .hold
  else if !i.wf || stateIllegal i c || (lookaheadFault i c.w).isSome then none
  else
    match blockOf i c.w with
    | some b => some b
    | none => if (indexFault i c.w).isSome || (usesV i && c.wg.badReg.isSome) then none else queueWait i c s

/-- One word, from its checks to its effect (03 R65). A warp with a word in flight that lets no other issue waits (06 R117;
08 R153). Any word with a v source meets an error of its workgroup's register region (09 R185; DESIGN CHOICE, log 127). -/
def runWord (i : Instr) (body : Ctx → State → Res) (c : Ctx) (s : State) : State :=
  if c.w.heldUp then (Res.wait s .hold).apply i c
  else if c.front && !prologueOk i then (Res.stop s 1 0).apply i c
  else if !i.wf then (Res.stop s (illegalCause i) 0).apply i c
  else if stateIllegal i c then (Res.stop s 1 0).apply i c
  else
    match lookaheadFault i c.w with
    | some (x, r) =>
      (Res.trap s 4 (pairLanes c.w c.e i none) (BitVec.ofNat 64 (r.spec + x.pc.toNat / 8 * 1024))).apply i c
    | none =>
      match blockOf i c.w with
      | some b => (Res.wait s b).apply i c
      | none =>
        match indexFault i c.w with
        | some x => (Res.trap s 3 (pairLanes c.w c.e i (some (x / 65536))) (BitVec.ofNat 64 x)).apply i c
        | none =>
          if usesV i && c.wg.badReg.isSome then
            -- an uncorrectable error of the register region stops the launch (09 R185)
            (s.modWg c.wgk (fun g => { g with uncorr := g.uncorr + 1 })).stopLaunch c.lid 0x14 none { (recordFor c 0x14 0) with pc := 0 }
          else (body c s).apply i c

/-- A word is executed: by the warp or prologue that issues. -/
def issueWord (i : Instr) (body : Ctx → State → Res) (s : State) : Host.Outcome State Fault Refusal :=
  match s.issuer with
  | none => .refused .noIssuer
  | some (w, e) => .next (runWord i body { s.ctx w e (hdrOf i) with word := encode i } s)

end Sys2Proof.Machine
end

