-- ==== Sys2Proof/Machine/WalkGeom.lean ====
section
/-! DEFINITION. The problem record of a walk (12 R224), the shapes and places of its slots (12 R226), its tiles and steps (12
R227-R228, R239). -/
namespace Sys2Proof.Machine

/-! ### Fields of the record -/

def Walk.kind (w : Walk) : Nat := field w.record 0 1
def Walk.attn (w : Walk) : Bool := w.kind == 1
def Walk.fmta (w : Walk) : Nat := field w.record 2 1
def Walk.fmtb (w : Walk) : Nat := field w.record 3 1
def Walk.m (w : Walk) : Nat := field w.record 4 4
def Walk.n (w : Walk) : Nat := field w.record 8 4
def Walk.k (w : Walk) : Nat := field w.record 12 4
def Walk.nslotsA (w : Walk) : Nat := field w.record 19 1 % 16
def Walk.nslotsB (w : Walk) : Nat := field w.record 19 1 / 16
def Walk.ha (w : Walk) : Nat := field w.record 20 1
def Walk.hb (w : Walk) : Nat := field w.record 21 1
def Walk.hc (w : Walk) : Nat := field w.record 22 1
def Walk.ahead (w : Walk) : Nat := field w.record 23 1
def Walk.slotA (w : Walk) : Nat := field w.record 24 4
def Walk.slotB (w : Walk) : Nat := field w.record 28 4
def Walk.nsplit (w : Walk) : Nat := field w.record 36 1
def Walk.doneVa (w : Walk) : Word := fieldW w.record 48 8
def Walk.accum (w : Walk) : Bool := w.flags / 32 % 2 == 1
def Walk.nocause (w : Walk) : Bool := w.flags / 128 % 2 == 1
def Walk.hq (w : Walk) : Nat := field w.record 64 1
def Walk.hk (w : Walk) : Nat := field w.record 65 1
def Walk.hv (w : Walk) : Nat := field w.record 66 1
def Walk.pfmt (w : Walk) : Nat := field w.record 67 1
def Walk.posbase (w : Walk) : Nat := field w.record 68 4
def Walk.poscount (w : Walk) : Nat := field w.record 72 4
def Walk.winlo (w : Walk) : Nat := field w.record 76 4
def Walk.rotbase (w : Walk) : Nat := field w.record 80 4
def Walk.roton (w : Walk) : Bool := field w.record 84 1 == 1
def Walk.scale (w : Walk) : Nat := field w.record 88 4

def ceilDiv (a b : Nat) : Nat := (a + b - 1) / b
def roundUp (a b : Nat) : Nat := ceilDiv a b * b

/-! ### Slots (12 R226) -/

/-- Bytes of a slot with `rows` rows of `l` elements. -/
def slotBytes (fmt rows l : Nat) : Nat := if fmt = 3 then roundUp (66 * rows) 64 else roundUp (2 * rows * l) 64

/-- Rows and inner length of the tile that a step of ring A or B has in its slot. -/
def Walk.shapeA (w : Walk) : Nat × Nat := if w.attn then (w.tm, w.k) else (w.tm, w.tk)
def Walk.shapeB (w : Walk) (step : Nat) : Nat × Nat :=
  if w.attn then (if step % 2 = 0 then (w.tk, w.k) else (w.n, w.tk)) else (w.tn, w.tk)
def Walk.sizeA (w : Walk) : Nat := slotBytes w.fmta w.shapeA.1 w.shapeA.2
/-- The size of a slot of ring B in a step (12 R226; DEDUCED, log 61). -/
def Walk.sizeB (w : Walk) (step : Nat) : Nat := slotBytes w.fmtb (w.shapeB step).1 (w.shapeB step).2
def Walk.strideB (w : Walk) : Nat := max (w.sizeB 0) (w.sizeB 1)

/-- Scratchpad offset and size of the slot of a step. -/
def Walk.placeA (w : Walk) (step : Nat) : Nat × Nat := (w.slotA + step % w.nslotsA * w.sizeA, w.sizeA)
def Walk.placeB (w : Walk) (step : Nat) : Nat × Nat := (w.slotB + step % w.nslotsB * w.strideB, w.sizeB step)

/-- The latest raised step that uses slot `i` of a ring of `n`. -/
def ringStep (raised n i : Nat) : Option Nat := if raised > i then some ((raised - 1 - i) / n * n + i) else none

/-! ### Tiles and steps (12 R227, R228, R239) -/

def Walk.mt (w : Walk) : Nat := ceilDiv w.m w.tm
def Walk.nt (w : Walk) : Nat := if w.attn then 1 else ceilDiv w.n w.tn
def Walk.tiles (w : Walk) : Nat := w.mt * w.nt

/-- The bits of two numbers interleaved, `a`'s bit 0 lowest. -/
def interleave : Nat → Nat → Nat → Nat
  | 0, _, _ => 0
  | f + 1, a, b => a % 2 + 2 * (b % 2) + 4 * interleave f (a / 2) (b / 2)

/-- The even bits of a Morton index. -/
def evenBits : Nat → Nat → Nat
  | 0, _ => 0
  | f + 1, x => x % 2 + 2 * evenBits f (x / 4)

/-- The `t`-th Morton index inside the grid: tile row and column. -/
def mortonTile (mt nt : Nat) : Nat → Nat → Nat → Nat × Nat
  | 0, _, _ => (0, 0)
  | f + 1, x, t =>
    let tn := evenBits 32 x
    let tm := evenBits 32 (x / 2)
    if tm < mt ∧ tn < nt then (if t = 0 then (tm, tn) else mortonTile mt nt f (x + 1) (t - 1))
    else mortonTile mt nt f (x + 1) t

/-- Tile row and column of the `t`-th tile visited (12 R228). -/
def Walk.tileAt (w : Walk) (t : Nat) : Nat × Nat :=
  let mt := w.mt
  let nt := w.nt
  match w.order with
  | 1 => (t % mt, t / mt)
  | 2 => (t / nt, if t / nt % 2 = 1 then nt - 1 - t % nt else t % nt)
  | 3 => mortonTile mt nt (4 * (mt + nt) * (mt + nt) + 4) 0 t
  | _ => (t / nt, t % nt)

/-- The K range of a tile (12 R228). -/
def Walk.krange (w : Walk) : Nat × Nat :=
  if w.order = 4 then
    let kc := w.tk * ceilDiv (ceilDiv w.k w.tk) w.nsplit
    (min w.k (w.split * kc), min w.k ((w.split + 1) * kc))
  else (0, w.k)

/-- K-steps of one tile: for ATTN, the key blocks. -/
def Walk.stepsPerTile (w : Walk) : Nat :=
  if w.attn then ceilDiv w.poscount w.tk else ceilDiv (w.krange.2 - w.krange.1) w.tk
def Walk.totalSteps (w : Walk) : Nat := w.tiles * w.stepsPerTile

/-- First k of a step of a GEMM walk, and the first key of a block of an ATTN walk. -/
def Walk.firstK (w : Walk) (step : Nat) : Nat :=
  let i := step % max 1 w.stepsPerTile
  if w.attn then i * w.tk else w.krange.1 + i * w.tk
/-- Valid inner elements of a step. -/
def Walk.validK (w : Walk) (step : Nat) : Nat :=
  if w.attn then min w.tk (w.poscount - w.firstK step) else min w.tk (w.krange.2 - w.firstK step)

/-- Valid rows and columns of a tile. -/
def Walk.validM (w : Walk) (t : Nat) : Nat := min w.tm (w.m - (w.tileAt t).1 * w.tm)
def Walk.validN (w : Walk) (t : Nat) : Nat := if w.attn then w.n else min w.tn (w.n - (w.tileAt t).2 * w.tn)

/-! ### What a K-step needs (12 R227, R230, R239)

A GEMM step g uses step g of both rings. A step of an ATTN walk is a key block: it uses its tile's query slot, held through
the tile, and two steps of ring B. -/

def Walk.stepA (w : Walk) (g : Nat) : Nat := if w.attn then g / max 1 w.stepsPerTile else g
def Walk.stepsB (w : Walk) (g : Nat) : List Nat := if w.attn then [2 * g, 2 * g + 1] else [g]

def Walk.slotAAt (w : Walk) (h : Nat) : SlotState := w.slotsA.getD (h % max 1 w.nslotsA) .free
def Walk.slotBAt (w : Walk) (h : Nat) : SlotState := w.slotsB.getD (h % max 1 w.nslotsB) .free

def Walk.readyA (w : Walk) (g : Nat) : Bool :=
  decide (w.raisedA > w.stepA g) &&
    (if w.attn && decide (g % max 1 w.stepsPerTile ≠ 0) then w.slotAAt (w.stepA g) == .inUse else w.slotAAt (w.stepA g) == .ready)
def Walk.readyB (w : Walk) (h : Nat) : Bool := decide (w.raisedB > h) && w.slotBAt h == .ready

/-- The tile of a step, and the buffer it uses (12 R232). -/
def Walk.tileOf (w : Walk) (g : Nat) : Nat := g / max 1 w.stepsPerTile
def Walk.buf (w : Walk) (t : Nat) : TileBuf := if t % 2 = 0 then w.buf0 else w.buf1
def Walk.setBuf (w : Walk) (t : Nat) (b : TileBuf) : Walk := if t % 2 = 0 then { w with buf0 := b } else { w with buf1 := b }
def Walk.bufferReady (w : Walk) (g : Nat) : Bool :=
  let b := w.buf (w.tileOf g)
  b.state == .accumulating && b.tile == w.tileOf g

/-- The next step can begin: its slots are READY and its buffer is ACCUMULATING (12 R230); or the next substep can. -/
def Walk.canBegin (w : Walk) : Bool :=
  w.inBlock || (decide (w.begun < w.totalSteps) && !w.multiplying && w.readyA w.begun && (w.stepsB w.begun).all w.readyB && w.bufferReady w.begun)

end Sys2Proof.Machine
end

