-- ==== Sys2Proof/Machine/Scratch.lean ====
section
/-! DEFINITION. The scratchpad and the accumulator rows: ranges and their record (09 R169-R171), full-empty bits, the wake of
full-empty loads and the readiness of slots (09 R172-R173; 12 R227), storage errors (09 R185), rows (09 R174). -/
namespace Sys2Proof.Machine

/-! ### Bytes -/

/-- Bytes of a workgroup's scratchpad (09 R166, R169). -/
def Workgroup.spSize (g : Workgroup) : Nat := (g.part.alloc - g.part.regs - g.part.acc - g.part.swap) * 32768
/-- An access of n bytes at address a is in range (09 R169). -/
def Workgroup.spIn (g : Workgroup) (a n : Nat) : Bool := decide (a + n ≤ g.spSize)
def Workgroup.spByte (g : Workgroup) (a : Nat) : Byte := get 0 g.sp a

/-- The 64-byte lines that an access touches. -/
def spLines (a n : Nat) : List Nat := if n = 0 then [] else (List.range ((a + n - 1) / 64 + 1 - a / 64)).map (fun i => a / 64 + i)
/-- The granules that an access touches (09 R172). -/
def granules (a n : Nat) : List Nat := if n = 0 then [] else (List.range ((a + n - 1) / 16 + 1 - a / 16)).map (fun i => a / 16 + i)

/-- A read corrects a line's single error and counts it (09 R184). -/
def Workgroup.fixLine (g : Workgroup) (l : Nat) : Workgroup :=
  if get false g.softLines l then { g with softLines := put false g.softLines l false, corr := g.corr + 1 } else g
def Workgroup.fixRow (g : Workgroup) (r : Nat) : Workgroup :=
  if get false g.softRows r then { g with softRows := put false g.softRows r false, corr := g.corr + 1 } else g

/-- A read finds the errors of the lines it touches: each is recorded, and its bytes are zero from then on (09 R184, R185;
DEDUCED, log 18). -/
def Workgroup.spFind (g : Workgroup) (a n : Nat) : Workgroup :=
  (spLines a n).foldl (fun g l =>
    let g := g.fixLine l
    if get false g.badLines l then
      { g with badLines := put false g.badLines l false, uncorr := g.uncorr + 1, err := g.err.add 2 (64 * l)
               sp := (List.range 64).foldl (fun m i => erase m (64 * l + i)) g.sp }
    else g) g

/-- What an in-range read returns, and zeros out of range (09 R170). -/
def Workgroup.spRead (g : Workgroup) (a n : Nat) : List Byte :=
  if g.spIn a n then (List.range n).map (fun i => if get false g.badLines ((a + i) / 64) then 0 else g.spByte (a + i))
  else List.replicate n 0

/-- Bytes stored; an access not wholly in range is dropped (09 R170). An error not yet found stays in its line, whatever is written
(DESIGN CHOICE, log 117). -/
def Workgroup.spWrite (g : Workgroup) (a : Nat) (bs : List Byte) : Workgroup :=
  if g.spIn a bs.length then { g with sp := bs.zipIdx.foldl (fun m (b, i) => put 0 m (a + i) b) g.sp } else g

/-- Who makes an access to the scratchpad, and when: the cycle, the scheduler or 4 for an engine, and the warp's number. -/
structure OobBy where
  now : Nat
  rank : Nat
  warp : Nat
deriving DecidableEq, Repr

def oobBy (c : Ctx) (s : State) : OobBy := { now := s.now, rank := c.slot / 16, warp := c.w.num }
def engineBy (warp : Nat) (s : State) : OobBy := { now := s.now, rank := 4, warp := warp }

/-- FLAG set by an access. -/
def Oob.take (o : Oob) (x : OobAccess) : Oob := { o with kind := x.kind, warp := x.warp, flag := true, addr := x.addr, since := x.cycle }

/-- An out-of-range access seen: it is the first of its cycle unless one with a rank as low came before. -/
def Oob.see (o : Oob) (x : OobAccess) : Oob :=
  let first := match o.seen with
    | some y => if y.cycle = x.cycle ∧ y.rank ≤ x.rank then y else x
    | none => x
  let o := { o with seen := some first }
  if o.flag ∧ o.since ≠ x.cycle then o else o.take first

/-- The first out-of-range access is recorded (09 R171): kind 0 load, 1 store, 2 atomic, 3 engine. An access with FLAG set
changes nothing, unless FLAG was set in this cycle by an access that comes after it. -/
def Workgroup.oobAt (g : Workgroup) (kind : Nat) (by_ : OobBy) (a n : Nat) : Workgroup :=
  if g.spIn a n then g
  else { g with oob := g.oob.see { cycle := by_.now, rank := by_.rank, kind := kind, warp := by_.warp % 32, addr := a % 2 ^ 32 } }

/-- Full-empty bits of granules set or cleared. -/
def Workgroup.setFe (g : Workgroup) (gs : List Nat) (b : Bool) : Workgroup :=
  { g with fe := gs.foldl (fun m i => put false m i b) g.fe }
def Workgroup.allFull (g : Workgroup) (gs : List Nat) : Bool := gs.all (fun i => get false g.fe i)

/-! ### FM words (10 R186, R187) -/

def widthBytes : Width → Nat
  | .w8 => 1 | .w16 => 2 | .w32 => 4 | .w64 => 8 | .w128 => 16

/-- The base address of an FM word. -/
def fmBase (c : Ctx) (base : BitVec 6) (off : BitVec 20) : Word := c.w.readS base.toNat + off.signExtend 64

/-- The data specifier makes the access scalar. -/
def scalarData : Operand → Bool
  | .s _ => true
  | _ => false

/-- Lane and address of each element: one per active lane, or one where some lane is active (10 R186). -/
def fmElems (c : Ctx) (base : BitVec 6) (off : BitVec 20) (n : Nat) (d : Operand) : List (Nat × Nat) :=
  let a := fmBase c base off
  if scalarData d then (if c.act = 0 then [] else [(0, a.toNat)])
  else (lanesOf c.act).map (fun l => (l, (a + BitVec.ofNat 64 (l * n)).toNat))

/-- The register writes of a load: each element zero-extended, a 128-bit one in two registers (10 R187). -/
def loadWrites (c : Ctx) (w : Width) (d : Operand) (vals : List (Nat × List Byte)) : List RegWrite :=
  let at_ (l : Nat) : List Byte := ((vals.find? (fun (j, _) => j == l)).map Prod.snd).getD []
  let low (l : Nat) : Word := BitVec.ofNat 64 (numLE ((at_ l).take 8))
  let high (l : Nat) : Word := BitVec.ofNat 64 (numLE ((at_ l).drop 8))
  match d with
  | .s k => if c.act = 0 then [] else
      .s k.toNat (low 0) :: (if w = .w128 then [.s (k.toNat + 1) (high 0)] else [])
  | .v k => if c.act = 0 then [] else
      .v k.toNat c.act (mkVec low) :: (if w = .w128 then [.v (k.toNat + 1) c.act (mkVec high)] else [])
  | .vx i o => if c.act = 0 then [] else
      .v (vxReg c.w i o) c.act (mkVec low) :: (if w = .w128 then [.v (vxReg c.w i o + 1) c.act (mkVec high)] else [])
  | _ => []

/-- The low bytes of the data register in a lane (10 R191). -/
def storeData (c : Ctx) (w : Width) (d : Operand) (l : Nat) : List Byte :=
  match d with
  | .s k => bytesLE 8 (c.w.readS k.toNat).toNat ++ bytesLE 8 (c.w.readS (k.toNat + 1)).toNat |>.take (widthBytes w)
  | .v k => bytesLE 8 (c.w.readV k.toNat l).toNat ++ bytesLE 8 (c.w.readV (k.toNat + 1) l).toNat |>.take (widthBytes w)
  | .vx i o => bytesLE 8 (c.w.readV (vxReg c.w i o) l).toNat ++ bytesLE 8 (c.w.readV (vxReg c.w i o + 1) l).toNat
      |>.take (widthBytes w)
  | _ => []

/-- Cycles that a warp's scratchpad access loses to bank conflicts: one for each further line of its busiest bank (09 R169). -/
def bankConflicts (g : Workgroup) (es : List (Nat × Nat)) (n : Nat) : Nat :=
  let spad := g.spSize / 32768
  let ls := ((es.filter (fun (_, a) => g.spIn a n)).flatMap (fun (_, a) => spLines a n)).eraseDups
  (List.range spad).foldl (fun m b => max m ((ls.filter (fun l => l % spad == b)).length - 1)) 0

/-! ### Full-empty loads (09 R172, R173) -/

/-- The granules of the in-range elements of an access. -/
def accessGranules (g : Workgroup) (es : List (Nat × Nat)) (n : Nat) : List Nat :=
  ((es.filter (fun (_, a) => g.spIn a n)).flatMap (fun (_, a) => granules a n)).eraseDups

/-- A scratchpad load performed as one access: its errors and out-of-range elements recorded, its bytes read, and for
.take its granules cleared. Answers the values by lane. -/
def spLoad (c : Ctx) (s : State) (es : List (Nat × Nat)) (n kind : Nat) (take : Bool) : State × List (Nat × List Byte) :=
  let g := s.wg c.wgk
  let g := es.foldl (fun g (_, a) => (g.oobAt kind (oobBy c s) a n)) g
  let g := es.foldl (fun g (_, a) => if g.spIn a n then g.spFind a n else g) g
  let vals := es.map (fun (l, a) => (l, g.spRead a n))
  let g2 := if take then g.setFe (accessGranules g es n) false else g
  (s.setWg c.wgk g2, vals)

/-- A full-empty load's performance: at issue where its granules are full, else at its wake. -/
def feLoad (c : Ctx) (s : State) (mode : FeMode) (w : Width) (base : BitVec 6) (off : BitVec 20) (d : Operand) : Res :=
  let n := widthBytes w
  let es := fmElems c base off n d
  let (s2, vals) := spLoad c s es n 0 (mode == .take)
  fly c (s2.modIssuer c.who (fun x => x.count 9 (bankConflicts (s.wg c.wgk) es n))) (loadWrites c w d vals)

/-- The state in which a load that has issued before completes: its bookkeeping is done. -/
def Res.flown (s : State) : Res → State
  | .done t _ => t
  | _ => s

/-- A warp whose full-empty load can complete: it completes, with the value taken now, and the warp wakes (02 R28). -/
def State.completeFe (s : State) (core slot : Nat) : State :=
  let w := s.warp core slot
  match w.feLoad, w.frontier with
  | some (.ld h (.sp mode) _ wd base off d), e :: _ =>
    let c := s.ctxAt (.warp core slot) w e h
    (((feLoad c s mode wd base off d).flown s).modWarp core slot (fun x => { x.advance s.now e with feLoad := none })).wakeWarp core slot
  | _, _ => s.wakeWarp core slot

/-- The granules a warp waits for are full now, and its mode is .take. -/
def State.feReady (s : State) (core slot : Nat) : Option Bool :=
  let w := s.warp core slot
  match w.parkOn with
  | some (.granules gs take) => if (s.wg w.wg).allFull gs then some take else none
  | _ => none

/-- The .take waiter that has been parked longest among those whose granules are full; of those parked in the same cycle the lowest
slot (DESIGN CHOICE, log 113). -/
def State.oldestTake (s : State) (core : Nat) (slots : List Nat) : Option Nat :=
  (slots.filter (fun i => s.feReady core i == some true)).foldl (fun best i =>
    match best with
    | none => some i
    | some j => if (s.warp core i).sched.parkedSince < (s.warp core j).sched.parkedSince then some i else some j) none

/-- Takes complete one after another, oldest park first. -/
def State.wakeTakes (s : State) (core : Nat) (slots : List Nat) : Nat → State
  | 0 => s
  | n + 1 =>
    match s.oldestTake core slots with
    | none => s
    | some i => State.wakeTakes (s.completeFe core i) core slots n

/-- Slots whose upcall is complete become READY when all their granules are full (12 R227). -/
def Walk.refresh (g : Workgroup) (w : Walk) : Walk :=
  let ready (place : Nat × Nat) : Bool := g.allFull (granules place.1 place.2)
  { w with
    slotsA := w.slotsA.zipIdx.map (fun (st, i) => if st = .filled then
      (match ringStep w.raisedA w.nslotsA i with | some h => if ready (w.placeA h) then .ready else st | none => st) else st)
    slotsB := w.slotsB.zipIdx.map (fun (st, i) => if st = .filled then
      (match ringStep w.raisedB w.nslotsB i with | some h => if ready (w.placeB h) then .ready else st | none => st) else st) }

def State.refreshSlots (s : State) (core k : Nat) : State :=
  let g := s.wg k
  s.modCore core (fun c => { c with walks := c.walks.map (fun w => if w.wg = k ∧ w.state ≠ .done then w.refresh g else w) })

/-- After granules of a workgroup became full: slots become READY, every .keep waiter wakes, and .take waiters one by one
(02 R26; 09 R173). -/
def State.afterFill (s : State) (k : Nat) : State :=
  let core := (s.wg k).core
  let s := s.refreshSlots core k
  let slots := s.wgSlots core k
  let s := slots.foldl (fun s i => if s.feReady core i = some false then s.completeFe core i else s) s
  State.wakeTakes s core slots 64

/-- Granules filled by a `.fill` store or an engine write, with the wakes (09 R172). -/
def State.fillGranules (s : State) (k : Nat) (gs : List Nat) : State :=
  if gs = [] then s else (s.modWg k (fun g => g.setFe gs true)).afterFill k

/-- A write of an engine to the scratchpad: dropped where out of range and recorded with KIND 11. Answers the granules
written, which become full once all their bytes are written (09 R170-R172). -/
def State.engineSpPut (s : State) (k warp a : Nat) (bs : List Byte) : State × List Nat :=
  let g := s.wg k
  if !g.live then (s, [])
  else if g.spIn a bs.length then (s.setWg k (g.spWrite a bs), granules a bs.length)
  else (s.setWg k (g.oobAt 3 (engineBy warp s) a bs.length), [])

/-- A read of an engine from the scratchpad (09 R170, R171, R185) (DEDUCED, log 56). -/
def State.engineSpRead (s : State) (k warp a n : Nat) : State × List Byte :=
  let g := s.wg k
  if !g.live then (s, List.replicate n 0)
  else
    let g := g.oobAt 3 (engineBy warp s) a n
    let g := if g.spIn a n then g.spFind a n else g
    (s.setWg k g, g.spRead a n)

/-! ### Accumulator rows (09 R174, R185) -/

/-- A row's error is found: recorded, and the row is zero from then on (DEDUCED, log 18). -/
def Workgroup.accFind (g : Workgroup) (row : Nat) : Workgroup :=
  let g := g.fixRow row
  if get false g.badRows row then
    { g with badRows := put false g.badRows row false, uncorr := g.uncorr + 1, err := g.err.add 3 (512 * row)
             acc := (List.range 128).foldl (fun m i => erase m (row * 128 + i)) g.acc }
  else g
def Workgroup.accAt (g : Workgroup) (row col : Nat) : BitVec 32 := get 0 g.acc (row * 128 + col)
def Workgroup.accPut (g : Workgroup) (row col : Nat) (x : BitVec 32) : Workgroup :=
  { g with acc := put 0 g.acc (row * 128 + col) x }

end Sys2Proof.Machine
end

