-- ==== Sys2Proof/Machine/DevMem.lean ====
section
/-! DEFINITION. A warp's accesses to device memory (10 R186-R191): translation of every element before any is performed, the
faults of a word, reads and writes with their heat samples, errors and counter wakes. -/
namespace Sys2Proof.Machine

/-- Where an access lands: its bytes, or the fault that it takes. -/
inductive Place where
  | ok (bs : List (Page × Nat))
  | fault (cause flags va : Nat)
deriving DecidableEq, Repr

/-- The flags of a fault record for an access (15 R280). -/
def Access.flags (a : Access) : Nat := (if a.write then 1 else 0) + (if a.fetch then 2 else 0)

/-- One part of an element: `n` bytes on one page. -/
def State.placePart (s : State) (p f va n : Nat) (acc : Access) : Place :=
  match s.translateIn p f va acc with
  | .ok pg =>
    if pg.comp.isNone || (List.range n).all (fun i => s.lineExists p pg (va + i - pg.va)) then
      .ok ((List.range n).map (fun i => (pg, va + i - pg.va)))
    else .fault 9 acc.flags va
  | .page fl at_ => .fault 8 (acc.flags + fl) at_
  | .protect => .fault 9 acc.flags va

/-- The bytes that stand on the first page of an access. -/
def firstPart (s : State) (p f va n : Nat) (acc : Access) : Nat :=
  match s.translateIn p f va acc with
  | .ok pg => min n (pg.va + pg.size - va)
  | _ => min n (65536 - va % 65536)

/-- An element's bytes; one that crosses a page is performed as two parts (10 R188). An address beyond 57 bits is a
protection violation (10 R186). -/
def State.place (s : State) (p f va n : Nat) (acc : Access) : Place :=
  if va ≥ 2 ^ 57 then .fault 9 acc.flags va
  else
    let k := firstPart s p f va n acc
    if k = n then s.placePart p f va n acc
    else
      match s.placePart p f va k acc, (if va + k ≥ 2 ^ 57 then Place.fault 9 acc.flags (va + k) else s.placePart p f (va + k) (n - k) acc) with
      | .ok a, .ok b => .ok (a ++ b)
      | .fault 9 fl v, _ => .fault 9 fl v
      | _, .fault 9 fl v => .fault 9 fl v
      | .ok _, x => x
      | x, _ => x

/-- All elements placed, each with its lane; or the fault of the first row of 10 R189 that any lane meets. -/
inductive Placed where
  | ok (ps : List (Nat × List (Page × Nat)))
  | fault (cause flags va : Nat)
deriving DecidableEq, Repr

/-- The first fault of a cause among places, in lane order (DEDUCED, log 118). -/
def firstFault (cause : Nat) : List (Nat × Place) → Option (Nat × Nat)
  | [] => none
  | (_, .fault c fl va) :: r => if c = cause then some (fl, va) else firstFault cause r
  | _ :: r => firstFault cause r

/-- The elements' bytes, where every one is placed. -/
def allPlaced : List (Nat × Place) → Option (List (Nat × List (Page × Nat)))
  | [] => some []
  | (l, .ok bs) :: r => (allPlaced r).map (fun x => (l, bs) :: x)
  | _ => none

/-- The 64 KiB units that the elements of a word stand in, where they stand in several: those in one unit share their pages (15 R277). -/
def wordUnits (es : List (Nat × Nat)) (n : Nat) : List Nat :=
  let us := (es.flatMap (fun (_, va) => [faultPage va, faultPage (va + n - 1)])).eraseDups
  if us.length ≤ 1 then [] else us

/-- Translation of every element of a word (10 R189). -/
def State.placeAll (s : State) (p f : Nat) (es : List (Nat × Nat)) (n : Nat) (acc : Access) : Placed :=
  let acc := { acc with word := wordUnits es n }
  let ps := es.map (fun (l, va) => (l, s.place p f va n acc))
  match firstFault 9 ps with
  | some (fl, va) => .fault 9 fl va
  | none =>
    match firstFault 8 ps with
    | some (fl, va) => .fault 8 fl va
    | none => .ok ((allPlaced ps).getD [])

/-- A word's fault (10 R189): a protection violation freezes the warp, the word having issued (18 R327) (DEDUCED, log 123); any other
parks it, and the word counts at its last issue alone (23 R351). -/
def memFault (c : Ctx) (s : State) (word : Word) (cause flags va : Nat) : Res :=
  .over ((if cause = 9 then freezeAt c (s.modIssuer c.who (fun w => w.count 1 1)) word va flags
    else parkFault c s cause word va flags).slotUsed c.who)

/-- The lines that bytes stand on, each once. -/
def placeLines (bs : List (Page × Nat)) : List (Page × Nat) :=
  bs.foldl (fun acc (pg, off) =>
    let l := off / 64 * 64
    if acc.any (fun (q, o) => lineId q o == lineId pg l) then acc else acc ++ [(pg, l)]) []

/-- Bytes read at places: errors found, heat sampled, then the values by lane. -/
def readPlaces (c : Ctx) (s : State) (ps : List (Nat × List (Page × Nat))) : State × List (Nat × List Byte) :=
  let lines := placeLines (ps.flatMap Prod.snd)
  let s := s.findErrors c.part c.owner { (recordFor c 0x14 0) with pc := 0 } lines
  let s := s.heatLines c.part c.core lines
  (s, ps.map (fun (l, bs) => (l, bs.map (fun (pg, off) => s.readByte c.part pg off))))

/-- Storage errors that a write meets: one that covers a whole line overwrites the error, another finds it (09 R185). -/
def State.writeErrors (s : State) (p : Nat) (g : Option Nat) (r : FaultRec) (ws : List ByteWrite) (lines : List (Page × Nat)) :
    State :=
  let up := lines.filter (fun (pg, _) => !s.linkDown p pg)
  let s := up.foldl (fun s (pg, off) => if coversLine pg off ws then
    { s with badMem := put false s.badMem (lineId pg off) false, softMem := put false s.softMem (lineId pg off) false } else s) s
  (s.findErrors p g r (up.filter (fun (pg, off) => !coversLine pg off ws))).reportDropped p r lines

/-- An access's writes: performed whole, or the page of the first line without an overflow entry (09 R181). -/
def State.tryWrites (s : State) (p : Nat) (g : Option Nat) (r : FaultRec) (requester : Nat) (ws : List ByteWrite) :
    Except Nat State :=
  let lines := touchedLines ws
  match s.firstOverflow p ws lines with
  | some va => .error va
  | none => .ok (((s.writeErrors p g r ws lines).heatLines p requester lines).performWrites p ws)

/-- Writes of a warp or prologue. -/
def warpWrites (c : Ctx) (s : State) (ws : List ByteWrite) : Except Nat State :=
  s.tryWrites c.part c.owner { (recordFor c 0x14 0) with pc := 0 } c.core ws

/-- The byte writes of elements and their data. -/
def elemWrites (ps : List (Nat × List (Page × Nat))) (data : Nat → List Byte) : List ByteWrite :=
  ps.flatMap (fun (l, bs) => (bs.zip (data l)).map (fun ((pg, off), b) => ByteWrite.mk pg off b))

/-- A load of elements from device memory: the state after it with the values, or the word's fault. -/
def devLoad (c : Ctx) (s : State) (word : Word) (es : List (Nat × Nat)) (n : Nat) : Except Res (State × List (Nat × List Byte)) :=
  match s.placeAll c.part c.func es n {} with
  | .fault cause fl va => .error (memFault c s word cause fl va)
  | .ok ps => .ok (readPlaces c s ps)

/-- A store of elements to device memory. -/
def devStore (c : Ctx) (s : State) (word : Word) (es : List (Nat × Nat)) (n : Nat) (data : Nat → List Byte) : Except Res State :=
  match s.placeAll c.part c.func es n { write := true } with
  | .fault cause fl va => .error (memFault c s word cause fl va)
  | .ok ps =>
    match warpWrites c s (elemWrites ps data) with
    | .ok s2 => .ok s2
    | .error va => .error (memFault c s word 0x12 1 va)

/-- A record read at issue as a load of the warp, in device memory or scratchpad (10 R203; 12 R242; 13 R248). -/
def loadRecord (c : Ctx) (s : State) (word : Word) (sp : Bool) (a n : Nat) : Except Res (State × List Byte) :=
  if sp then
    let (s2, vals) := spLoad c s [(0, a)] n 0 false
    .ok (s2, vals.flatMap Prod.snd)
  else
    match devLoad c s word [(0, a)] n with
    | .ok (s2, vals) => .ok (s2, vals.flatMap Prod.snd)
    | .error r => .error r

end Sys2Proof.Machine
end

