-- ==== Sys2Proof/Machine/Csr.lean ====
section
/-! DEFINITION. The user CSRs (06 R100-R103; 07 R139-R141; 08 R154; 09 R166, R171, R175, R184; 12 R234; 16 R290-R291). -/
namespace Sys2Proof.Machine

/-- Bits of a stored word that a mask keeps. -/
def keepBits (x : Word) (lo n : Nat) : Word := BitVec.ofNat 64 (bits x lo n * 2 ^ lo)

/-- STATUS (06 R101). -/
def statusWord (c : Ctx) : Word :=
  BitVec.ofNat 64 (c.slot % 16 * 256 + c.slot / 16 * 64 + (if c.w.handler then 32 else 0) + (if c.w.trap.intrap then 16 else 0))

/-- GRPS (06 R103). -/
def grpsWord (w : Warp) : Word :=
  let g (i : Nat) : Nat := w.grps.getD i 0
  BitVec.ofNat 64 (w.grps.length * 2 ^ 32 + g 3 * 2 ^ 24 + g 2 * 2 ^ 16 + g 1 * 2 ^ 8 + g 0)

/-- UPARG (12 R234). -/
def upargWord (w : Warp) : Word :=
  match w.uparg with
  | some place => BitVec.ofNat 64 (2 ^ 16 + place)
  | none => 0

/-- FPMODE (06 R102). -/
def fpmodeWord (w : Warp) : Word := BitVec.ofNat 64 ((encRnd w.rm).toNat * 2 + (if w.ftz then 1 else 0))

/-- OOBFLAG (09 R171). -/
def oobWord (o : Oob) : Word := BitVec.ofNat 64 (o.kind * 64 + o.warp * 2 + (if o.flag then 1 else 0))

/-- PARTW (09 R166). -/
def partWord (p : PartWord) : Word := BitVec.ofNat 64 (p.alloc * 2 ^ 24 + p.swap * 2 ^ 16 + p.acc * 2 ^ 8 + p.regs)

/-- ERRSTAT (09 R184). -/
def errWord (e : ErrStat) : Word := BitVec.ofNat 64 (e.loc * 2 ^ 32 + e.count * 2 ^ 24 + e.first * 2 ^ 8 + e.kinds.toNat)

/-- The value of a user CSR (07 R139). -/
def readCsr (c : Ctx) (s : State) (k : Nat) : Word :=
  match k with
  | 0x000 => statusWord c
  | 0x001 => c.w.trap.en.setWidth 64
  | 0x002 => c.w.trap.vec
  | 0x003 => c.w.trap.pc
  | 0x004 => c.w.trap.lanes
  | 0x005 => BitVec.ofNat 64 c.w.trap.cause
  | 0x006 => c.w.trap.info
  | 0x008 => c.w.fpx.i
  | 0x009 => c.w.fpx.z
  | 0x00A => c.w.fpx.o
  | 0x00B => c.w.fpx.u
  | 0x00C => c.w.fpx.p
  | 0x00D => fpmodeWord c.w
  | 0x010 | 0x011 | 0x012 | 0x013 => BitVec.ofNat 64 (c.w.xlimit (k - 0x010))
  | 0x014 => grpsWord c.w
  | 0x015 => c.w.shapeg
  | 0x016 => upargWord c.w
  | 0x017 => c.w.massx
  | 0x100 => oobWord c.wg.oob
  | 0x101 => BitVec.ofNat 64 c.wg.oob.addr
  | 0x102 => BitVec.ofNat 64 c.wg.awbase
  | 0x103 => BitVec.ofNat 64 c.wg.awlimit
  | 0x104 => partWord c.wg.part
  | 0x105 => errWord c.wg.err
  | 0x106 => c.wg.kvtab
  | 0x200 => 64
  | 0x201 => BitVec.ofNat 64 (s.core c.core).banks
  | 0x202 => BitVec.ofNat 64 s.now
  | _ => 0

/-- KINDS is write-1-to-clear; LOC, COUNT and FIRST take a written value until the device updates them (00 R6), and return
to 0 when the last KINDS bit is cleared (09 R184) (DEDUCED, log 64). -/
def ErrStat.write (e : ErrStat) (x : Word) : ErrStat :=
  let kinds := e.kinds &&& ~~~(x.setWidth 5)
  if e.kinds ≠ 0 ∧ kinds = 0 then {}
  else { loc := bits x 32 32, count := bits x 24 8, first := bits x 8 3, kinds := kinds }

/-- Clearing KINDS bits alone (09 R184). -/
def ErrStat.clear (e : ErrStat) (ones : BitVec 5) : ErrStat :=
  let kinds := e.kinds &&& ~~~ones
  if e.kinds ≠ 0 ∧ kinds = 0 then {} else { e with kinds := kinds }

/-- OOBFLAG written: FLAG is write-1-to-clear; while it stays set nothing changes, else KIND and WARP take the written value
(00 R6; 09 R171; DEDUCED, log 95). The write comes before every access of its cycle: an access of this cycle stands. -/
def Oob.write (o : Oob) (now : Nat) (x : Word) : Oob :=
  if o.flag ∧ (!x.getLsbD 0 ∨ o.since = now) then o
  else
    let o := { o with kind := bits x 6 2, warp := bits x 1 5, flag := false }
    match o.seen with
    | some y => if y.cycle = now then o.take y else o
    | none => o

/-- OOBADDR written: it does not change while FLAG is set. -/
def Oob.writeAddr (o : Oob) (x : Word) : Oob := if o.flag then o else { o with addr := bits x 0 32 }

/-! ### KVTAB (16 R290, R291) -/

/-- A descriptor within R291. -/
def kvDescOk (d : List Byte) : Bool :=
  decide (field d 0 8 % 32 = 0) && decide (4 ≤ field d 12 1) && decide (field d 12 1 ≤ 10) && decide (field d 13 3 = 0) &&
  decide (field d 16 4 % 64 = 0) && decide (64 ≤ field d 16 4) && decide (field d 16 4 ≤ 65536) &&
  (d.drop 20).all (fun b => b == 0)

/-- ADDR and EN as KVTAB stores them. -/
def kvtabStored (x : Word) : Word := keepBits x 6 51 ||| keepBits x 0 1

/-- Readers of this cycle keep what a CSR of the workgroup held before the cycle's first write of it (07 R139). -/
def Workgroup.holdCsrs (g : Workgroup) (now : Nat) (f : HeldCsrs → HeldCsrs) : Workgroup := { g with csrHeld := some (f (g.heldNow now)) }
def Workgroup.holdKv (g : Workgroup) (now : Nat) : Workgroup := g.holdCsrs now (fun h => { h with kv := some (h.kv.getD (g.kvtab, g.kvDesc)) })

/-- The workgroup with KVTAB written and a descriptor loaded (16 R290). -/
def Workgroup.kvLoad (g : Workgroup) (now : Nat) (x : Word) (d : List Byte) : Workgroup :=
  { g.holdKv now with kvtab := kvtabStored x ||| (if kvDescOk d then 0 else 2), kvDesc := some d }

/-- The workgroup with KVTAB written and EN clear: nothing is loaded. -/
def Workgroup.kvOff (g : Workgroup) (now : Nat) (x : Word) : Workgroup := { g.holdKv now with kvtab := kvtabStored x ||| (g.kvtab &&& 2) }

/-- KVTAB written by a warp: with EN, the descriptor is read as a load of the warp (16 R290). -/
def writeKvtab (c : Ctx) (s : State) (word x : Word) : Except Res State :=
  if x.getLsbD 0 then
    match loadRecord c s word false (bits x 6 51 * 64) 64 with
    | .error r => .error r
    | .ok (s2, d) => .ok (s2.modWg c.wgk (fun g => g.kvLoad s.now x d))
  else .ok (s.modWg c.wgk (fun g => g.kvOff s.now x))

/-! ### Writing -/

/-- A warp CSR written (07 R139): read-only fields are kept, write-1-to-clear acts bit by bit. -/
def Warp.writeCsr (w : Warp) (k : Nat) (x : Word) : Warp :=
  match k with
  | 0x001 => { w with trap := { w.trap with en := x.setWidth 5 } }
  | 0x002 => { w with trap := { w.trap with vec := keepBits x 3 54 } }
  | 0x003 => { w with trap := { w.trap with pc := keepBits x 3 54 } }
  | 0x004 => { w with trap := { w.trap with lanes := x } }
  | 0x005 => { w with trap := { w.trap with cause := bits x 0 8 } }
  | 0x006 => { w with trap := { w.trap with info := x } }
  | 0x008 => { w with fpx := { w.fpx with i := w.fpx.i &&& ~~~x } }
  | 0x009 => { w with fpx := { w.fpx with z := w.fpx.z &&& ~~~x } }
  | 0x00A => { w with fpx := { w.fpx with o := w.fpx.o &&& ~~~x } }
  | 0x00B => { w with fpx := { w.fpx with u := w.fpx.u &&& ~~~x } }
  | 0x00C => { w with fpx := { w.fpx with p := w.fpx.p &&& ~~~x } }
  | 0x00D => { w with rm := decRnd (x.extractLsb' 1 2), ftz := x.getLsbD 0 }
  | 0x010 | 0x011 | 0x012 | 0x013 => { w with xlim := put 256 w.xlim (k - 0x010) (min 256 (bits x 0 9)) }
  | 0x017 => { w with massx := w.massx &&& ~~~x }
  | _ => w

/-- A workgroup CSR written, other than KVTAB; the workgroup sees it from the next cycle (07 R139). -/
def Workgroup.writeCsr (g : Workgroup) (now k : Nat) (x : Word) : Workgroup :=
  match k with
  | 0x100 => { g.holdCsrs now (fun h => { h with oob := some (h.oob.getD g.oob) }) with oob := g.oob.write now x }
  | 0x101 => { g.holdCsrs now (fun h => { h with oob := some (h.oob.getD g.oob) }) with oob := g.oob.writeAddr x }
  | 0x105 => { g.holdCsrs now (fun h => { h with err := some (h.err.getD g.err) }) with err := g.err.write x }
  | _ => g

/-! ### SHAPE (07 R140) -/

/-- TM reduced until two tiles fit the rows. -/
def fitTm (rows : Nat) : Nat → Nat → Nat
  | 0, tm => tm
  | n + 1, tm => if tm > 16 ∧ 2 * tm > rows then fitTm rows n (tm - 16) else tm

/-- The grant for a walk of M x N x K in a window of `rows` rows. -/
def shapeGrant (rows m n k : Nat) : Nat :=
  let tm := fitTm rows 8 (min 128 ((m + 15) / 16 * 16))
  let tn := min 128 ((n + 15) / 16 * 16)
  let tk := if k ≥ 64 then 64 else if k ≥ 32 then 32 else 16
  if m = 0 ∨ n = 0 ∨ k = 0 ∨ 2 * tm > rows then 0 else 2 ^ 24 + tk * 2 ^ 16 + tn * 2 ^ 8 + tm

end Sys2Proof.Machine
end

