-- ==== Sys2Proof/Machine/Blocked.lean ====
section
/-! DEFINITION. When a READY warp is blocked (02 R23, R38): its next word, looked at where it stands in memory, waits for
pending registers, or for something else as for a pending register. -/
namespace Sys2Proof.Machine

/-- The next word of a warp, where its fetch would meet no fault and no error. -/
def State.peekWord (s : State) (c : Ctx) : Option Word :=
  match s.placeAll c.part c.func [(0, c.e.pc.toNat)] 8 { fetch := true } with
  | .ok ps =>
    let bs := ps.flatMap Prod.snd
    if c.e.pc.toNat % 8 ≠ 0 ∨ bs.any (fun (pg, off) => get false s.badMem (lineId pg (off / 64 * 64)) || s.linkDown c.part pg) then none
    else some (BitVec.ofNat 64 (numLE (bs.map (fun (pg, off) => s.readByte c.part pg off))))
  | .fault _ _ _ => none

/-- What the next word of a warp waits for. -/
def State.nextWait (s : State) (core slot : Nat) : Option Block :=
  let w := s.warp core slot
  match w.frontier with
  | [] => none
  | e :: _ =>
    let c := s.ctxAt (.warp core slot) w e (hdrOf (.illegal 0))
    match s.peekWord c with
    | none => if w.heldUp then some .hold else none
    | some x =>
      let i := decodeWord x
      wordWait i { s.ctxAt (.warp core slot) w e (hdrOf i) with word := x } s

/-- The warp is blocked (02 R38). -/
def State.blocked (s : State) (core slot : Nat) : Bool := (s.nextWait core slot).isSome

end Sys2Proof.Machine
end

