-- ==== Sys2Proof/Machine/Journal.lean ====
section
/-! DEFINITION. A prologue's reads and the replay journal (18 R336, R337): recorded while EN is 1, and answered from it while REPLAY
is. -/
namespace Sys2Proof.Machine

/-- A prologue's read of up to 8 bytes: recorded, or under a replay the value recorded (18 R336, R337). -/
def prologueRead8 (c : Ctx) (s : State) (va : Nat) (bs : List Byte) : State × List Byte :=
  if (s.func c.func).jrnReplays then
    match s.jrnNext c.func 2 with
    | some (i, e) => (s.jrnTake c.func 2 i, (e.drop 24).take bs.length)
    | none => (s, bs)
  else (s.journal c.func 2 (c.lid % 2 ^ 32) va (numLE bs), bs)

/-- A prologue's read; one of 16 bytes makes two entries (DEDUCED, log 84). -/
def prologueRead (c : Ctx) (s : State) (va n : Nat) (bs : List Byte) : State × List Byte :=
  if n > 8 then
    let (s, x) := prologueRead8 c s va (bs.take 8)
    let (s, y) := prologueRead8 c s (va + 8) (bs.drop 8)
    (s, x ++ y)
  else prologueRead8 c s va bs

/-- The reads of a word, where a prologue issues it. -/
def prologueReads (c : Ctx) (s : State) (n : Nat) : List (Nat × Nat) → List (Nat × List Byte) → State × List (Nat × List Byte)
  | (l, a) :: es, (_, bs) :: r =>
    let (s, x) := prologueRead c s a n bs
    let (s, xs) := prologueReads c s n es r
    (s, (l, x) :: xs)
  | _, _ => (s, [])

end Sys2Proof.Machine
end

