-- ==== Sys2Proof/Machine/Launch.lean ====
section
/-! DEFINITION. Launches (13 R251-R257; 14 R261): when a context exists, how a launch enters the launch queue, the checks of
its record, its group table, the grid that it emits. -/
namespace Sys2Proof.Machine

/-! ### Contexts (14 R261) -/

/-- Some engine command, mass instruction or KV command of a function is in a core. -/
def Core.worksFor (k : Core) (f : Nat) : Bool :=
  k.copies.any (fun x => x.by_.func == f) || k.kvs.any (fun x => x.by_.func == f) ||
    k.scheds.any (fun (_, x) => x.sweeps.any (fun y => y.by_.func == f))

/-- A function has a context: a launch, a workgroup, an engine command, a collective or a completion of it is not over. -/
def State.hasContext (s : State) (f : Nat) : Bool :=
  s.launches.any (fun (_, l) => l.live && l.func == f) || (s.func f).ctx.saved != [] || (s.func f).ctx.diverged ||
    s.cores.any (fun (_, k) => k.worksFor f) || s.parts.any (fun (_, p) => p.colls.any (fun c => c.by_.func == f)) ||
    s.decs.any (fun d => d.func == f)

/-- The context is resident: its turn is on. -/
def State.residentNow (s : State) (p f : Nat) : Bool := (s.part p).turn == some f

/-- Contexts of a partition, in the order of its run queue. -/
def State.contexts (s : State) (p : Nat) : List Nat := (s.part p).runq.filter (fun f => s.hasContext f)

/-- Cycles charged to a context are taken from its deficit (14 R269). -/
def State.charge (s : State) (f : Nat) : State :=
  s.modFunc f (fun x => { x with ctx := { x.ctx with
    deficit := if x.ctx.charging then x.ctx.deficit - ((s.now - x.ctx.turnSince : Nat) : Int) else x.ctx.deficit, turnSince := s.now } })

/-- The charge of a context's turn begins, where it has not (14 R269). -/
def Context.beginCharge (x : Context) (now : Nat) : Context := if x.charging then x else { x with charging := true, turnSince := now }

/-- A function's first command or launch opens its context: it joins the run queue with no more than its debt, and the turn of
the resident context is charged from now on, if it was not (14 R261, R269). -/
def State.openContext (s : State) (p f : Nat) : State :=
  if s.hasContext f then s
  else
    let s := if s.residentNow p f then s.charge f else s
    let s := match (s.part p).turn with
      | some g => if s.contexts p = [] then s else s.modFunc g (fun x => { x with ctx := x.ctx.beginCharge s.now })
      | none => s
    let s := s.modFunc f (fun x => { x with ctx := { x.ctx with
      deficit := min x.ctx.deficit 0, request := none, asked := false, placeRetries := 0, turnSince := s.now } })
    s.modPart p (fun x => { x with runq := x.runq.filter (fun g => g != f) ++ [f] })

/-! ### The launch queue (13 R252, R254) -/

/-- A fault record of firmware or the dispatcher, about a launch. -/
def State.launchRecord (s : State) (lid cause : Nat) (va : Nat) : FaultRec :=
  let l := s.launch lid
  { cause := cause, agent := 8, part := l.part, func := l.func, va := va, launch := lid % 2 ^ 32 }

/-- The launch ends with a status of its own and a record of that cause (13 R253). -/
def State.failLaunch (s : State) (lid status : Nat) (va : Nat) : State := (s.report (s.launchRecord lid status va)).endLaunch lid status

/-- The place of a counter for a reader or a decrement, or the fault with its record's address: HOST tier is a protection violation
(17 R304). -/
inductive CounterAt where
  | ok (ps : List (Page × Nat))
  | fault (cause flags va : Nat)
deriving DecidableEq, Repr

def State.counterPlace (s : State) (p f va : Nat) (acc : Access) : CounterAt :=
  match s.place p f va 4 acc with
  | .ok ps => if ps.any (fun (pg, _) => pg.tier == 2) then .fault 9 acc.flags va else .ok ps
  | .fault c fl a => .fault c fl a

/-- The place of a counter's first byte. -/
def placeKey (ps : List (Page × Nat)) : Nat :=
  match ps with
  | (pg, off) :: _ => pg.place + off
  | [] => 0

/-- A launch whose turn it is to look at its dependence counter (13 R252). -/
def State.watchCtr (s : State) (lid : Nat) : State :=
  let l := s.launch lid
  let va := fieldW l.record 16 8
  if va = 0 then s.setLaunch lid { l with ready := true, heldPage := none }
  else
    match s.counterPlace l.part l.func (counterVa va) {} with
    | .fault c fl a =>
      if c = 9 then (s.reportProtect { s.launchRecord lid 9 va.toNat with flags := fl }).endLaunch lid 9
      else
        (s.reportPage { s.launchRecord lid c a with flags := fl }).setLaunch lid { l with heldPage := some a }
    | .ok ps =>
      let lines := placeLines ps
      let s := (s.findErrors l.part none (s.launchRecord lid 0x14 0) lines).heatLines l.part 0xFFFF lines
      if s.countAt (placeKey ps) = 0 then s.setLaunch lid { l with ready := true, heldPage := none }
      else s.setLaunch lid { l with ctrKey := some (placeKey ps), heldPage := none }

/-- A record enters a partition's launch queue with the next serial number (13 R254). Answers the launch id (DEDUCED, log 81). -/
def State.acceptLaunch (s : State) (p f : Nat) (src : Word) (record : List Byte) : State × Nat :=
  let s := s.openContext p f
  let n := (s.part p).nextLaunch
  let lid := launchId p n
  let s := s.modPart p (fun x => { x with nextLaunch := if n + 1 ≥ 2 ^ 32 then 1 else n + 1, queue := x.queue ++ [lid] })
  let s := s.setLaunch lid { noLaunch with live := true, func := f, part := p, src := src, record := record }
  let s := s.journal f 1 (lid % 2 ^ 32) src.toNat ((s.part p).queue.length - 1)
  (s.watchCtr lid, lid)

/-! ### Fields of a record (13 R251) -/

def Launch.entry (l : Launch) : Word := fieldW l.record 0 8
def Launch.prologueAt (l : Launch) : Word := fieldW l.record 64 8
def Launch.warps (l : Launch) : Nat := field l.record 80 1
def Launch.nregs (l : Launch) : Nat := field l.record 81 1 + 1
def Launch.pwRegs (l : Launch) : Nat := field l.record 82 1
def Launch.pwAcc (l : Launch) : Nat := field l.record 83 1
def Launch.pwSwap (l : Launch) : Nat := field l.record 84 1
def Launch.pwSum (l : Launch) : Nat := l.pwRegs + l.pwAcc + l.pwSwap
def Launch.allocField (l : Launch) : Nat := field l.record 85 1
def Launch.massField (l : Launch) : Nat := field l.record 86 1
def Launch.prio (l : Launch) : Nat := field l.record 87 1
def Launch.recGrid (l : Launch) : Nat × Nat × Nat := (field l.record 32 8, field l.record 40 8, field l.record 48 8)
def Launch.grouptab (l : Launch) : Nat := field l.record 56 8
def Launch.collAt (l : Launch) : Nat := field l.record 72 8
/-- Workgroups of the emitted grid. -/
def Launch.total (l : Launch) : Nat := l.nx * l.ny * l.nz

/-- Extents that no check refuses. -/
def gridOk (x y z : Nat) : Bool :=
  decide (x ≤ 2 ^ 32) && decide (y ≤ 2 ^ 32) && decide (z ≤ 2 ^ 32) && decide (x * y * z ≤ 2 ^ 32)

/-- The ILLEGAL check of a record, but for its group image (13 R253). -/
def Launch.recordBad (l : Launch) : Bool :=
  (l.record.drop 89).any (fun b => b != 0) || decide (l.prio ≥ 8) || decide (field l.record 88 1 ≥ 16) ||
    decide (field l.record 88 1 / 2 % 8 ≥ 6) || decide (l.entry.toNat % 8 ≠ 0) || decide (l.prologueAt.toNat % 8 ≠ 0) ||
    decide (l.warps < 1) || decide (l.warps > 16) || decide (l.massField > 4) ||
    (let (x, y, z) := l.recGrid
     !gridOk x y z)

/-! ### Group tables (15 R283, R284) -/

/-- Entry g of an image. -/
def groupRow (img : List Byte) (g : Nat) : GroupRow :=
  let o := 16 * (g - 1)
  { kind := field img o 1, handler := field img (o + 1) 1, tcount := field img (o + 2) 1
    mask := BitVec.ofNat 16 (field img (o + 4) 2), scount := field img (o + 6) 2, first := field img (o + 8) 4
    stride := field img (o + 12) 4 }

/-- An entry with a reserved KIND or a value in a field that its kind does not use. -/
def GroupRow.bad (r : GroupRow) (g : Nat) : Bool :=
  decide (r.kind > 4) || (r.kind != 3 && (r.handler != 0 || r.tcount != 0)) ||
    (r.kind != 2 && (r.scount != 0 || r.first != 0 || r.stride != 0)) || (r.kind == 0 && r.mask != 0) ||
    (r.kind == 2 && (r.scount == 0 || (r.stride != 0 && decide (r.stride < r.scount)))) ||
    (r.kind == 3 && (decide (r.handler > 15) || r.tcount == 0 || decide (r.tcount > 16) || decide (g + r.tcount > 256)))

def groupNums : List Nat := (List.range 255).map (fun i => i + 1)

/-- An image that completes the launch with ILLEGAL: a bad entry, a TEAM whose teams are not TEAMX, a TEAMX of no TEAM. -/
def imageBad (img : List Byte) : Bool :=
  let rows := groupNums.map (fun g => (g, groupRow img g))
  let teamx := rows.flatMap (fun (g, r) => if r.kind = 3 then (List.range (r.tcount - 1)).map (fun i => g + 1 + i) else [])
  rows.any (fun (g, r) => r.bad g || field img (16 * (g - 1) + 3) 1 != 0 || (r.kind == 4) != teamx.contains g)

/-- The used entries of an image. -/
def groupTable (img : List Byte) : Sparse GroupRow := groupNums.foldl (fun t g => put {} t g (groupRow img g)) []

/-! ### SPAN groups (02 R29, R43; 15 R284) -/

def Launch.spans (l : Launch) : List GroupRow := (l.groups.map Prod.snd).filter (fun r => r.kind == 2)

/-- One past the last workgroup of the run that a workgroup lies in. -/
def GroupRow.runEnd (r : GroupRow) (lin : Nat) : Nat :=
  match r.run lin with
  | some k => r.first + k * r.stride + r.scount
  | none => lin + 1

/-- One past the last workgroup placed together with those from `lin` on: the runs that overlap are taken as one. -/
def spanEnd (spans : List GroupRow) (total : Nat) : Nat → Nat → Nat → Nat
  | 0, _, e => e
  | n + 1, lin, e =>
    if lin ≥ e then e
    else spanEnd spans total n (lin + 1) (spans.foldl (fun e r => max e (min total (r.runEnd lin))) e)

/-- The workgroups from `lin` that are placed together: a SPAN run, or one workgroup. -/
def Launch.unit (l : Launch) (lin : Nat) : List Nat :=
  if l.spans = [] then [lin]
  else (List.range (spanEnd l.spans l.total l.total lin (lin + 1) - lin)).map (fun i => lin + i)

/-- Workgroups that begin a run, within a grid. -/
def GroupRow.starts (r : GroupRow) (total : Nat) : List Nat :=
  if r.first ≥ total then []
  else if r.stride = 0 then [r.first]
  else (List.range ((total - r.first + r.stride - 1) / r.stride)).map (fun k => r.first + k * r.stride)

/-- Groups 1 to 255 that hold a work warp of a workgroup, in ascending order. -/
def Launch.warpGroups (l : Launch) (lin num : Nat) : List Nat :=
  (l.groups.filter (fun (_, r) => r.mask.getLsbD num && (r.kind == 1 || (r.kind == 2 && (r.run lin).isSome)))).map Prod.fst

/-- Some warp of some workgroup lies in more than four groups; the number of groups is greatest where a run begins, or in a
workgroup of no run (02 R29). -/
def Launch.overFour (l : Launch) (total : Nat) : Bool :=
  decide (total > 0) && (0 :: l.spans.flatMap (fun r => r.starts total)).any (fun lin =>
    (List.range l.warps).any (fun n => decide ((l.warpGroups lin n).length > 3)))

/-! ### Capacity (09 R167; 02 R43) -/

/-- Banks that a workgroup takes on a core. -/
def Launch.allocOn (l : Launch) (k : Core) : Nat := if l.allocField = 0 then k.banks else l.allocField
/-- Workgroups that an empty core holds. -/
def Launch.coreHolds (l : Launch) (k : Core) : Nat :=
  let a := l.allocOn k
  if a = 0 ∨ k.banks < max a l.pwSum then 0
  else min (64 / l.warps) (min (if l.allocField = 0 then 1 else k.banks / a) (if l.massField = 0 then 64 else 4 / l.massField))

/-- The condition of R167. -/
def State.noRoom (s : State) (l : Launch) : Bool :=
  (l.allocField != 0 && decide (l.pwSum > l.allocField)) || decide (l.nregs * 512 > l.pwRegs * 32768) ||
    ((s.part l.part).coreList).all (fun c => decide ((s.core c).banks < max l.allocField l.pwSum))

/-- The largest set of workgroups that a SPAN group places together exceeds what the partition holds at once. -/
def State.spanTooLarge (s : State) (l : Launch) (total : Nat) : Bool :=
  let held := (s.part l.part).coreList.foldl (fun n c => n + l.coreHolds (s.core c)) 0
  (l.spans.flatMap (fun r => r.starts total)).any (fun lin => decide (spanEnd l.spans total total lin (lin + 1) - lin > held))

/-- PLACE: the checks over a grid. -/
def State.placeBad (s : State) (l : Launch) (total : Nat) : Bool := l.overFour total || s.spanTooLarge l total || s.noRoom l

/-! ### Emission (13 R256) -/

/-- A bound collective of a launch with no workgroups: one that carries nothing (17 R315, R317). -/
def State.emptyColl (s : State) (lid : Nat) : State :=
  let l := s.launch lid
  match l.coll with
  | none => s
  | some d =>
    s.accepted.modPart l.part (fun p => { p with colls := p.colls ++
      [{ by_ := { slot := 0, wg := 0, serial := s.nextCmd, func := l.func, part := l.part, lid := lid, warpNum := 0xFF, pc := 0, word := 0 }
         core := 0xFFFF, desc := d, slice := some 0, nwg := 0, status := if l.collAt % 64 = 0 then 0 else 1 }] })

/-- Emit: the grid and its argument are taken, and the launch is dispatched, in the launch queue until all its workgroups are (12 R223);
with no workgroup it is RUNNING at once. -/
def State.emit (s : State) (lid x y z : Nat) (arg : Word) : State :=
  let l := s.launch lid
  let n := (s.part l.part).nextOrder
  let s := s.modPart l.part (fun p => { p with
    nextOrder := n + 1
    queue := if x * y * z = 0 then p.queue.filter (fun i => i != lid) else if p.queue.contains lid then p.queue else p.queue ++ [lid] })
  let s := s.setLaunch lid { l with nx := x, ny := y, nz := z, arg := arg, next := 0, retired := 0, order := n
                                    state := if x * y * z = 0 then .running else .dispatching }
  if x * y * z = 0 then s.emptyColl lid else s

/-- The checks of an emitted grid: the status of the first that fails (13 R253). -/
def State.emitBad (s : State) (lid x y z : Nat) : Option Nat :=
  let l := s.launch lid
  if !gridOk x y z then some 1 else if s.placeBad l (x * y * z) then some 0x17 else none

end Sys2Proof.Machine
end

