-- ==== Sys2Proof/Machine/Time.lean ====
section
/-! DEFINITION. The passing of cycles: the clocks (01 R11; 18 R330), the waiting counters of ready warps (02 R37), the
cycle events of the warps' counters (18 R327), the stall charges of walks (12 R230, R233, R343). -/
namespace Sys2Proof.Machine

/-- A walk's next step waits, after its first step has begun (12 R343). -/
def Walk.waiting (w : Walk) : Bool :=
  (w.state == .running || w.state == .stalled) && !w.multiplying && !w.inBlock && decide (w.begun > 0) && decide (w.begun < w.totalSteps)

/-- A drain of the walk has not been accepted, and the walk multiplies nothing (12 R233). -/
def Walk.drainWaiting (w : Walk) : Bool :=
  w.drainSince.isSome && !w.multiplying && (w.state == .running || w.state == .stalled || w.state == .finishing)

/-- The cycles of one wait charged: to the handler of each slot that is not READY, or to the consumer or the drain where
only the buffer is missing. Answers the charges too (DEDUCED, log 62). -/
def Walk.charge (w : Walk) (dt : Nat) : Walk × Nat :=
  let g := w.begun
  let a := w.waiting && !w.readyA g
  let bs := (w.stepsB g).map (fun h => w.waiting && !w.readyB h)
  let b := bs.getD 0 false
  let v := bs.getD 1 false
  let only := w.waiting && !a && !b && !v && !w.bufferReady g
  let peer := w.drainWaiting
  let c := only && !peer
  let d (x : Bool) : Nat := if x then dt else 0
  ({ w with stalls := { a := w.stalls.a + d a, b := w.stalls.b + d b, v := w.stalls.v + d v, c := w.stalls.c + d c
                        drain := w.stalls.drain + d peer } }, d a + d b + d v + d c + d peer)

/-- One warp's cycles from `now` on: the cycle in which it has issued is none in which it waits READY (02 R37; 18 R327). -/
def Warp.tick (w : Warp) (blocked : Bool) (now dt : Nat) : Warp :=
  match w.state with
  | .ready =>
    let n := if w.sched.issuedAt = some now then dt - 1 else dt
    let w := w.count 3 n
    if blocked then w else { w with sched := { w.sched with waited := w.sched.waited + n } }
  | .parked _ => w.count 4 dt
  | .swapped _ => w.count 5 dt
  | _ => w

/-- One core's cycles. -/
def State.tickCore (s : State) (core dt : Nat) : State :=
  let k := s.core core
  let k2 : Core := { k with warps := k.warps.map (fun (i, (w : Warp)) => (i, w.tick (s.blocked core i) s.now dt)) }
  let charged := k2.walks.map (fun (w : Walk) => w.charge dt)
  let k3 : Core := { k2 with walks := charged.map Prod.fst }
  let k4 : Core := charged.foldl (fun (k : Core) ((w, n) : Walk × Nat) =>
    if n = 0 then k
    else { k with warps := k.warps.map (fun ((i, x) : Nat × Warp) => if i = w.slot ∧ x.wg = w.wg then (i, x.count 0x0A n) else (i, x)) }) k3
  s.setCore core k4

/-- A partition whose other contexts have all ended has one context, and its turn is charged no further (14 R269). -/
def State.settleCharge (s : State) (p : Nat) : State :=
  match (s.part p).turn with
  | none => s
  | some f =>
    if (s.func f).ctx.charging ∧ (s.contexts p).length < 2 then
      (s.charge f).modFunc f (fun x => { x with ctx := { x.ctx with charging := false } })
    else s

/-- `dt` cycles pass on every core. -/
def State.advanceTime (s : State) (dt : Nat) : State :=
  if dt = 0 then s
  else
    let s := (s.parts.map Prod.fst).foldl (fun s p => s.settleCharge p) s
    let s := s.coreNums.foldl (fun s c => s.tickCore c dt) s
    { s with now := s.now + dt, wall := s.wall + dt * (720720 / max 1 s.step) }

end Sys2Proof.Machine
end

