-- ==== Sys2Proof/Machine/Turn.lean ====
section
/-! DEFINITION. What a turn of the agenda does before an instruction runs: which warp of a scheduler issues (02 R35-R37), the
fetch of its word (03 R64). -/
namespace Sys2Proof.Machine

/-- The instruction is a step of an engine, of firmware, of the host or of a link, not a word. -/
def isEvent (i : Instr) : Bool := i.wf && decide (encode i = 0)

/-- The admission order of a warp: earliest first (02 R35). -/
def State.oldest (s : State) (core : Nat) (slots : List Nat) : Option Nat :=
  slots.foldl (fun best i =>
    match best with
    | none => some i
    | some j => if (s.warp core i).sched.order < (s.warp core j).sched.order then some i else some j) none

/-- The slots of one scheduler. -/
def schedSlots (sched : Nat) : List Nat := (List.range 16).map (fun i => sched * 16 + i)

/-- A warp that another waits for after its YIELD: it has stayed READY since, and has issued nothing (07 R136). -/
def State.stillReady (s : State) (core : Nat) (j : Nat × Nat × Nat) : Bool :=
  let w := s.warp core j.1
  w.state == .ready && w.sched.order == j.2.1 && w.sched.stints == j.2.2

/-- A READY warp that may be selected: not blocked, not held at a boundary, past its YIELD (02 R35, R38; 07 R136). -/
def State.selectable (s : State) (core slot : Nat) : Bool :=
  let w := s.warp core slot
  w.state == .ready && !s.blocked core slot && !w.sched.held && !(w.sched.yieldFor.any (fun j => s.stillReady core j))

/-- A warp that issues within its scheduler's gap cycles: the oldest other that is selectable and in no gap itself (02 R36). -/
def State.gapFiller (s : State) (core sched : Nat) : Option Nat :=
  s.oldest core ((schedSlots sched).filter (fun i => s.selectable core i && decide ((s.warp core i).sched.gapUntil ≤ s.now)))

/-- One promoted warp goes before another: the earlier promoted, then the earlier READY (02 R37). -/
def Sched.promotedBefore (a b : Sched) : Bool :=
  let x := a.promoted.getD 0
  let y := b.promoted.getD 0
  decide (x < y) || (x == y && decide (a.readySince < b.readySince))

/-- The promoted READY warp that the ISSUING one hands over to: the earliest promoted (02 R37); of several equal in both times the
lowest slot (DESIGN CHOICE, log 113). -/
def State.nextPromoted (s : State) (core sched : Nat) : Option Nat :=
  ((schedSlots sched).filter (fun i => s.selectable core i && (s.warp core i).sched.promoted.isSome)).foldl (fun best i =>
    match best with
    | none => some i
    | some j => if (s.warp core i).sched.promotedBefore (s.warp core j).sched then some i else some j) none

/-- The warp that a scheduler with none ISSUING selects: the earliest promoted, whose turn is of one word, else the
earliest admitted (02 R35, R37) (DEDUCED, log 120). -/
def State.nextSelected (s : State) (core sched : Nat) : Option Nat :=
  match s.nextPromoted core sched with
  | some i => some i
  | none => s.oldest core ((schedSlots sched).filter (fun i => s.selectable core i))

/-- A READY warp becomes ISSUING (02 R24). -/
def State.select (s : State) (core slot : Nat) (promoted : Bool) : State :=
  let s := s.modWarp core slot (fun w => { w with state := .issuing, sched := { w.sched with yieldFor := [] } })
  s.modCore core (fun k => k.modSched (slot / 16) (fun x => { x with issuing := some slot, promotedTurn := promoted }))

/-- The hand-over to a promoted warp, at a word boundary of a turn that is not promoted itself (02 R37). -/
def State.handOver (s : State) (core sched : Nat) : State :=
  let x := (s.core core).sched sched
  match x.issuing, s.nextPromoted core sched with
  | some slot, some j => if x.promotedTurn then s else (s.yieldTurn core slot).select core j true
  | _, _ => s

/-- The warp that issues a word in this cycle, where the scheduler has issued none in it: the ISSUING one, or another during
its gap (02 R35, R36). -/
def State.issueSlot (s : State) (core sched : Nat) : Option Nat :=
  let x := (s.core core).sched sched
  match x.issuing with
  | none => none
  | some slot =>
    if x.lastIssue = some s.now then none
    else if (s.warp core slot).sched.gapUntil ≤ s.now then (if (s.warp core slot).sched.held then none else some slot)
    else s.gapFiller core sched

/-- The word at an address of a context's address space (03 R64) (DEDUCED, log 58): the fetch is an access of the warp, which
finds errors and is sampled as a read is (09 R178, R182, R185). Answers the state after it, the same without its samples, and the
word. -/
def fetchWord (c : Ctx) (s : State) : Except State (State × State × Word) :=
  match s.placeAll c.part c.func [(0, c.e.pc.toNat)] 8 { fetch := true } with
  | .fault cause fl va => .error (if cause = 9 ∨ c.e.pc.toNat % 8 ≠ 0 then freezeAt c s 0 va fl else parkFault c s cause 0 va fl)
  | .ok ps =>
    if c.e.pc.toNat % 8 ≠ 0 then .error (freezeAt c s 0 c.e.pc.toNat 2)
    else
      let (t, vals) := readPlaces c s ps
      .ok (t, s.findErrors c.part c.owner { (recordFor c 0x14 0) with pc := 0 } (placeLines (ps.flatMap Prod.snd)),
        BitVec.ofNat 64 (numLE (vals.flatMap Prod.snd)))

/-- What the issuer does in a step: a word to run, or a state that the step ends in. A word that parks on page-fault replay issues
again, as if only then: it runs from `back`, in which its fetch has not been sampled (23 R351). -/
inductive Fetched where
  | run (s back : State) (w : Word)
  | halt (s : State)
deriving DecidableEq, Repr

/-- A prologue whose run has 65,536 words and has not ended: its launch completes with ILLEGAL (13 R255). -/
def State.prologueOver (s : State) (p : Nat) : Option State :=
  match (s.part p).prologue with
  | none => none
  | some r =>
    if r.words < 65536 then none
    else
      let l := s.launch r.lid
      some (s.stopLaunch r.lid 1 none { cause := 1, agent := 6, part := l.part, func := l.func, launch := r.lid % 2 ^ 32 })

/-- The launch of the issuing prologue ends, its run being too long. -/
def State.overrun (s : State) : Option State :=
  match s.cur with
  | .prologue p => s.prologueOver p
  | .warp _ _ => none

/-- A word that uses v registers meets a single error of the register region, which is corrected and counted (09 R184). -/
def State.fixReg (s : State) (k : Nat) (word : Word) : State :=
  if (s.wg k).softReg && usesV (decodeWord word) then s.modWg k (fun g => { g with softReg := false, corr := g.corr + 1 }) else s

/-- The issuer is parked on page-fault replay (10 R189). -/
def State.replays (s : State) (who : Issuer) : Bool :=
  match (s.issuerWarp who).state with
  | .parked (.replay _) => true
  | _ => false

/-- The issuer fetches its next word. -/
def State.fetch (s : State) : Fetched :=
  match s.overrun with
  | some t => .halt t
  | none =>
  match s.issuer with
  | none => .halt s
  | some (w, e) =>
    match fetchWord (s.ctx w e (hdrOf (.illegal 0))) s with
    | .ok (s2, back, word) => .run (s2.fixReg w.wg word) (back.fixReg w.wg word) word
    | .error s2 => .halt s2

/-- The prologue issues, or a scheduler's warp does, or nothing. -/
def State.issueTurn (s : State) (core sched : Nat) : Fetched :=
  let s := s.handOver core sched
  match s.issueSlot core sched with
  | none => .halt s
  | some slot => State.fetch { s with cur := .warp core slot }

end Sys2Proof.Machine
end

