-- ==== Sys2Proof/Machine/Control.lean ====
section
/-! DEFINITION. The control and system instructions, majors 0x01-0x0F (07 R132-R146), and the issue of a word that is not an
instruction (03 R61-R62). -/
namespace Sys2Proof.Machine

/-- The outcome of a step. -/
abbrev Out := Host.Outcome State Fault Refusal

/-- NOP (07 R138). -/
def execNop (h : Hdr) (s : State) : Out := issueWord (.nop h) (fun _ s => .done s []) s

/-- The word that is not an instruction stops at its check (03 R61, R62). -/
def execIllegal (w : BitVec 64) (s : State) : Out := issueWord (.illegal w) (fun _ s => .over s) s

/-! ### Branches (07 R132, R133) -/

/-- The lanes that take a branch. -/
def takers (c : Ctx) (kind : BraKind) : LaneMask :=
  match kind with
  | .lane => c.act
  | .any => if c.act = 0 then 0 else c.e.lanes
  | .all => if c.act = c.e.lanes then c.e.lanes else 0

/-- The target of BRA and CALL: the branch word's address plus 8 times the offset (03 R49). -/
def braTarget (c : Ctx) (off : BitVec 32) : Word := c.e.pc + 8 * off.signExtend 64

/-- The entries that a branch makes of the issuing one. -/
def braEntries (c : Ctx) (kind : BraKind) (tp fp : BitVec 8) (off : BitVec 32) : List Entry :=
  [{ prio := tp, pc := braTarget c off, lanes := takers c kind },
   { prio := fp, pc := c.e.pc + 8, lanes := c.e.lanes &&& ~~~takers c kind }]

def execBra (h : Hdr) (kind : BraKind) (tp fp : BitVec 8) (off : BitVec 32) (s : State) : Out :=
  issueWord (.bra h kind tp fp off) (fun c s => .jump s (braEntries c kind tp fp off)) s

/-- CALL also writes s63 with the next word's address where a lane takes it. -/
def execCall (h : Hdr) (kind : BraKind) (tp fp : BitVec 8) (off : BitVec 32) (s : State) : Out :=
  issueWord (.call h kind tp fp off) (fun c s =>
    .jump (if takers c kind = 0 then s else s.modIssuer c.who (fun w => w.writeS 63 (c.e.pc + 8))) (braEntries c kind tp fp off)) s

/-- Active lanes whose target is not a multiple of 8. -/
def badTargets (c : Ctx) (a : Operand) : LaneMask :=
  maskOf (fun l => c.act.getLsbD l && decide (bits (src64 c a l) 0 3 ≠ 0))

/-- One entry for each distinct target, and the inactive lanes at the next word. -/
def brxEntries (c : Ctx) (a : Operand) (tp fp : BitVec 8) : List Entry :=
  let targets := ((lanesOf c.act).map (fun l => src64 c a l)).eraseDups
  targets.map (fun t => { prio := tp, pc := t, lanes := maskOf (fun l => c.act.getLsbD l && src64 c a l == t) }) ++
    [{ prio := fp, pc := c.e.pc + 8, lanes := c.e.lanes &&& ~~~c.act }]

def brxBody (a : Operand) (tp fp : BitVec 8) (c : Ctx) (s : State) : Res :=
  let bad := badTargets c a
  if bad ≠ 0 then .trap s 7 bad (src64 c a (lowestLane bad)) else .jump s (brxEntries c a tp fp)

def execBrx (h : Hdr) (a : Operand) (tp fp : BitVec 8) (s : State) : Out := issueWord (.brx h a tp fp) (brxBody a tp fp) s
/-- RET has exactly the effect of BRX. -/
def execRet (h : Hdr) (a : Operand) (tp fp : BitVec 8) (s : State) : Out := issueWord (.ret h a tp fp) (brxBody a tp fp) s

/-- The issuing entry without its active lanes, at the next word. -/
def withoutActive (c : Ctx) : List Entry := [{ c.e with pc := c.e.pc + 8, lanes := c.e.lanes &&& ~~~c.act }]

/-- EXIT removes its active lanes; a warp with no entries left retires (07 R134; 02 R33). -/
def exitBody (i : Instr) (c : Ctx) (s : State) : Res :=
  match c.who with
  | .prologue _ => .stop s 1 0
  | .warp core slot =>
    if c.act = 0 then .done s []
    else
      let s2 := (Res.jump s (withoutActive c)).apply i c
      .over (if (s2.warp core slot).frontier = [] then s2.retireWarp core slot else s2)

def execExit (h : Hdr) (s : State) : Out := issueWord (.exit h) (exitBody (.exit h)) s

/-! ### Waiting (07 R135-R137) -/

/-- The word is performed, and the warp parks. -/
def parkAfter (i : Instr) (c : Ctx) (s : State) (p : Park) : Res :=
  match c.who with
  | .warp core slot => .over (((Res.done s []).apply i c).parkWarp core slot p)
  | .prologue _ => .stop s 1 0

/-- PARK.ctr: the counter is read as a load of the warp; a counter on a HOST page is a protection violation (17 R304). -/
def parkCtrBody (i : Instr) (a : BitVec 6) (c : Ctx) (s : State) : Res :=
  let va := (c.w.readS a.toNat).toNat
  if c.act = 0 then .done s []
  else if va % 4 ≠ 0 then .trap s 7 c.act (BitVec.ofNat 64 va)
  else
    match s.placeAll c.part c.func [(0, va)] 4 {} with
    | .fault cause fl v => memFault c s (encode i) cause fl v
    | .ok ps =>
      match ps with
      | [(_, (pg, off) :: _)] =>
        if pg.tier = 2 then memFault c s (encode i) 9 0 va
        else
          let s := (readPlaces c s ps).1
          let k := pg.place + off
          if s.countAt k = 0 then .done s [] else parkAfter i c s (.counter k va)
      | _ => .done s []

def execParkCtr (h : Hdr) (a : BitVec 6) (s : State) : Out := issueWord (.parkCtr h a) (parkCtrBody (.parkCtr h a) a) s

/-- A handler warp that parks on a walk one deeper, of its workgroup, promotes it: its own walk is suspended at its next
K-step boundary (12 R238). -/
def State.promoteWalk (s : State) (core : Nat) (w : Warp) (y : Walk) : State :=
  match s.handlerWalk core w with
  | none => s
  | some x =>
    match (s.core core).walk x with
    | none => s
    | some k =>
      if y.depth = k.depth + 1 ∧ y.wg = w.wg then
        s.modWalk core x (fun k => { k with promoted := k.promoted ++ [y.wid]
                                            state := if !k.multiplying && !k.inBlock && (k.state == .running || k.state == .stalled) then .suspended else k.state })
      else s

/-- PARK.walk: an id that names no walk in flight of the workgroup does not park (07 R135). -/
def parkWalkBody (i : Instr) (a : BitVec 6) (c : Ctx) (s : State) : Res :=
  if c.act = 0 then .done s []
  else
    let wid := bits (c.w.readS a.toNat) 0 32
    match (s.core c.core).walk wid with
    | none => .done s []
    | some y =>
      if y.state = .done ∨ y.wg ≠ c.wgk then .done s []
      else parkAfter i c (s.promoteWalk c.core c.w y) (.walk wid)

def execParkWalk (h : Hdr) (a : BitVec 6) (s : State) : Out := issueWord (.parkWalk h a) (parkWalkBody (.parkWalk h a) a) s

/-- YIELD ends the turn; the warp waits for every other warp READY on its scheduler now (07 R136). -/
def yieldBody (i : Instr) (c : Ctx) (s : State) : Res :=
  match c.who with
  | .prologue _ => .stop s 1 0
  | .warp core slot =>
    if c.act = 0 then .done s []
    else
      let others := ((schedSlots (slot / 16)).filter (fun j => j != slot && (s.warp core j).state == .ready)).map
        (fun j => (j, (s.warp core j).sched.order, (s.warp core j).sched.stints))
      let s2 := ((Res.done s []).apply i c).yieldTurn core slot
      .over (s2.modWarp core slot (fun w => { w with sched := { w.sched with yieldFor := others } }))

def execYield (h : Hdr) (s : State) : Out := issueWord (.yield h) (yieldBody (.yield h)) s

/-- The group names nothing that the warp can arrive at: an unused row, or no membership (07 R137; 02 R30). -/
def badGroup (c : Ctx) (g : Nat) : Bool :=
  let k := (c.launch.group g).kind
  k == 0 || !c.w.memberOf g

/-- The arrival of the warp at a group, its word performed: it parks unless the barrier is complete (02 R27, R30). -/
def arriveBody (i : Instr) (g : Nat) (flush : Bool) (c : Ctx) (s : State) : Res :=
  match c.who with
  | .prologue _ => .stop s 1 0
  | .warp core slot =>
    if c.act = 0 then .done s []
    else if badGroup c g then .stop s 1 (BitVec.ofNat 64 g)
    else
      let s2 := (((Res.done s []).apply i c).arrive c.wgk g slot flush).completeBarrier c.wgk g
      .over (if s2.hasArrived c.wgk g slot then s2.parkWarp core slot (.barrier g) else s2.lastArrival core slot)

def execBar (h : Hdr) (g : BitVec 8) (s : State) : Out := issueWord (.bar h g) (arriveBody (.bar h g) g.toNat false) s

/-! ### Traps (07 R145, R146) -/

/-- TRAP raises USER with the active lanes and the code. -/
def execTrap (h : Hdr) (code : BitVec 16) (s : State) : Out :=
  issueWord (.trap h code) (fun c s => if c.act = 0 then .done s [] else .trap s 6 c.act (code.setWidth 64)) s

/-- The launch's debug flag (13 R251). -/
def Launch.debug (l : Launch) : Bool := field l.record 88 1 % 2 == 1

/-- BKPT raises USER under the debug flag, and is a NOP otherwise. -/
def execBkpt (h : Hdr) (code : BitVec 16) (s : State) : Out :=
  issueWord (.bkpt h code) (fun c s =>
    if c.act = 0 ∨ c.launch.debug = false then .done s [] else .trap s 6 c.act (code.setWidth 64 ||| 0x20000)) s

/-- TRET: the handler must have reconverged; the saved frontier returns (07 R145). -/
def tretBody (skip : Bool) (c : Ctx) (s : State) : Res :=
  if c.act = 0 then .done s []
  else if c.w.trap.intrap = false ∨ (c.w.frontier ++ c.w.spilled).length > 1 then .stop s 1 0
  else .stay (s.modIssuer c.who (fun w => returnTrap w s.now skip)) []

def execTretRetry (h : Hdr) (s : State) : Out := issueWord (.tretRetry h) (tretBody false) s
def execTretSkip (h : Hdr) (s : State) : Out := issueWord (.tretSkip h) (tretBody true) s

/-! ### CSRs and shapes (07 R139, R140) -/

def execCsrr (h : Hdr) (d : Operand) (csr : BitVec 12) (s : State) : Out :=
  issueWord (.csrr h d csr) (fun c s =>
    let x := readCsr c s csr.toNat
    .done (s.modIssuer c.who (fun w => writeDst c w d (fun _ => x))) []) s

/-- CSRW of one CSR. -/
def csrwBody (i : Instr) (csr : BitVec 12) (a : Operand) (c : Ctx) (s : State) : Res :=
  let x := src64 c a 0
  if c.act = 0 then .done s []
  else if csr = 0x106 then
    match writeKvtab c s (encode i) x with
    | .ok s2 => .done s2 []
    | .error r => r
  else if csr.toNat < 0x100 then .done (s.modIssuer c.who (fun w => w.writeCsr csr.toNat x)) []
  else .done (s.modWg c.wgk (fun g => g.writeCsr s.now csr.toNat x)) []

def execCsrw (h : Hdr) (csr : BitVec 12) (a : Operand) (s : State) : Out :=
  issueWord (.csrw h csr a) (csrwBody (.csrw h csr a) csr a) s

def execShape (h : Hdr) (a b : Operand) (s : State) : Out :=
  issueWord (.shape h a b) (fun c s =>
    let x := src64 c a 0
    let y := src64 c b 0
    let g := shapeGrant (c.wg.awlimit - c.wg.awbase) (bits x 0 32) (bits x 32 32) (bits y 0 32)
    if c.act = 0 then .done s [] else .done (s.modIssuer c.who (fun w => { w with shapeg := BitVec.ofNat 64 g })) []) s

end Sys2Proof.Machine
end

