-- ==== Sys2Proof/Machine/Memory.lean ====
section
/-! DEFINITION. The memory instructions, majors 0x60-0x6F (10 R186-R210, R347, R349; 05 R95): each word's accesses are
performed at its issue (DESIGN CHOICE, log 5). -/
namespace Sys2Proof.Machine

/-! ### LD and ST (10 R191, R192) -/

/-- A device-memory word performed (18 R327). -/
def countDev (c : Ctx) (s : State) : State := s.modIssuer c.who (fun w => w.count 7 1)

/-- Cycles lost to bank conflicts (18 R327). -/
def countBanks (c : Ctx) (s : State) (es : List (Nat × Nat)) (n : Nat) : State :=
  s.modIssuer c.who (fun w => w.count 9 (bankConflicts c.wg es n))

/-- The rows that an access of the accumulators reaches, with their lanes and columns; W = 64 makes it one row (10 R192). -/
def accElems (c : Ctx) (base : BitVec 6) (off : BitVec 20) (hi : Bool) : List (Nat × Nat × Nat) :=
  let a := (fmBase c base off).toNat
  (lanesOf c.act).map (fun l => (l, a + l / 64, (if hi then 64 else 0) + l % 64))

/-- The first row outside the window (09 R175). -/
def accOutside (c : Ctx) (es : List (Nat × Nat × Nat)) : Option Nat :=
  (es.find? (fun (_, r, _) => decide (r < c.wg.awbase) || decide (r ≥ c.wg.awlimit))).map (fun (_, r, _) => r)

/-- The AWIN trap of a row outside the window (09 R175). -/
def awinTrap (c : Ctx) (s : State) (row : Nat) : Res := .trap s 0x0B c.act (BitVec.ofNat 64 (row % 65536))

/-- LD from device memory. -/
def ldGlobal (i : Instr) (w : Width) (base : BitVec 6) (off : BitVec 20) (d : Operand) (c : Ctx) (s : State) : Res :=
  let es := fmElems c base off (widthBytes w) d
  match devLoad c s (encode i) es (widthBytes w) with
  | .error r => r
  | .ok (s2, vals) =>
    let (s3, vals) := if c.front then prologueReads c s2 (widthBytes w) es vals else (s2, vals)
    fly c (countDev c s3) (loadWrites c w d vals)

/-- A full-empty load parks: it has issued, with its lookahead window, its turn ends where its word ends turns, and it is performed
at its wake (02 R28, R36, R37; 03 R57; 09 R173; 18 R327). -/
def State.parkFe (s : State) (c : Ctx) (core slot : Nat) (i : Instr) (regs : List Reg) (gs : List Nat) (take : Bool) : State :=
  ((s.modWarp core slot (fun x => { x.issued s.now i c.e.pc regs with feLoad := some i })).endTurn c (hdrOf i).gw).parkWarp core slot
    (.granules gs take)

/-- LD from the scratchpad; a full-empty load whose granules are not all full parks with its word not performed (09 R173). -/
def ldScratch (i : Instr) (mode : FeMode) (w : Width) (base : BitVec 6) (off : BitVec 20) (d : Operand) (c : Ctx) (s : State) : Res :=
  let n := widthBytes w
  let es := fmElems c base off n d
  match mode with
  | .keep | .take =>
    let gs := accessGranules c.wg es n
    (match c.who with
      | .warp core slot =>
        if c.wg.allFull gs then feLoad c s mode w base off d
        else .over (s.parkFe c core slot i (writeRegs (loadWrites c w d [])) gs (mode == .take))
      | .prologue _ => .stop s 1 0)
  | _ =>
    let (s2, vals) := spLoad c s es n 0 false
    fly c (countBanks c s2 es n) (loadWrites c w d vals)

/-- LD of accumulator rows. -/
def ldAcc (hi : Bool) (w : Width) (base : BitVec 6) (off : BitVec 20) (d : Operand) (c : Ctx) (s : State) : Res :=
  let es := accElems c base off hi
  match accOutside c es with
  | some row => awinTrap c s row
  | none =>
    let g := es.foldl (fun (g : Workgroup) (_, r, _) => g.accFind r) (s.wg c.wgk)
    fly c (s.setWg c.wgk g) (loadWrites c w d (es.map (fun (l, r, col) => (l, bytesLE 4 (g.accAt r col).toNat))))

def ldBody (i : Instr) (space : Space) (w : Width) (base : BitVec 6) (off : BitVec 20) (d : Operand) (c : Ctx) (s : State) : Res :=
  if c.act = 0 then .done s []
  else
    match space with
    | .g => ldGlobal i w base off d c s
    | .sp mode => ldScratch i mode w base off d c s
    | .acc hi => ldAcc hi w base off d c s

def execLd (h : Hdr) (space : Space) (ord : Order) (w : Width) (base : BitVec 6) (off : BitVec 20) (d : Operand) (s : State) : Out :=
  issueWord (.ld h space ord w base off d) (ldBody (.ld h space ord w base off d) space w base off d) s

/-- ST to device memory. -/
def stGlobal (i : Instr) (w : Width) (base : BitVec 6) (off : BitVec 20) (d : Operand) (c : Ctx) (s : State) : Res :=
  match devStore c s (encode i) (fmElems c base off (widthBytes w) d) (widthBytes w) (storeData c w d) with
  | .error r => r
  | .ok s2 => .done (countDev c s2) []

/-- ST to the scratchpad: elements out of range are recorded and dropped; `.fill` sets the granules afterwards (09 R170-R172). -/
def stScratch (mode : FeMode) (w : Width) (base : BitVec 6) (off : BitVec 20) (d : Operand) (c : Ctx) (s : State) : Res :=
  let n := widthBytes w
  let es := fmElems c base off n d
  let g := es.foldl (fun (g : Workgroup) (l, a) => (g.oobAt 1 (oobBy c s) a n).spWrite a (storeData c w d l)) (s.wg c.wgk)
  let s2 := countBanks c (s.setWg c.wgk g) es n
  .done (if mode = .fill then s2.fillGranules c.wgk (accessGranules g es n) else s2) []

/-- ST to accumulator rows. -/
def stAcc (hi : Bool) (w : Width) (base : BitVec 6) (off : BitVec 20) (d : Operand) (c : Ctx) (s : State) : Res :=
  let es := accElems c base off hi
  match accOutside c es with
  | some row => awinTrap c s row
  | none =>
    .done (s.modWg c.wgk (fun g => es.foldl (fun (g : Workgroup) (l, r, col) =>
      g.accPut r col (BitVec.ofNat 32 (numLE (storeData c w d l)))) g)) []

def stBody (i : Instr) (space : Space) (w : Width) (base : BitVec 6) (off : BitVec 20) (d : Operand) (c : Ctx) (s : State) : Res :=
  if c.act = 0 then .done s []
  else
    match space with
    | .g => stGlobal i w base off d c s
    | .sp mode => stScratch mode w base off d c s
    | .acc hi => stAcc hi w base off d c s

def execSt (h : Hdr) (space : Space) (ord : Order) (w : Width) (base : BitVec 6) (off : BitVec 20) (d : Operand) (s : State) : Out :=
  issueWord (.st h space ord w base off d) (stBody (.st h space ord w base off d) space w base off d) s

/-! ### Line headers (10 R193) -/

/-- The lines that a header word names: lane i the line that contains A + 64 i. -/
def headerElems (c : Ctx) (base : BitVec 6) (off : BitVec 20) (d : Operand) : List (Nat × Nat) := fmElems c base off 64 d

/-- A lane's line among the placed bytes. -/
def lineOf (bs : List (Page × Nat)) : Page × Nat :=
  match bs with
  | (pg, off) :: _ => (pg, off / 64 * 64)
  | [] => (hbmPage 0, 0)

def ldhBody (i : Instr) (w : Width) (base : BitVec 6) (off : BitVec 20) (d : Operand) (c : Ctx) (s : State) : Res :=
  if c.act = 0 then .done s []
  else
    match s.placeAll c.part c.func (headerElems c base off d) 1 {} with
    | .fault cause fl va => memFault c s (encode i) cause fl va
    | .ok ps =>
      let s := (readPlaces c s ps).1
      let vals := ps.map (fun (l, bs) => let (pg, o) := lineOf bs; (l, bytesLE 2 (s.header c.part pg o)))
      fly c (countDev c s) (loadWrites c w d vals)

def execLdh (h : Hdr) (ord : Order) (w : Width) (base : BitVec 6) (off : BitVec 20) (d : Operand) (s : State) : Out :=
  issueWord (.ldh h ord w base off d) (ldhBody (.ldh h ord w base off d) w base off d) s

/-- Headers written in ascending lanes; a pooled line whose link is down drops the write (09 R178). -/
def writeHeaders (c : Ctx) (w : Width) (d : Operand) (s : State) (ps : List (Nat × List (Page × Nat))) : State :=
  ps.foldl (fun s (l, bs) =>
    let (pg, o) := lineOf bs
    if s.linkDown c.part pg then s else s.setHeader c.part pg o (numLE ((storeData c w d l).take 2))) s

def sthBody (i : Instr) (w : Width) (base : BitVec 6) (off : BitVec 20) (d : Operand) (c : Ctx) (s : State) : Res :=
  if c.act = 0 then .done s []
  else
    match s.placeAll c.part c.func (headerElems c base off d) 1 { write := true } with
    | .fault cause fl va => memFault c s (encode i) cause fl va
    | .ok ps =>
      let lines := placeLines (ps.flatMap Prod.snd)
      let s := (s.writeErrors c.part c.owner { (recordFor c 0x14 0) with pc := 0 } [] lines).heatLines c.part c.core lines
      .done (countDev c (writeHeaders c w d s ps)) []

def execSth (h : Hdr) (ord : Order) (w : Width) (base : BitVec 6) (off : BitVec 20) (d : Operand) (s : State) : Out :=
  issueWord (.sth h ord w base off d) (sthBody (.sth h ord w base off d) w base off d) s

/-! ### Atomics (10 R195, R196, R347, R349) -/

/-- Op of ATOM on the old value and the operand, as bit patterns. -/
def atomOp (op : AtomOp) (t : Ty) (x y : Nat) : Nat :=
  match op with
  | .add => redmCombine .add t x y
  | .min => redmCombine .min t x y
  | .max => redmCombine .max t x y
  | .and => redmCombine .and t x y
  | .or => redmCombine .or t x y
  | .xor => redmCombine .xor t x y
  | .xchg => y
  | .ld => x
  | .st => y

/-- An operand as the bit pattern of its type. -/
def srcBits (c : Ctx) (t : Ty) (o : Operand) (lane : Nat) : Nat :=
  if t.isFloat then srcFp c t o lane else (srcInt c t o lane).toNat % 2 ^ width t

/-- The word is performed by the scalar unit, as one atomic: an s destination, or .st with uniform operands (10 R347). -/
def atomScalar (d : Option Operand) (a : Operand) (b : Option Operand) : Bool :=
  match d with
  | some d => d.isS
  | none => !a.perLane && !(match b with | some b => b.perLane | none => false)

/-- Lanes that perform, each with its address. -/
def atomElems (c : Ctx) (scalar : Bool) (a : Operand) : List (Nat × Nat) :=
  (if scalar then [0] else lanesOf c.act).map (fun l => (l, (src64 c a l).toNat))

/-- What one lane's atomic makes of the old value: the new value, or none where nothing is written. -/
abbrev AtomFn := Nat → Nat → Option Nat

/-- The atomics of a word on device memory, lane after lane; an overflow undoes the word (09 R181; 10 R189). -/
def atomDev (c : Ctx) (f : AtomFn) (n : Nat) : State → List (Nat × List (Page × Nat)) → Except Nat (State × List (Nat × Nat))
  | s, [] => .ok (s, [])
  | s, (l, bs) :: r =>
    let x := numLE (bs.map (fun (pg, off) => s.readByte c.part pg off))
    match f l x with
    | none =>
      (match atomDev c f n s r with
        | .ok (s2, xs) => .ok (s2, (l, x) :: xs)
        | .error va => .error va)
    | some y =>
      let ws := (bs.zip (bytesLE n y)).map (fun ((pg, off), b) => ByteWrite.mk pg off b)
      match s.firstOverflow c.part ws (touchedLines ws) with
      | some va => .error va
      | none =>
        match atomDev c f n (s.performWrites c.part ws) r with
        | .ok (s2, xs) => .ok (s2, (l, x) :: xs)
        | .error va => .error va

/-- The atomics of a word on the scratchpad: an out-of-range lane is recorded, dropped, and reads zero (09 R170, R171). -/
def atomSp (by_ : OobBy) (f : AtomFn) (n : Nat) : Workgroup → List (Nat × Nat) → Workgroup × List (Nat × Nat)
  | g, [] => (g, [])
  | g, (l, a) :: r =>
    if g.spIn a n then
      let g := g.spFind a n
      let x := numLE (g.spRead a n)
      let g := match f l x with
        | none => g
        | some y => g.spWrite a (bytesLE n y)
      let (g2, xs) := atomSp by_ f n g r
      (g2, (l, x) :: xs)
    else
      let (g2, xs) := atomSp by_ f n (g.oobAt 2 by_ a n) r
      (g2, (l, 0) :: xs)

/-- Lanes with an address that is no multiple of n; for the scalar unit, the active lanes. -/
def misaligned (c : Ctx) (scalar : Bool) (es : List (Nat × Nat)) (n : Nat) : LaneMask :=
  if scalar then (if es.any (fun (_, a) => a % n != 0) then c.act else 0)
  else maskOf (fun l => es.any (fun (j, a) => j == l && a % n != 0))

/-- All atomics of a word: the state after them and the old values, or the word's fault. -/
def atomAll (i : Instr) (c : Ctx) (s : State) (sp scalar writes : Bool) (n : Nat) (a : Operand) (f : AtomFn) :
    Except Res (State × List (Nat × Nat)) :=
  let es := atomElems c scalar a
  let bad := misaligned c scalar es n
  if bad ≠ 0 then
    .error (.trap s 7 bad (BitVec.ofNat 64 (((es.find? (fun (_, a) => a % n != 0)).map Prod.snd).getD 0)))
  else if sp then
    let (g, xs) := atomSp (oobBy c s) f n (s.wg c.wgk) es
    .ok (countBanks c (s.setWg c.wgk g) es n, xs)
  else
    match s.placeAll c.part c.func es n { write := writes } with
    | .fault cause fl va => .error (memFault c s (encode i) cause fl va)
    | .ok ps =>
      let s1 := (readPlaces c s ps).1
      let s1 := if writes then s1.reportDropped c.part { (recordFor c 0x14 0) with pc := 0 } (placeLines (ps.flatMap Prod.snd)) else s1
      match atomDev c f n s1 ps with
      | .ok (s2, xs) => .ok (countDev c s2, xs)
      | .error va => .error (memFault c s (encode i) 0x12 1 va)

/-- The old value of a lane. -/
def oldValue (xs : List (Nat × Nat)) (l : Nat) : Nat := ((xs.find? (fun (j, _) => j == l)).map Prod.snd).getD 0

def atomBody (i : Instr) (op : AtomOp) (t : Ty) (sp : Bool) (d : Option Operand) (a : Operand) (b : Option Operand) (c : Ctx)
    (s : State) : Res :=
  if c.act = 0 then .done s []
  else
    let val (l : Nat) : Nat := match b with
      | some b => srcBits c t b l
      | none => 0
    let f : AtomFn := fun l x => match op with
      | .ld => none
      | op => some (atomOp op t x (val l))
    match atomAll i c s sp (atomScalar d a b) (op != .ld) (width t / 8) a f with
    | .error r => r
    | .ok (s2, xs) =>
      match d with
      | some d => fly c s2 (dstWrite c d (fun l => narrow t (BitVec.ofNat 64 (oldValue xs l))))
      | none => .done s2 []

def execAtom (h : Hdr) (op : AtomOp) (t : Ty) (ord : Order) (sp : Bool) (d : Option Operand) (a : Operand) (b : Option Operand)
    (s : State) : Out :=
  issueWord (.atom h op t ord sp d a b) (atomBody (.atom h op t ord sp d a b) op t sp d a b) s

/-- CAS also writes its success predicate: in every active lane where the scalar unit performs it (10 R347); 0 in a lane whose
scratchpad address is out of range (DESIGN CHOICE, log 119). -/
def casBody (i : Instr) (t : Ty) (sp : Bool) (ps : BitVec 3) (d a b : Operand) (c : Ctx) (s : State) : Res :=
  if c.act = 0 then .done s []
  else
    let want (l : Nat) : Nat := (src64 c d l).toNat % 2 ^ width t
    match atomAll i c s sp d.isS true (width t / 8) a (fun l x => if x = want l then some (srcBits c t b l) else none) with
    | .error r => r
    | .ok (s2, xs) =>
      let inRange (l : Nat) : Bool := !sp || c.wg.spIn (src64 c a l).toNat (width t / 8)
      let ok (l : Nat) : Bool := let j := if d.isS then 0 else l
        decide (oldValue xs j = want j) && inRange j
      fly c s2 (dstWrite c d (fun l => narrow t (BitVec.ofNat 64 (oldValue xs l))) ++
        (if ps = 0 then [] else [.p ps.toNat c.act (maskOf ok)]))

def execCas (h : Hdr) (t : Ty) (ord : Order) (sp : Bool) (ps : BitVec 3) (d a b : Operand) (s : State) : Out :=
  issueWord (.cas h t ord sp ps d a b) (casBody (.cas h t ord sp ps d a b) t sp ps d a b) s

/-! ### Buffered reductions (10 R197-R199; 05 R95) -/

/-- One contribution to the warp's atomic buffer: `error` is the information of its ILLEGAL (10 R198). -/
def bufferAdd (buf : List BufEntry) (e : BufEntry) : Except Nat (List BufEntry) :=
  match buf.find? (fun x => x.key == e.key) with
  | some x =>
    if x.op = e.op ∧ x.ty = e.ty ∧ x.scope = e.scope then
      .ok (buf.map (fun y => if y.key = e.key then { y with partial_ := redmCombine y.op y.ty y.partial_ e.partial_ } else y))
    else .error 2
  | none => if buf.length ≥ 64 then .error 1 else .ok (buf ++ [e])

/-- All contributions of a word, in ascending lanes; the first that is refused gives the information (DEDUCED, log 118). -/
def bufferAll : List BufEntry → List BufEntry → Except Nat (List BufEntry)
  | buf, [] => .ok buf
  | buf, e :: r =>
    match bufferAdd buf e with
    | .ok b => bufferAll b r
    | .error x => .error x

def redmBody (i : Instr) (op : RedmOp) (t : Ty) (scope : Scope) (a b : Operand) (c : Ctx) (s : State) : Res :=
  if c.act = 0 then .done s []
  else
    let n := width t / 8
    let es := atomElems c false a
    let bad := misaligned c false es n
    if bad ≠ 0 then .trap s 7 bad (src64 c a (lowestLane bad))
    else
      match s.placeAll c.part c.func es n { write := true } with
      | .fault cause fl va => memFault c s (encode i) cause fl va
      | .ok ps =>
        let news := ps.map (fun (l, bs) =>
          let (pg, off) := bs.headD ({}, 0)
          ({ key := pg.place + off, page := pg, va := (src64 c a l).toNat, op := op, ty := t, scope := scope, partial_ := srcBits c t b l } : BufEntry))
        match bufferAll c.w.abuf news with
        | .error x => .stop s 1 (BitVec.ofNat 64 x)
        | .ok buf => .done (s.modIssuer c.who (fun w => { w with abuf := buf })) []

def execRedm (h : Hdr) (op : RedmOp) (t : Ty) (scope : Scope) (a b : Operand) (s : State) : Out :=
  issueWord (.redm h op t scope a b) (redmBody (.redm h op t scope a b) op t scope a b) s

/-- FLUSHA arrives at a barrier and makes its completion a flush. -/
def execFlusha (h : Hdr) (g : BitVec 8) (s : State) : Out := issueWord (.flusha h g) (arriveBody (.flusha h g) g.toNat true) s

/-! ### Fences and prefetch (10 R200-R202): every access is performed at once, so nothing is left to order (DESIGN CHOICE, log 5) -/

def execFence (h : Hdr) (ord : FenceOrd) (all : Bool) (scope : Scope) (s : State) : Out :=
  issueWord (.fence h ord all scope) (fun _ s => .done s []) s
def execAfence (h : Hdr) (s : State) : Out := issueWord (.afence h) (fun _ s => .done s []) s
/-- PREF changes nothing that programs can see (10 R202; DEDUCED, log 87). -/
def execPref (h : Hdr) (w : Width) (base : BitVec 6) (off : BitVec 20) (d : Operand) (s : State) : Out :=
  issueWord (.pref h w base off d) (fun _ s => .done s []) s

/-! ### COPY (10 R203) -/

/-- The warp and word that issue an engine command. -/
def issuedBy (c : Ctx) (s : State) (i : Instr) : Issued :=
  { slot := c.slot, wg := c.wgk, xyz := c.wg.xyz, serial := s.nextCmd, func := c.func, part := c.part, lid := c.lid, warpNum := c.w.num, pc := c.e.pc, word := encode i }

def copyBody (i : Instr) (sp : Bool) (a : Operand) (c : Ctx) (s : State) : Res :=
  if c.act = 0 then .done s []
  else if s.roomFull c.core c.slot .copy then .wait s (.room .copy)
  else
    match loadRecord c s (encode i) sp (src64 c a 0).toNat 64 with
    | .error r => r
    | .ok (s2, d) =>
      .done (s2.accepted.modCore c.core (fun k => { k with copies := k.copies ++ [{ by_ := issuedBy c s2 i, desc := d }] })) []

def execCopy (h : Hdr) (sp : Bool) (a : Operand) (s : State) : Out := issueWord (.copy h sp a) (copyBody (.copy h sp a) sp a) s

/-! ### Nest registers and sweeps (10 R207-R209) -/

/-- A nest instruction waits for a sweep of its warp that uses the nest (10 R208). -/
def nestWait (c : Ctx) (s : State) (ns : List Nat) (r : Res) : Res :=
  if c.act = 0 then .done s []
  else if (s.core c.core).sweepsOn c.slot ns then .wait s (.nests ns)
  else r

/-- Word k of a nest written. -/
def Warp.setNests (w : Warp) (n : Nat) : List (Nat × Word) → Warp
  | [] => w
  | (k, x) :: r => Warp.setNests (w.writeNest n k x) n r

def nsetBody (form : NsetForm) (n : BitVec 4) (a : Operand) (c : Ctx) (s : State) : Res :=
  nestWait c s [n.toNat]
    (match form with
      | .word k => .done (s.modIssuer c.who (fun w => w.writeNest n.toNat k.toNat (src64 c a 0))) []
      | .sp =>
        let at_ := (src64 c a 0).toNat
        if at_ % 64 ≠ 0 then .trap s 7 c.act (BitVec.ofNat 64 at_)
        else
          let (s2, vals) := spLoad c s [(0, at_)] 64 0 false
          let bs := vals.flatMap Prod.snd
          .done (s2.modIssuer c.who (fun w => w.setNests n.toNat ((List.range 8).map (fun k => (k, fieldW bs (8 * k) 8))))) [])

def execNset (h : Hdr) (form : NsetForm) (n : BitVec 4) (a : Operand) (s : State) : Out :=
  issueWord (.nset h form n a) (nsetBody form n a) s

def execNget (h : Hdr) (d : Operand) (n : BitVec 4) (k : BitVec 3) (s : State) : Out :=
  issueWord (.nget h d n k) (fun c s =>
    nestWait c s [n.toNat] (fly c s (dstWrite c d (fun _ => c.w.readNest n.toNat k.toNat)))) s

/-- NRST clears the index counters and PART: words 5, 6 and 7. -/
def execNrst (h : Hdr) (n : BitVec 4) (s : State) : Out :=
  issueWord (.nrst h n) (fun c s =>
    nestWait c s [n.toNat] (.done (s.modIssuer c.who (fun w => w.setNests n.toNat [(5, 0), (6, 0), (7, 0)])) [])) s

/-- The nests that a sweep uses. -/
def sweepNests (op : SweepOp) (ns : BitVec 4) : List Nat :=
  match op with
  | .copy nd => [ns.toNat, nd.toNat]
  | _ => [ns.toNat]

/-- TSWEEP joins its scheduler's sweep queue; d is pending until the sweep ends. -/
def tsweepBody (i : Instr) (op : SweepOp) (t : Ty) (ns : BitVec 4) (d : BitVec 6) (ctr : Option (BitVec 6)) (c : Ctx) (s : State) : Res :=
  nestWait c s (sweepNests op ns)
    (let cmd : SweepCmd := { by_ := issuedBy c s i, op := op, ty := t, ns := ns.toNat, d := d.toNat
                             ctr := ctr.map (fun k => c.w.readS k.toNat), flight := c.w.nextFlight
                             src := (List.range 8).map (c.w.readNest ns.toNat)
                             dst := match op with
                               | .copy nd => (List.range 8).map (c.w.readNest nd.toNat)
                               | _ => [] }
     let s2 := launchFlight c s.accepted .sweep [.s d.toNat] [] .none false false
     .done (s2.modCore c.core (fun k => k.modSched (c.slot / 16) (fun x => { x with sweeps := x.sweeps ++ [cmd] }))) [.s d.toNat])

def execTsweep (h : Hdr) (op : SweepOp) (t : Ty) (ns : BitVec 4) (d : BitVec 6) (ctr : Option (BitVec 6)) (s : State) : Out :=
  issueWord (.tsweep h op t ns d ctr) (tsweepBody (.tsweep h op t ns d ctr) op t ns d ctr) s

end Sys2Proof.Machine
end

