-- ==== Sys2Proof/Machine/Placing.lean ====
section
/-! DEFINITION. Placing warps on a core: slots and schedulers (02 R21, R22), the register region (06 R104, R105), a warp's
first state (06 R97). -/
namespace Sys2Proof.Machine

/-- A slot without a warp. -/
def State.vacant (s : State) (core slot : Nat) : Bool := (s.warp core slot).state == .retired
def State.freeSlots (s : State) (core : Nat) : Nat := (allSlots.filter (fun i => s.vacant core i)).length
def State.occupied (s : State) (core sched : Nat) : Nat := ((schedSlots sched).filter (fun i => !s.vacant core i)).length

/-- The scheduler with the fewest occupied slots, the lowest of several (02 R22). -/
def State.pickSched (s : State) (core : Nat) : Nat :=
  (List.range 4).foldl (fun best i => if s.occupied core i < s.occupied core best then i else best) 0

/-- The slot of the next warp placed: the lowest vacant one of that scheduler (DEDUCED, log 20). -/
def State.pickSlot (s : State) (core : Nat) : Option Nat := (schedSlots (s.pickSched core)).find? (fun i => s.vacant core i)

/-- Bytes of a register footprint (06 R104). -/
def footprint (nregs : Nat) : Nat := nregs * 512
/-- The warp's registers hold a place in the register region. -/
def Warp.holdsPlace (w : Warp) : Bool :=
  match w.res with
  | .resident | .movingOut _ | .movingIn _ => true
  | _ => false
/-- Bytes of the register region that warps of a workgroup hold. -/
def State.regUsed (s : State) (core k : Nat) : Nat :=
  (s.wgSlots core k).foldl (fun n i => let w := s.warp core i; if w.holdsPlace then n + footprint w.nregs else n) 0
/-- The region has a place for one more footprint. -/
def State.regRoom (s : State) (core k nregs : Nat) : Bool :=
  decide (s.regUsed core k + footprint nregs ≤ (s.wg k).part.regs * 32768)

/-- A warp at its start (06 R97): registers zero but s0, one frontier entry with every lane (DEDUCED, log 52). -/
def startWarp (k num nregs : Nat) (pc arg : Word) (grps : List Nat) : Warp :=
  { noWarp with wg := k, num := num, nregs := nregs, grps := grps, s := put 0 [] 0 arg
                frontier := [{ prio := 0, pc := pc, lanes := BitVec.allOnes 64 }] }

/-- A warp placed on a core in a state: resident where the region has a place, else SWAPPED with no stored context; a
SWAPPED one that is READY is wakeable at once (06 R105). A warp placed DORMANT under a soft request is at a boundary, and held
(14 R264). -/
def State.placeWarp (s : State) (core : Nat) (w : Warp) (st : WState) (base : Base) : State :=
  match s.pickSlot core with
  | none => s
  | some slot =>
    let n := (s.core core).nextAdmit
    let room := s.regRoom core w.wg w.nregs
    let w := { w with sched := { w.sched with order := n, readySince := s.now, residentSince := s.now, dormantSince := s.now
                                              held := w.sched.held || (st.boundary && s.asked w.wg) } }
    let s := s.modCore core (fun k => { k with nextAdmit := n + 1 })
    if room then s.setWarp core slot { w with state := st, res := .resident }
    else
      let s := s.setWarp core slot { w with state := .swapped base, res := .fresh }
      if base = .ready then s.markWakeable core slot else s

end Sys2Proof.Machine
end

