-- ==== Sys2Proof/Machine/Combine.lean ====
section
/-! DEFINITION. Combining many values: exact sums rounded once (05 R93; 07 R129), the combining functions of RED and SCAN and
their identities. -/
namespace Sys2Proof.Machine

/-- The least exponent of a list's finite values. -/
def minExp : List FVal → Int → Int
  | [], e => e
  | .fin _ _ x :: r, e => minExp r (min x e)
  | _ :: r, e => minExp r e

/-- The sum of the finite values in units of 2^e. -/
def sumUnits (e : Int) : List FVal → Int
  | [] => 0
  | .fin n m x :: r => sgn n (m * 2 ^ (x - e).toNat) + sumUnits e r
  | _ :: r => sumUnits e r

/-- The exact sum (05 R93): NaN and infinities first; an exact zero has the sign that IEEE addition gives. -/
def exactSum (r : Rnd) (xs : List FVal) : FVal :=
  if xs.any FVal.isNan then .nan false
  else
    let pos := xs.any (fun x => x.isInf && !x.isNeg)
    let neg := xs.any (fun x => x.isInf && x.isNeg)
    if pos && neg then .nan false
    else if pos then .inf false
    else if neg then .inf true
    else
      let e := minExp xs 0
      let t := sumUnits e xs
      if t = 0 then
        let minus := if xs.all (fun x => x.isZero && x.isNeg) then !xs.isEmpty
          else if xs.all (fun x => x.isZero && !x.isNeg) then false else decide (r = .rdn)
        .fin minus 0 e
      else .fin (decide (t < 0)) t.natAbs e

/-- An exact sum rounded once. -/
def roundSum (f : Fmt) (r : Rnd) (xs : List FVal) : Nat := (packVal f r false (exactSum r xs)).1

/-- The value of a word in a floating-point type, subnormals kept. -/
def floatOf (t : Ty) (x : Word) : FVal := unpack (fmtOf t) (x.toNat % 2 ^ (fmtOf t).width)

/-- minimumNumber or maximumNumber over a list (05 R81). -/
def foldMinMax (t : Ty) (isMax : Bool) : List FVal → Nat
  | [] => 0
  | x :: r => r.foldl (fun acc y => (fpMinMax (fmtOf t) false isMax (unpack (fmtOf t) acc) y).1) (packVal (fmtOf t) .rn false x).1

/-- A fold over integers. -/
def foldInt (t : Ty) (f : Int → Int → Int) : List Word → Int
  | [] => 0
  | x :: r => r.foldl (fun acc y => f acc (intOf t y)) (intOf t x)

/-- The identity of an operation (07 R129). -/
def redIdentity (op : RedOp) (t : Ty) : Word :=
  match op with
  | .min => if t.isFloat then BitVec.ofNat 64 (fmtOf t).infBits else wordOf t (maxInt t)
  | .max => if t.isFloat then BitVec.ofNat 64 ((fmtOf t).infBits + (fmtOf t).signBit) else wordOf t (minInt t)
  | .and => narrow t (BitVec.allOnes 64)
  | _ => 0

/-- The combination of the inputs, none of them missing (07 R129). -/
def redFold (op : RedOp) (t : Ty) (rnd : Rnd) (sat : Bool) (xs : List Word) : Word :=
  match op with
  | .add =>
    if t.isFloat then BitVec.ofNat 64 (roundSum (fmtOf t) rnd (xs.map (floatOf t)))
    else
      let y := xs.foldl (fun (acc : Int) x => acc + intOf t x) 0
      wordOf t (if sat then clampInt t y else y)
  | .min => if t.isFloat then BitVec.ofNat 64 (foldMinMax t false (xs.map (floatOf t))) else wordOf t (foldInt t min xs)
  | .max => if t.isFloat then BitVec.ofNat 64 (foldMinMax t true (xs.map (floatOf t))) else wordOf t (foldInt t max xs)
  | .and => narrow t (xs.foldl (fun acc x => acc &&& x) (BitVec.allOnes 64))
  | .or => narrow t (xs.foldl (fun acc x => acc ||| x) 0)
  | .xor => narrow t (xs.foldl (fun acc x => acc ^^^ x) 0)
  | .popc => wordOf t (xs.foldl (fun (acc : Int) x => acc + (popcount (width t) x.toNat : Nat)) 0)

/-- RED's result: the identity for no input. -/
def redResult (op : RedOp) (t : Ty) (rnd : Rnd) (sat : Bool) (xs : List Word) : Word :=
  match xs with
  | [] => redIdentity op t
  | xs => redFold op t rnd sat xs

end Sys2Proof.Machine
end

