-- ==== Sys2Proof/Machine/Image.lean ====
section
/-! DEFINITION. The image of a saved workgroup as a save writes it into the context save area (14 R267; 08 R164; 12 R241): the parts,
their order and sizes are the spec's, the places of fields within a part the model's (DESIGN CHOICE, log 76). -/
namespace Sys2Proof.Machine

/-! ### Parts -/

/-- A part of an image: its size, and bytes at offsets within it; the others are zero. -/
structure Part where
  size : Nat
  pieces : List (Nat × List Byte)
deriving DecidableEq, Repr

/-- Parts one after another from an offset on, with no gaps. -/
def layParts : Nat → List Part → List (Nat × List Byte)
  | _, [] => []
  | o, p :: r => p.pieces.map (fun (i, bs) => (o + i, bs.take (p.size - i))) ++ layParts (o + p.size) r
def partsSize (ps : List Part) : Nat := (ps.map Part.size).sum

/-- Numbers of 8 bytes. -/
def words8 (xs : List Nat) : List Byte := xs.flatMap (fun x => bytesLE 8 x)
def boolBit (b : Bool) : Nat := if b then 1 else 0
def optWord : Option Nat → Nat
  | some n => n + 1
  | none => 0

/-! ### The header -/

/-- Scratchpad banks of a saved workgroup. -/
def SavedWg.spad (v : SavedWg) : Nat := v.wg.full.alloc - v.wg.full.regs - v.wg.full.acc - v.wg.full.swap

/-- The header, 4 KiB, with the place of the saved ready queue, counted from the image's first byte. -/
def SavedWg.header (v : SavedWg) (queue : Nat) : Part :=
  let g := v.wg
  { size := 4096
    pieces := [(0, words8 ([1, g.lid, g.x, g.y, g.z, (partWord g.part).toNat, (oobWord g.oob).toNat, g.oob.addr, g.awbase, g.awlimit,
      (errWord g.err).toNat, g.kvtab.toNat, queue, g.mfence.length])),
      (112 + 2048, words8 g.mfence)] ++ g.arrived.map (fun (i, m) => (112 + 8 * (i % 256), bytesLE 8 m.toNat)) }

/-! ### Warp records -/

/-- Park conditions and other states, as numbers. -/
def parkWords : Park → List Nat
  | .counter k va => [1, k % 2 ^ 64, va]
  | .granules _ take => [2, boolBit take, 0]
  | .barrier g => [3, g, 0]
  | .replay p => [4, p, 0]
  | .walk w => [5, w, 0]
def baseWords : Base → List Nat
  | .ready => [1]
  | .parked p => 2 :: parkWords p
  | .dormant => [3]
def stateWords : WState → List Nat
  | .ready => [1]
  | .issuing => [2]
  | .parked p => 3 :: parkWords p
  | .swapped b => 4 :: baseWords b
  | .dormant => [5]
  | .frozen b => 6 :: baseWords b
  | .retired => [7]

/-- A list's length, then its elements' numbers. -/
def listWords {α : Type} (f : α → List Nat) (l : List α) : List Nat := l.length :: l.flatMap f
/-- A register as a number: v registers, then s, p and x registers. -/
def Reg.word : Reg → Nat
  | .v n => n
  | .s n => 256 + n
  | .p n => 320 + n
  | .x n => 328 + n
def rndWord : Rnd → Nat
  | .rn => 0 | .rz => 1 | .rup => 2 | .rdn => 3
def heldWord : HeldCommand → Nat
  | .none => 0 | .copy => 1 | .sweep => 2 | .kvseal => 3

/-- A sparse table's numbers, each in 8 bytes at its index, from an offset on. -/
def tablePieces {α : Type} (off : Nat) (m : Sparse α) (f : α → Nat) : List (Nat × List Byte) := m.map (fun (i, x) => (off + 8 * i, bytesLE 8 (f x)))

/-- A frontier entry's priority and PC; its lanes stand in a lane map. -/
def entryWord (e : Entry) : Nat := e.prio.toNat * 2 ^ 54 + bits e.pc 3 54
/-- Of every lane the place, from 1, of its entry in a list, 0 for none: the lanes of a frontier's entries are disjoint (02 R33). -/
def laneMap (es : List Entry) : List Byte :=
  (List.range 64).map (fun l => match es.findIdx? (fun e => e.lanes.getLsbD l) with
    | some j => BitVec.ofNat 8 (j + 1)
    | none => 0)
/-- The entries that a trap saved, in registers and spilled. -/
def Warp.savedEntries (w : Warp) : List Entry :=
  match w.trap.saved with
  | some x => x.frontier ++ x.spilled
  | none => []

/-- An atomic buffer entry: address, OP, TYPE, SCOPE and partial (10 R198). -/
def redmCode : RedmOp → Nat
  | .add => 0 | .min => 1 | .max => 2 | .and => 3 | .or => 4 | .xor => 5
def bufTypeCode : Ty → Nat
  | .s64 => 1 | .n32 => 2 | .n64 => 3 | .f32 => 4 | _ => 0
def BufEntry.words (e : BufEntry) : List Nat :=
  [e.va % 2 ^ 57 + redmCode e.op * 2 ^ 57 + bufTypeCode e.ty * 2 ^ 60 + (match e.scope with | .wg => 0 | _ => 2 ^ 63), e.partial_]

/-- An open window: the count that remains, and its instruction's address (03 R57). -/
def windowWord (x : Window) : Nat := x.left * 2 ^ 54 + bits x.pc 3 54
/-- The window, from 1, that guards a register: no register stands in two open windows (03 R58). -/
def Warp.guardOf (w : Warp) (r : Nat) : Nat :=
  match w.windows.findIdx? (fun x => x.regs.any (fun y => y.word == r)) with
  | some j => j + 1
  | none => 0
def Warp.pendingBit (w : Warp) (r : Nat) : Nat := boolBit (w.flights.any (fun f => f.regs.any (fun y => y.word == r)))
/-- Numbers of `k` bits, packed in bytes. -/
def packBits (k : Nat) (n : Nat) (f : Nat → Nat) : List Byte :=
  (List.range n).map (fun i => BitVec.ofNat 8 ((List.range (8 / k)).foldl (fun x j => x + f (8 / k * i + j) * 2 ^ (k * j)) 0))

/-- State, warp CSRs and the lengths of the record's lists. The granules of a full-empty load are those that its word names by the
registers beside it. -/
def warpWords (slot : Nat) (w : Warp) : List Nat :=
  let t := w.trap
  let team := match w.team with
    | some p => [1, p.h, p.team, p.pos]
    | none => [0, 0, 0, 0]
  let ctr (i : Nat) : List Nat := let e := get {} w.events i; [e.event + 256 * boolBit e.en, e.count.toNat]
  let st := stateWords w.state
  [slot, w.num, w.nregs] ++ team ++ [optWord w.task, heldWord w.heldCommand, (w.feLoad.map (fun i => (encode i).toNat)).getD 0] ++
    st ++ List.replicate (5 - st.length) 0 ++
    [w.frontier.length, w.spilled.length, (t.saved.map (fun x => x.frontier.length)).getD 0, (t.saved.map (fun x => x.spilled.length)).getD 0,
     w.abuf.length, w.windows.length,
     t.en.toNat, t.vec.toNat, t.pc.toNat, t.lanes.toNat, t.cause, t.info.toNat, boolBit t.intrap, w.fpx.i.toNat, w.fpx.z.toNat,
     w.fpx.o.toNat, w.fpx.u.toNat, w.fpx.p.toNat, rndWord w.rm, boolBit w.ftz, w.shapeg.toNat, optWord w.uparg, w.massx.toNat] ++
    (List.range 4).map w.xlimit ++ [(grpsWord w).toNat] ++ (List.range 4).flatMap ctr

/-- A warp record, 4 KiB: s, p and x registers and nests, each at its index; 64 buffer entries of 16 bytes; the entries of the frontier
and of the frontier that a trap saved, at most 65 because a handler's lanes are its entry's, with their lanes; windows, what
guards each register, pending bits; then the rest. -/
def warpPart (slot : Nat) (w : Warp) : Part :=
  let es := w.frontier ++ w.spilled
  { size := 4096
    pieces := tablePieces 0 w.s BitVec.toNat ++ tablePieces 512 w.p BitVec.toNat ++ w.x.map (fun (i, x) => (576 + 2 * i, bytesLE 2 x.toNat)) ++
      tablePieces 584 w.nest BitVec.toNat ++
      [(1608, words8 ((w.abuf.take 64).flatMap BufEntry.words)),
       (2632, words8 (((es ++ w.savedEntries).take 65).map entryWord)), (3152, laneMap es), (3216, laneMap w.savedEntries),
       (3280, words8 ((w.windows.take 15).map windowWord)), (3400, packBits 4 166 w.guardOf), (3568, packBits 1 42 w.pendingBit),
       (3616, words8 (warpWords slot w))] }

/-! ### The other parts -/

/-- A warp's v registers, one after another, each of 64 lanes: F bytes (06 R104). -/
def vectorPart (w : Warp) : Part :=
  { size := footprint w.nregs
    pieces := w.v.filterMap (fun (r, x) => if r < w.nregs then some (512 * r, words8 ((List.range 64).map (fun l => (x[l]?.getD 0).toNat))) else none) }

/-- An owned mass register: its leaves, and a block of 64 bytes with the configuration and the flag (08 R164). -/
def massPart (r : MassReg) : Part :=
  { size := 65536 + 64
    pieces := r.leaves.map (fun (i, x) => (4 * (i % 16384), bytesLE 4 x.toNat)) ++
      [(65536, words8 [boolBit r.conf, r.f, r.n, optWord r.limit, r.link, boolBit r.member])] }

/-- STATE of a walk (12 R244). -/
def wkCode : WkState → Nat
  | .queued => 1 | .running => 2 | .stalled => 3 | .suspended => 4 | .finishing => 5 | .aborting => 6 | .done => 7

def slotWord : SlotState → Nat
  | .free => 0 | .raised => 1 | .filling => 2 | .filled => 3 | .ready => 4 | .inUse => 5
def bufWords (b : TileBuf) : List Nat := [match b.state with | .idle => 0 | .accumulating => 1 | .complete => 2, b.tile]

/-- A walk that is not DONE, 36 KiB: record, state, step position, slots, buffers, chain, stalls and drains, its upcalls, then m, l and
partial scores. -/
def walkPart (ups : List Upcall) (w : Walk) : Part :=
  { size := 36864
    pieces := [(0, w.record), (128, words8 ([w.wid, wkCode w.state, w.status, w.depth, optWord w.parent, w.slot, boolBit w.fromHandler, w.tm, w.tn, w.tk,
        w.raisedA, w.raisedB, w.begun, w.finished, w.substep, w.seq, w.tilesDone, w.drainsAccepted, optWord w.drainSince,
        w.stalls.a, w.stalls.b, w.stalls.v, w.stalls.c, w.stalls.drain] ++ bufWords w.buf0 ++ bufWords w.buf1 ++
        listWords (fun x => [slotWord x]) w.slotsA ++ listWords (fun x => [slotWord x]) w.slotsB ++ listWords (fun j => [j]) w.promoted ++
        listWords (fun j => [j]) w.after ++ listWords (fun (t, n) => [t, n]) w.drainsAdded)),
      (1280, ((ups.filter (fun u => u.wid == w.wid)).flatMap (fun u => bytesLE 4 u.place ++ bytesLE 4 u.seq ++ bytesLE 4 (optWord u.team))))] ++
      w.mrow.map (fun (i, x) => (2560 + 4 * i, bytesLE 4 x.toNat)) ++ w.lrow.map (fun (i, x) => (3072 + 4 * i, bytesLE 4 x.toNat)) ++
      w.scores.map (fun (i, x) => (4096 + 4 * (i % 8192), bytesLE 4 x.toNat)) }

/-- The accumulator region. -/
def SavedWg.accPart (v : SavedWg) : Part :=
  { size := v.wg.full.acc * 32768, pieces := v.wg.acc.map (fun (i, x) => (4 * i, bytesLE 4 x.toNat)) }

/-- Eight granules' bits as a byte. -/
def granuleByte (m : Sparse Bool) (i : Nat) : Byte := BitVec.ofNat 8 ((List.range 8).foldl (fun n j => n + boolBit (get false m (8 * i + j)) * 2 ^ j) 0)

/-- The scratchpad: its bytes, then a full-empty bit for each granule. -/
def SavedWg.spPart (v : SavedWg) : Part :=
  { size := v.spad * (32768 + 256)
    pieces := (v.wg.sp.filter (fun (i, _) => decide (i < v.spad * 32768))).map (fun (i, b) => (i, [b])) ++
      v.wg.fe.map (fun (i, _) => (v.spad * 32768 + i / 8, [granuleByte v.wg.fe (i / 8)])) }

/-! ### The image -/

/-- The parts after the header, in the order of R267. -/
def SavedWg.bodyParts (v : SavedWg) : List Part :=
  v.warps.map (fun (i, w) => warpPart i w) ++ v.warps.map (fun (_, w) => vectorPart w) ++
    (List.range v.wg.massOwned).map (fun i => massPart (get {} v.wg.mass i)) ++
    (v.walks.filter (fun w => w.state != .done)).map (walkPart v.upcalls) ++ [v.accPart, v.spPart]

/-- Bytes of the image. -/
def SavedWg.imageSize (v : SavedWg) : Nat := 4096 + partsSize v.bodyParts

/-- The saved ready queue, which follows the image: each task's number in its workgroup, priority and order. -/
def SavedWg.queuePart (v : SavedWg) : Part :=
  let ws := listWords (fun (t : ReadyTask) => [match t.task with | .spawned _ id => id | .workgroup _ lin => lin, t.prio, t.order]) v.ready
  { size := 8 * ws.length, pieces := [(0, words8 ws)] }

/-- The image, and after it the saved ready queue, its parts one after another with no gaps. -/
def SavedWg.parts (v : SavedWg) : List Part := v.header v.imageSize :: v.bodyParts ++ [v.queuePart]

/-- The bytes of memory that a save writes, from its workgroup's place in the context save area on. -/
def SavedWg.store (v : SavedWg) (at_ : Nat) (m : List Host.Cell) : List Host.Cell :=
  (layParts at_ v.parts).foldl (fun m (k, bs) => storeBytes m k bs)
    (m.filter (fun c => !(decide (at_ ≤ c.1) && decide (c.1 < at_ + partsSize v.parts))))

/-- The image of a workgroup written where firmware has reserved its place at admission. -/
def State.saveImage (s : State) (v : SavedWg) : State :=
  match v.wg.area with
  | some k => { s with mem := v.store k s.mem }
  | none => s

end Sys2Proof.Machine
end

