-- ==== Sys2Proof/Machine/WalkWords.lean ====
section
/-! DEFINITION. The walk instructions, majors 0x74-0x77 (12 R224-R226, R234, R238-R246; 19 R341), and what ends an upcall. -/
namespace Sys2Proof.Machine

/-! ### The checks of a record (12 R225, R239) -/

/-- The bytes of a record from `lo` to before `hi` are zero. -/
def zeros (r : List Byte) (lo hi : Nat) : Bool := ((r.drop lo).take (hi - lo)).all (fun b => b == 0)

/-- Reason 1: reserved fields and values. -/
def Walk.badFields (w : Walk) : Bool :=
  let r := w.record
  !(w.kind ≤ 1 && w.order ≤ 4 && 1 ≤ w.fmta && w.fmta ≤ 3 && 1 ≤ w.fmtb && w.fmtb ≤ 3 && w.drain ≤ 1 &&
    zeros r 37 38 && zeros r 43 48 && zeros r 60 64 && decide (w.flags < 256) && decide (w.flags / 4 % 8 ≠ 7) &&
    (w.order == 4 || w.tag == 0) && (if w.drain == 1 then w.hc == 0 else zeros r 40 43) &&
    (if w.attn then 1 ≤ w.pfmt && w.pfmt ≤ 3 && field r 84 1 ≤ 1 && (w.roton || w.rotbase == 0) && zeros r 20 22 && zeros r 85 88 && zeros r 92 128
     else zeros r 64 128 && !w.stats && !w.nocause))

def shapeTmOk (x : Nat) : Bool := x % 16 == 0 && decide (16 ≤ x) && decide (x ≤ 128)
def shapeOk (tm tn tk : Nat) : Bool := shapeTmOk tm && shapeTmOk tn && (tk == 16 || tk == 32 || tk == 64)

/-- The handlers that a walk names; a sender has no consumer (12 R233). -/
def Walk.handlersOf (w : Walk) : List Nat :=
  (if w.attn then [w.hq, w.hk, w.hv] else [w.ha, w.hb]) ++ (if w.drain = 1 then [] else [w.hc])

/-- Byte ranges of the rings and the angle table. -/
def Walk.ranges (w : Walk) : List (Nat × Nat) :=
  [(w.slotA, w.nslotsA * w.sizeA), (w.slotB, w.nslotsB * w.strideB)] ++ (if w.roton then [(w.rotbase, w.k / 2 * 8)] else [])

def apart (a b : Nat × Nat) : Bool := decide (a.1 + a.2 ≤ b.1) || decide (b.1 + b.2 ≤ a.1)

/-- Every two of a list are apart. -/
def allApart : List (Nat × Nat) → Bool
  | [] => true
  | a :: r => r.all (apart a) && allApart r

/-- The limits of an ATTN walk (12 R239). -/
def Walk.attnBad (w : Walk) : Bool :=
  w.attn && !(shapeTmOk w.k && shapeTmOk w.n && decide (w.tn = w.n) &&
    (!(w.fmta == 3 || w.fmtb == 3) || (decide (w.k ≤ 64) && decide (w.n ≤ 64))) &&
    w.order == 0 && w.drain == 0 && decide (w.posbase + w.poscount ≤ 2 ^ 32 - 1) &&
    (if w.nocause then decide (w.posbase + w.m ≤ 2 ^ 32 - 1) else decide (w.m ≤ w.poscount)) &&
    (!w.roton || (w.fmta != 3 && w.fmtb != 3)))

def Walk.splitBad (w : Walk) : Bool :=
  if w.order = 4 then !(decide (2 ≤ w.nsplit) && decide (w.nsplit ≤ 64) && decide (w.split < w.nsplit) && (w.drain == 1) == decide (w.split ≠ 0))
  else !(w.drain == 0 && w.split == 0 && w.nsplit == 0)

/-- Accumulator rows of a walk. -/
def Walk.rows (w : Walk) : Nat × Nat := (w.accrow, 2 * w.tm)

/-- A walk that the promotion of a walk with this parent would suspend, the parent or one above it (12 R238). -/
def Core.ancestor (k : Core) (parent : Option Nat) (x : Walk) : Bool :=
  let up (p : Option Nat) : Option Nat := (p.bind k.walk).bind Walk.parent
  x.state != .done && (parent == some x.wid || up parent == some x.wid || up (up parent) == some x.wid)

/-- The first check that a record fails (12 R225; DEDUCED, log 94, of reason 9); a K-less or row-less problem is checked like any other. -/
def walkReason (c : Ctx) (s : State) (w : Walk) (shapeGiven : Bool) : Option Nat :=
  let g := s.wg c.wgk
  let waiting := (s.core c.core).walks.filter (fun x =>
    (x.state == .suspended && x.promoted != []) || (s.core c.core).ancestor w.parent x)
  let checks : List (Nat × Bool) :=
    [(1, w.badFields),
     (2, !shapeGiven || !shapeOk w.tm w.tn w.tk),
     (3, !(decide (2 ≤ w.nslotsA) && decide (w.nslotsA ≤ 8) && decide (2 ≤ w.nslotsB) && decide (w.nslotsB ≤ 8) &&
           decide (1 ≤ w.ahead) && decide (w.ahead ≤ 8))),
     (4, !(w.handlersOf.all (fun h => g.teams.any (fun t => t.h == h)))),
     (5, w.slotA % 64 != 0 || w.slotB % 64 != 0 || (w.roton && w.rotbase % 8 != 0) ||
         w.ranges.any (fun (a, n) => decide (a + n > g.spSize)) || !allApart w.ranges),
     (6, decide (w.accrow < g.awbase) || decide (w.accrow + 2 * w.tm > g.awlimit) ||
         (w.stats && (decide (w.tn > 126) || decide (w.n > 126)))),
     (7, w.splitBad),
     (8, w.attnBad),
     (9, waiting.any (fun x => x.wg == c.wgk && !apart x.rows w.rows)),
     (10, decide (w.depth ≥ 3))]
  (checks.find? Prod.snd).map Prod.fst

/-! ### WALK (12 R242) -/

/-- The tile shape: the record's, or SHAPEG's grant where all three are 0; the flag is false without a grant. -/
def tileShape (c : Ctx) (r : List Byte) : Nat × Nat × Nat × Bool :=
  let tm := field r 16 1
  let tn := field r 17 1
  let tk := field r 18 1
  if tm = 0 ∧ tn = 0 ∧ tk = 0 then
    (bits c.w.shapeg 0 8, bits c.w.shapeg 8 8, bits c.w.shapeg 16 8, c.w.shapeg.getLsbD 24)
  else (tm, tn, tk, true)

/-- The walk that a WALK would create. -/
def walkOf (c : Ctx) (s : State) (r : List Byte) : Walk × Bool :=
  let (tm, tn, tk, ok) := tileShape c r
  let parent := s.handlerWalk c.core c.w
  let depth := match parent with
    | some x => (((s.core c.core).walk x).map Walk.depth).getD 0 + 1
    | none => 0
  let serial := (s.core c.core).nextWalk
  ({ wid := serial * 256 + c.core % 256, wg := c.wgk, depth := depth, parent := parent, slot := c.slot
     fromHandler := c.w.handler, record := r, tm := tm, tn := tn, tk := tk
     slotsA := List.replicate (field r 19 1 % 16) .free, slotsB := List.replicate (field r 19 1 / 16) .free
     after := c.wg.mfence, serial := s.nextCmd }, ok)

/-- A refusal: the counter is decremented with WREC; reason 10 is a REENTRY, which aborts the submitting handler's walk. -/
def refuseWalk (c : Ctx) (s : State) (i : Instr) (w : Walk) (reason : Nat) : State :=
  let s := s.complete c.part c.func c.core 3 c.lid w.doneVa 0x0D (.walk c.wgk none) c.wg.xyz
  if reason = 10 then
    let s := s.report (recordFor c 0x0E (encode i))
    match w.parent with
    | some x => s.abortWalk c.core x 0x0F
    | none => s
  else s

/-- A walk reaches DONE, and senders to it whose drains it has not all accepted abort (12 R233). -/
def State.endWalk (s : State) (core wid status : Nat) : State :=
  match (s.core core).walk wid with
  | none => s
  | some w => (s.walkDone core wid status).abortSenders (s.wgPart (s.wg w.wg)) w (fun x => decide (x.drainsAccepted < x.tiles))

/-- An accepted walk joins the queue; one with M, N or K of 0 completes at once with status OK (12 R225). -/
def acceptWalk (c : Ctx) (s : State) (w : Walk) : State :=
  let s := s.accepted.modCore c.core (fun k => { k with walks := k.walks ++ [w], nextWalk := if w.wid / 256 ≥ 2 ^ 24 - 1 then 1 else w.wid / 256 + 1 })
  if w.m = 0 ∨ w.n = 0 ∨ w.k = 0 then s.endWalk c.core w.wid 0 else s

def walkBody (i : Instr) (sp : Bool) (d a : Operand) (c : Ctx) (s : State) : Res :=
  let at_ := (src64 c a 0).toNat
  if c.act = 0 then .done s []
  else if at_ % 8 ≠ 0 then .trap s 7 c.act (src64 c a 0)
  else if !s.gateOpen c.core c.wgk then .wait s .walkGate
  else if s.roomFull c.core c.slot .walk then .wait s (.room .walk)
  else
    match loadRecord c s (encode i) sp at_ 128 with
    | .error r => r
    | .ok (s2, r) =>
      let (w, ok) := walkOf c s2 r
      match walkReason c s2 w ok with
      | some reason => fly c (refuseWalk c s2 i w reason) (dstWrite c d (fun _ => BitVec.ofNat 64 (2 ^ 63 + reason)))
      | none => fly c (acceptWalk c s2 w) (dstWrite c d (fun _ => BitVec.ofNat 64 w.wid))

def execWalk (h : Hdr) (sp : Bool) (d a : Operand) (s : State) : Out :=
  issueWord (.walk h sp d a) (walkBody (.walk h sp d a) sp d a) s

/-! ### WREG (12 R243; 02 R31; 15 R283-R284) -/

/-- The configuration word. -/
def wregEntry (pc x : Word) : HandlerRow :=
  { set := true, pc := pc, teams := bits x 16 8, size := bits x 8 3 + 1, budget := bits x 0 8 + 1 }
def wregBad (x : Word) : Bool :=
  decide (bits x 24 40 ≠ 0) || decide (bits x 11 5 ≠ 0) || decide (bits x 16 8 = 0) || decide (bits x 16 8 > 16)

/-- The launch's TEAM row of a handler: its group number and teams covered. -/
def Launch.teamRow (l : Launch) (h : Nat) : Option (Nat × GroupRow) :=
  (l.groups.find? (fun (_, r) => r.kind == 3 && r.handler == h))

/-- The one membership of a handler warp, if any. -/
def teamGroups (l : Launch) (h team pos : Nat) : List Nat :=
  match l.teamRow h with
  | some (g, r) => if (get {} l.groups (g + team)).mask.getLsbD pos ∧ team < r.tcount then [g + team] else []
  | none => []

/-- Whole teams that can be made. -/
def teamsMade (c : Ctx) (s : State) (h : Nat) (e : HandlerRow) : Nat :=
  let t := min e.teams (s.freeSlots c.core / e.size)
  match c.launch.teamRow h with
  | some (_, r) => min t r.tcount
  | none => t

/-- One team made: its warps placed DORMANT, in ascending position. -/
def makeTeam (c : Ctx) (h : Nat) (e : HandlerRow) (s : State) (team : Nat) : State :=
  let (s, slots) := (List.range e.size).foldl (fun (acc : State × List Nat) pos =>
    let s := acc.1
    let w := { startWarp c.wgk (16 + pos) e.budget e.pc (fieldW c.launch.record 8 8) (teamGroups c.launch h team pos) with
               team := some { h := h, team := team, pos := pos }, frontier := [] }
    match s.pickSlot c.core with
    | some slot => (s.placeWarp c.core w .dormant .dormant, acc.2 ++ [slot])
    | none => acc) (s, [])
  s.modWg c.wgk (fun g => { g with teams := g.teams ++ [{ h := h, team := team, slots := slots, dormantSince := s.now }] })

def wregBody (idx : BitVec 4) (d a b : Operand) (c : Ctx) (s : State) : Res :=
  let h := idx.toNat
  let x := src64 c b 0
  let e := wregEntry (src64 c a 0) x
  let old := get {} c.launch.handlers h
  if c.act = 0 then .done s []
  else if (src64 c a 0).toNat % 8 ≠ 0 then .trap s 7 c.act (src64 c a 0)
  else if wregBad x ∨ (old.set ∧ old ≠ e) ∨ c.wg.wregs.contains h then .stop s 1 0
  else if footprint e.budget > c.wg.part.regs * 32768 then .stop s 0x0A 0
  else
    let n := teamsMade c s h e
    let s := s.modLaunch c.lid (fun l => { l with handlers := put {} l.handlers h e })
    let s := s.modWg c.wgk (fun g => { g with wregs := g.wregs ++ [h] })
    let s := (List.range n).foldl (makeTeam c h e) s
    let ws := dstWrite c d (fun _ => BitVec.ofNat 64 n)
    .done (launchFlight c s .timed (writeRegs ws) ws .none false true) (writeRegs ws)

def execWreg (h : Hdr) (idx : BitVec 4) (d a b : Operand) (s : State) : Out :=
  issueWord (.wreg h idx d a b) (wregBody idx d a b) s

/-! ### WSTAT, WCANCEL, MFENCE (12 R244, R245) -/

/-- A selector's value. -/
def walkStat (k : Core) (w : Walk) (sel : Nat) : Nat :=
  match sel with
  | 0 => w.status * 2 ^ 32 * (if w.state = .done then 1 else 0) + wkCode w.state * 2 ^ 24 + w.depth * 2 ^ 16 +
      (k.upcalls.filter (fun u => u.wid == w.wid)).length
  | 1 => w.finished * 2 ^ 32 + w.tilesDone
  | 2 => w.stalls.a
  | 3 => w.stalls.b
  | 4 => w.stalls.v
  | 5 => w.stalls.c
  | _ => w.stalls.drain

/-- The walk of the issuing workgroup that an id names. -/
def ownWalk (c : Ctx) (s : State) (a : Operand) : Option Walk :=
  match (s.core c.core).walk (bits (src64 c a 0) 0 32) with
  | some w => if w.wg = c.wgk ∧ bits (src64 c a 0) 32 32 = 0 then some w else none
  | none => none

def execWstat (h : Hdr) (d a : Operand) (k : BitVec 8) (s : State) : Out :=
  issueWord (.wstat h d a k) (fun c s =>
    let x := match ownWalk c s a with
      | some w => walkStat (s.core c.core) w k.toNat
      | none => 0
    fly c s (dstWrite c d (fun _ => BitVec.ofNat 64 x))) s

def execWcancel (h : Hdr) (a : Operand) (s : State) : Out :=
  issueWord (.wcancel h a) (fun c s =>
    if c.act = 0 then .done s []
    else
      match ownWalk c s a with
      | none => .done s []
      | some w =>
        match w.state with
        | .finishing | .aborting | .done => .done s []
        | _ => .done (s.abortWalk c.core w.wid 0x40) []) s

/-- MFENCE: later walks of the workgroup wait for every one accepted before it. -/
def execMfence (h : Hdr) (s : State) : Out :=
  issueWord (.mfence h) (fun c s =>
    if c.act = 0 then .done s []
    else .done (s.modWg c.wgk (fun g => { g with mfence := (s.openWalks c.core c.wgk).map Walk.wid })) []) s

/-! ### HARG and HRET (12 R234, R245; 02 R31) -/

def ukindCode : UKind → Nat
  | .proda => 1 | .prodb => 2 | .consume => 3 | .prodq => 4 | .prodk => 5 | .prodv => 6

/-- The 32 bytes of an argument block. -/
def Upcall.block (u : Upcall) : List Byte :=
  bytesLE 1 (ukindCode u.kind) ++ [0] ++ bytesLE 2 u.accw ++ bytesLE 4 u.wid ++ bytesLE 4 u.tilem ++ bytesLE 4 u.tilen ++
    bytesLE 4 u.tilek ++ bytesLE 4 u.slot ++ bytesLE 4 u.seq ++ bytesLE 1 u.vm ++ bytesLE 1 u.vn ++ bytesLE 1 u.vk ++ [0]

def hargBody (d : Operand) (k : BitVec 8) (c : Ctx) (s : State) : Res :=
  if c.act = 0 then .done s []
  else
    match c.w.uparg.bind (fun p => (s.core c.core).upcalls.find? (fun u => u.place == p)) with
    | none => .stop s 1 0
    | some u => fly c s (dstWrite c d (fun _ => fieldW u.block (8 * k.toNat) 8))

def execHarg (h : Hdr) (d : Operand) (k : BitVec 8) (s : State) : Out := issueWord (.harg h d k) (hargBody d k) s

/-- What an upcall's completion does to its walk: a produced slot waits for its granules, a consumed buffer is IDLE; an
aborting walk uses it no further (12 R227, R232, R236). -/
def Walk.upcallDone (w : Walk) (u : Upcall) : Walk :=
  if w.state = .aborting ∨ w.state = .done then w
  else
    match u.kind with
    | .consume => w.setBuf u.idx { state := .idle, tile := u.idx }
    | .proda | .prodq => { w with slotsA := w.slotsA.set u.idx .filled }
    | _ => { w with slotsB := w.slotsB.set u.idx .filled }

/-- Every warp of a team is DORMANT, resident or not. -/
def State.teamDormant (s : State) (core : Nat) (t : Team) : Bool :=
  t.slots.all (fun i => match (s.warp core i).state with
    | .dormant => true
    | .swapped .dormant => true
    | _ => false)

/-- The buffer of a walk's next tile takes up accumulating as soon as it is IDLE and its first step is due (12 R232, R245,
R246): unless ACCUM is set, its columns are cleared. -/
def State.bufferFree (s : State) (core : Nat) (w : Walk) (b : Nat) : Bool :=
  let ws := (s.core core).walks
  w.after.all (fun j => ws.all (fun x => x.wid != j || x.state == .done)) &&
  (ws.takeWhile (fun x => x.wid != w.wid)).all (fun x =>
    !(x.wg == w.wg && x.accrow == w.accrow && x.tm == w.tm && x.tn == w.tn) || x.state == .done ||
    decide (x.tiles ≤ b) ||
    (x.stepsPerTile != 0 || decide (x.tilesDone ≥ x.tiles)) &&
    (!((s.core core).upcalls.any (fun u => u.wid == x.wid && u.kind == .consume && u.idx == b)) &&
      (x.state == .aborting || (decide (x.begun = x.totalSteps) && (x.buf b).state == .idle && !((s.core core).consumeDue.any (fun (j, t) => j == x.wid && t % 2 == b))))))

/-- The rows and columns of a tile buffer set to +0. -/
def clearBuffer (g : Workgroup) (w : Walk) (b : Nat) : Workgroup :=
  { g with acc := g.acc.filter (fun (k, _) =>
      !(decide (w.accrow + b * w.tm ≤ k / 128) && decide (k / 128 < w.accrow + (b + 1) * w.tm) && decide (k % 128 < w.tn))) }

def Walk.active (w : Walk) : Bool := w.state == .running || w.state == .stalled

/-- The next step is due: the first when both its slots are READY, every later one when the step before it has ended. -/
def Walk.dueNow (w : Walk) : Bool :=
  w.active && !w.multiplying && !w.inBlock && decide (w.begun < w.totalSteps) &&
    (w.begun != 0 || (w.readyA 0 && (w.stepsB 0).all w.readyB))

def State.armBuffer (s : State) (core wid : Nat) : State :=
  match (s.core core).walk wid with
  | none => s
  | some w =>
    let t := w.tileOf w.begun
    if w.dueNow ∧ w.begun % max 1 w.stepsPerTile = 0 ∧ (w.buf t).state = .idle ∧ s.bufferFree core w (t % 2) then
      let s := if w.accum then s else s.modWg w.wg (fun g => clearBuffer g w (t % 2))
      s.modWalk core wid (fun w => { (w.setBuf t { state := .accumulating, tile := t }) with mrow := [], lrow := [] })
    else s

/-- Every walk of a core looked at in acceptance order. -/
def State.armBuffers (s : State) (core : Nat) : State := (s.core core).walks.foldl (fun s w => s.armBuffer core w.wid) s

/-- An upcall is complete: its team is free, its place too, and its walk goes on (02 R31). -/
def State.completeUpcall (s : State) (core : Nat) (k : Nat) (t : Team) : State :=
  match t.upcall.bind (fun p => (s.core core).upcalls.find? (fun u => u.place == p)) with
  | none => s
  | some u =>
    let s := s.modCore core (fun c => { c with upcalls := c.upcalls.filter (fun x => x.place != u.place) })
    let s := s.modWg k (fun g => { g with teams := g.teams.map (fun x => if x.h = t.h ∧ x.team = t.team then { x with upcall := none, dormantSince := s.now } else x) })
    let s := t.slots.foldl (fun s i => s.modWarp core i (fun w => w.count 0x0B 1)) s
    let s := s.modWalk core u.wid (fun w => w.upcallDone u)
    (s.refreshSlots core k).armBuffers core

/-- A handler warp has executed HRET: it is DORMANT, and the last of its team completes the upcall. -/
def State.handlerEnds (s : State) (core slot : Nat) : State :=
  let w := s.warp core slot
  let s := s.leaveIssue core slot .dormant
  let s := s.modWarp core slot (fun w => { w with uparg := none, sched := { w.sched with dormantSince := s.now } })
  match w.team with
  | none => s
  | some p =>
    match (s.wg w.wg).teams.find? (fun t => t.h == p.h && t.team == p.team) with
    | some t => if s.teamDormant core t then s.completeUpcall core w.wg t else s
    | none => s

/-- HRET removes its active lanes; with no entry left the warp has executed it (12 R245). -/
def hretBody (i : Instr) (abort : Bool) (c : Ctx) (s : State) : Res :=
  match c.who with
  | .prologue _ => .stop s 1 0
  | .warp core slot =>
    if c.act = 0 then .done s []
    else
      let s2 := (Res.jump s (withoutActive c)).apply i c
      .over (if (s2.warp core slot).frontier = [] then
          let s3 := match abort, s2.handlerWalk core c.w with
            | true, some x => s2.abortWalk core x 0x42
            | _, _ => s2
          s3.handlerEnds core slot
        else s2)

def execHret (h : Hdr) (s : State) : Out := issueWord (.hret h) (hretBody (.hret h) false) s
def execHretAbort (h : Hdr) (s : State) : Out := issueWord (.hretAbort h) (hretBody (.hretAbort h) true) s

/-! ### AWIN (12 R245) -/

def awinBody (a b : Operand) (c : Ctx) (s : State) : Res :=
  let x := (src64 c a 0).toNat
  let y := (src64 c b 0).toNat
  if c.act = 0 then .done s []
  else if x > y ∨ y > c.wg.part.acc * 64 then .stop s 1 0
  else .done (launchFlight c s .timed [] [] (.window x y) false true) []

def execAwin (h : Hdr) (a b : Operand) (s : State) : Out := issueWord (.awin h a b) (awinBody a b) s

end Sys2Proof.Machine
end

