-- ==== Sys2Proof/Machine/Tile.lean ====
section
/-! DEFINITION. The arithmetic of a K-step (05 R93, R94; 12 R226, R240): operand rows in their slots, dot products in groups
of 16 with one rounding each, attention blocks. -/
namespace Sys2Proof.Machine

/-! ### Operand rows (12 R226; 05 R90) -/

/-- A row of operand elements; `none` is an element that a sparse mask leaves out. -/
abbrev Row := List (Option FVal)

/-- The elements of a narrow line for an engine; a RAW line reads as T8 with scale 0 (DEDUCED, log 21). `none` is FORMAT. -/
def engineLine (hdr : Nat) (bytes : List Byte) : Option Row :=
  let line := lineNum bytes
  match LineFmt.ofCode (hdr % 256) with
  | none => none
  | some .raw => some ((List.range 64).map (fun i => some (taperDecode 8 (line / 2 ^ (8 * i) % 2 ^ 8))))
  | some f =>
    if masksOk f line then
      match headerScale hdr with
      | none => some ((List.range f.elems).map (fun _ => some (.nan false)))
      | some sc => some ((List.range f.elems).map (fun i => (elemCode f line i).map (fun c => (taperDecode f.nbits c).scale sc)))
    else none

/-- Row r of a slot with `rows` rows of `l` elements. -/
def slotRow (g : Workgroup) (fmt slot rows l r : Nat) : Option Row :=
  if fmt = 3 then
    (engineLine (numLE (g.spRead (slot + 64 * rows + 2 * r) 2)) (g.spRead (slot + 64 * r) 64)).map (fun x => x.take l)
  else
    let f := if fmt = 1 then fmtF16 else fmtBF16
    some ((List.range l).map (fun e => some (unpack f (numLE (g.spRead (slot + 2 * l * r + 2 * e) 2)))))

/-- All rows of a slot; `none` is FORMAT. -/
def slotRows (g : Workgroup) (fmt slot rows l : Nat) : Option (List Row) :=
  let rs := (List.range rows).map (slotRow g fmt slot rows l)
  if rs.all Option.isSome then some (rs.map (fun r => r.getD [])) else none

/-! ### Sums (05 R93) -/

def plusZero : FVal := .fin false 0 0

/-- One product: +0 where an element is masked out or lies beyond the valid k. -/
def product (a b : Option FVal) : FVal :=
  match a, b with
  | some x, some y => (mulExact x y).getD (.nan false)
  | _, _ => plusZero

/-- c + the exact sum of a group's products, rounded once. -/
def addGroup (c : Nat) (prods : List FVal) : Nat := (fpAdd fmtF32 .rn false (unpack fmtF32 c) (exactSum .rn prods)).1

/-- The products of the 16 k of group `q`. -/
def groupProducts (a b : Row) (valid q : Nat) : List FVal :=
  (List.range 16).map (fun i => let k := 16 * q + i
    if k < valid then product (a.getD k none) (b.getD k none) else plusZero)

/-- The groups of a substep in ascending k. -/
def dot (c : Nat) (a b : Row) (len valid : Nat) : Nat :=
  (List.range (len / 16)).foldl (fun c q => addGroup c (groupProducts a b valid q)) c

/-! ### Accumulator tiles -/

/-- The rows of a tile's buffer. -/
def Walk.rowOf (w : Walk) (t i : Nat) : Nat := w.accrow + t % 2 * w.tm + i

/-- A function of row and column applied to a buffer. -/
def mapTile (w : Walk) (t cols : Nat) (f : Nat → Nat → Nat → Nat) (g : Workgroup) : Workgroup :=
  (List.range w.tm).foldl (fun g i =>
    (List.range cols).foldl (fun (g : Workgroup) j => g.accPut (w.rowOf t i) j (BitVec.ofNat 32 (f i j (g.accAt (w.rowOf t i) j).toNat)))
      (g.accFind (w.rowOf t i))) g

/-- A buffer's values, row by row. -/
def tileValues (w : Walk) (t : Nat) (g : Workgroup) : List (BitVec 32) :=
  (List.range w.tm).flatMap (fun i => (List.range w.tn).map (fun j => g.accAt (w.rowOf t i) j))

/-- A GEMM step (05 R93). -/
def gemmStep (w : Walk) (step : Nat) (a b : List Row) (g : Workgroup) : Workgroup :=
  mapTile w (w.tileOf step) w.tn (fun i j c => dot c (a.getD i []) (b.getD j []) w.tk (w.validK step)) g

/-- A drain added (05 R94). -/
def addDrain (w : Walk) (t : Nat) (data : List (BitVec 32)) (g : Workgroup) : Workgroup :=
  mapTile w t w.tn (fun i j c => addRne32 c (data.getD (i * w.tn + j) 0).toNat) g

/-! ### Attention (12 R239, R240) -/

def negInf : Nat := fmtF32.infBits + fmtF32.signBit

/-- x * cs + sign * (y * sn), exact, then rounded to the slot format. -/
def rotTerm (f : Fmt) (x cs y sn : FVal) (minus : Bool) : FVal :=
  let p := (mulExact y sn).getD (.nan false)
  unpack f (packVal f .rn false (exactSum .rn [(mulExact x cs).getD (.nan false), if minus then p.neg else p])).1

/-- A query or key row rotated for a position. -/
def rotateRow (g : Workgroup) (w : Walk) (fmt pos : Nat) (r : Row) : Row :=
  if w.roton then
    let f := if fmt = 1 then fmtF16 else fmtBF16
    (List.range (w.k / 2)).flatMap (fun c =>
      let theta := numLE (g.spRead (w.rotbase + 8 * c) 8)
      let ph := BitVec.ofNat 64 (pos * theta)
      let cs := unpack fmtF32 (engineTrig true ph)
      let sn := unpack fmtF32 (engineTrig false ph)
      let x := (r.getD (2 * c) none).getD plusZero
      let y := (r.getD (2 * c + 1) none).getD plusZero
      [some (rotTerm f x cs y sn true), some (rotTerm f y cs x sn false)])
  else r

def Walk.queryPos (w : Walk) (i : Nat) : Int :=
  if w.nocause then (w.posbase : Int) + i else (w.posbase : Int) + w.poscount - w.m + i

/-- Key j is visible to query i. -/
def Walk.visible (w : Walk) (i j : Nat) : Bool :=
  let kp : Int := (w.posbase : Int) + j
  let qp := w.queryPos i
  decide (j < w.poscount) && (w.nocause || decide (kp ≤ qp)) && (w.winlo == 0 || decide (kp > qp - w.winlo))

def fmax32 (x y : Nat) : Nat := (fpMinMax fmtF32 false true (unpack fmtF32 x) (unpack fmtF32 y)).1
def fmul32 (x y : Nat) : Nat := (fpMul fmtF32 .rn false (unpack fmtF32 x) (unpack fmtF32 y)).1
def fsub32 (x y : Nat) : Nat := (fpSub fmtF32 .rn false (unpack fmtF32 x) (unpack fmtF32 y)).1

/-- P in its format before it multiplies the values. -/
def toPfmt (w : Walk) (ps : List Nat) : Row :=
  match w.pfmt with
  | 1 => ps.map (fun p => some (unpack fmtF16 (convRne fmtF32 fmtF16 p)))
  | 2 => ps.map (fun p => some (unpack fmtBF16 (convRne fmtF32 fmtBF16 p)))
  | _ =>
    let (sc, codes) := quantiseLine 8 (ps.map (unpack fmtF32))
    codes.map (fun c => some ((taperDecode 8 c).scale sc))

/-- Substeps of a K-step: a block of an ATTN walk sums its scores over 64 of k at a time, then multiplies P by the values
(12 R241; DESIGN CHOICE, log 93). -/
def Walk.scoreSteps (w : Walk) : Nat := ceilDiv w.k 64
def Walk.substeps (w : Walk) : Nat := if w.attn then w.scoreSteps + 1 else 1

/-- A substep of the scores: each sum goes on over the substep's k. -/
def attnScores (w : Walk) (qs keys : List Row) : Walk :=
  let lo := 64 * w.substep
  let n := min 64 (w.k - lo)
  { w with scores := (List.range w.tm).foldl (fun m i => (List.range w.tk).foldl (fun m j =>
      let c := (get 0 m (128 * i + j)).toNat
      put 0 m (128 * i + j) (BitVec.ofNat 32 (dot c ((qs.getD i []).drop lo) ((keys.getD j []).drop lo) n n))) m) w.scores }

/-- One query row's block, given the sums of its scores: the new maximum and sum, the factor of the old output, and P
(DEDUCED, log 69). -/
def attnRow (w : Walk) (first i : Nat) (sums : Nat → Nat) (m l : Nat) : Nat × Nat × Nat × List Nat :=
  let s := (List.range w.tk).map (fun j => if w.visible i (first + j) then fmul32 (sums j) w.scale else negInf)
  let mn := s.foldl fmax32 m
  let a := if mn = negInf then 0x3F800000 else engineExp2 (fsub32 m mn)
  let p := if mn = negInf then s.map (fun _ => 0) else s.map (fun x => engineExp2 (fsub32 x mn))
  let la := (mulExact (unpack fmtF32 l) (unpack fmtF32 a)).getD (.nan false)
  let ln := (packVal fmtF32 .rn false (exactSum .rn (la :: p.map (unpack fmtF32)))).1
  (mn, ln, a, p)

/-- The last substep of a key block: the walk with the rows' maxima and sums, and the output tile (12 R240). -/
def attnStep (w : Walk) (step : Nat) (vals : List Row) (g : Workgroup) : Walk × Workgroup :=
  let t := w.tileOf step
  let first := w.firstK step
  let rows := (List.range w.tm).map (fun i =>
    attnRow w first ((w.tileAt t).1 * w.tm + i) (fun j => (get 0 w.scores (128 * i + j)).toNat) (get (BitVec.ofNat 32 negInf) w.mrow i).toNat (get 0 w.lrow i).toNat)
  let g := mapTile w t w.n (fun i c o =>
    let (_, _, a, p) := rows.getD i (negInf, 0, 0, [])
    dot (fmul32 o a) (toPfmt w p) (vals.getD c []) w.tk (w.validK step)) g
  let w := (rows.zipIdx).foldl (fun (w : Walk) ((m, l, _, _), i) =>
    { w with mrow := put (BitVec.ofNat 32 negInf) w.mrow i (BitVec.ofNat 32 m), lrow := put 0 w.lrow i (BitVec.ofNat 32 l) }) w
  ({ w with scores := [] }, g)

/-- After the last block: the output divided by its sum, and the statistics (12 R240). -/
def attnFinish (w : Walk) (t : Nat) (g : Workgroup) : Workgroup :=
  let g := mapTile w t w.n (fun i _ o =>
    let l := (get 0 w.lrow i).toNat
    if l % 2 ^ 31 = 0 then 0 else (fpDiv fmtF32 .rn false (unpack fmtF32 o) (unpack fmtF32 l)).1) g
  if w.stats then
    (List.range w.tm).foldl (fun (g : Workgroup) i =>
      (g.accPut (w.rowOf t i) w.n (get (BitVec.ofNat 32 negInf) w.mrow i)).accPut (w.rowOf t i) (w.n + 1) (get 0 w.lrow i)) g
  else g

/-- The operands of a step, or FORMAT: A rows, and B rows or keys and values. -/
def stepRows (w : Walk) (step : Nat) (g : Workgroup) : Option (List Row × List Row × List Row) :=
  if w.attn then
    let t := w.tileOf step
    match slotRows g w.fmta (w.placeA (w.stepA step)).1 w.tm w.k, slotRows g w.fmtb (w.placeB (2 * step)).1 w.tk w.k,
      slotRows g w.fmtb (w.placeB (2 * step + 1)).1 w.n w.tk with
    | some q, some k, some v =>
      some (q.zipIdx.map (fun (r, i) => rotateRow g w w.fmta (w.queryPos ((w.tileAt t).1 * w.tm + i)).toNat r),
        k.zipIdx.map (fun (r, j) => rotateRow g w w.fmtb (w.posbase + w.firstK step + j) r), v)
    | _, _, _ => none
  else
    match slotRows g w.fmta (w.placeA step).1 w.tm w.tk, slotRows g w.fmtb (w.placeB step).1 w.tn w.tk with
    | some a, some b => some (a, b, [])
    | _, _ => none

/-- A K-step's multiplication, or a substep's: the walk and the workgroup after it. -/
def multiply (w : Walk) (step : Nat) (rows : List Row × List Row × List Row) (g : Workgroup) : Walk × Workgroup :=
  if w.attn then (if w.substep < w.scoreSteps then (attnScores w rows.1 rows.2.1, g) else attnStep w step rows.2.2 g)
  else (w, gemmStep w step rows.1 rows.2.1 g)

/-- Every A line of the step is S16T6, S12T8 or S4T8 (12 R230). -/
def Walk.sparseA (w : Walk) (step : Nat) (g : Workgroup) : Bool :=
  let (slot, _) := w.placeA (w.stepA step)
  (List.range w.tm).all (fun r =>
    match LineFmt.ofCode (numLE (g.spRead (slot + 64 * w.tm + 2 * r) 2) % 256) with
    | some .s16t6 | some .s12t8 | some .s4t8 => true
    | _ => false)

/-- Cycles of a K-step over `n` of the inner dimension (12 R230). -/
def stepCycles (narrow sparse : Bool) (n : Nat) : Nat := min 64 (if narrow then (if sparse then n / 4 else n / 2) else n)

/-- Cycles of the step or substep that begins (12 R230; DESIGN CHOICE, log 93, for a substep). -/
def Walk.cycles (w : Walk) (step : Nat) (g : Workgroup) : Nat :=
  let narrow := w.fmta == 3 && w.fmtb == 3
  if w.attn then
    (if w.substep < w.scoreSteps then stepCycles narrow (w.sparseA step g) (min 64 (w.k - 64 * w.substep))
     else stepCycles (w.pfmt == 3 && w.fmtb == 3) false w.tk)
  else stepCycles narrow (w.sparseA step g) w.tk

/-- Scratchpad ranges that a step reads. -/
def stepRanges (w : Walk) (step : Nat) : List (Nat × Nat) :=
  w.placeA (w.stepA step) :: (w.stepsB step).map w.placeB ++ (if w.attn ∧ w.roton then [(w.rotbase, w.k / 2 * 8)] else [])

end Sys2Proof.Machine
end

