-- ==== Sys2Proof/Machine/Engine.lean ====
section
/-! DEFINITION. The copy and sweep engines (10 R203-R210): their accesses and faults, and their steps. A command runs in its
start step until it finishes, pauses on a page, or is held by a protection violation (DESIGN CHOICE, log 24). -/
namespace Sys2Proof.Machine

/-! ### Accesses of an engine -/

/-- The fault of an engine's access. -/
inductive EngFault where
  | fault (cause flags va : Nat)
deriving DecidableEq, Repr

/-- The workgroup whose ERRSTAT an engine's access reaches: none once it has released its allocation. -/
def State.engOwner (s : State) (b : Issued) : Option Nat := if (s.wg b.wg).live then some b.wg else none
/-- The record of a storage error that an engine's access finds. -/
def engErr (core agent : Nat) (b : Issued) : FaultRec := { recordOf core agent 0x14 b with word := 0, pc := 0 }

/-- Bytes read from device memory: the state with errors found and heat sampled, the bytes, and where they stand. -/
def State.engLoad (s : State) (core agent : Nat) (b : Issued) (va n : Nat) :
    Except EngFault (State × List Byte × List (Page × Nat)) :=
  match s.placeAll b.part b.func [(0, va)] n { engine := true } with
  | .fault c fl a => .error (.fault c fl a)
  | .ok ps =>
    let bs := ps.flatMap Prod.snd
    let lines := placeLines bs
    let s := (s.findErrors b.part (s.engOwner b) (engErr core agent b) lines).heatLines b.part core lines
    .ok (s, bs.map (fun (pg, off) => s.readByte b.part pg off), bs)

/-- Bytes written to device memory. -/
def State.engStore (s : State) (core agent : Nat) (b : Issued) (va : Nat) (data : List Byte) :
    Except EngFault (State × List (Page × Nat)) :=
  match s.placeAll b.part b.func [(0, va)] data.length { write := true, engine := true } with
  | .fault c fl a => .error (.fault c fl a)
  | .ok ps =>
    match s.tryWrites b.part (s.engOwner b) (engErr core agent b) core (elemWrites ps (fun _ => data)) with
    | .ok s2 => .ok (s2, ps.flatMap Prod.snd)
    | .error a => .error (.fault 0x12 1 a)

/-- The warp that issued a command is still there, on the core of its workgroup. -/
def State.issuerAlive (s : State) (b : Issued) : Bool :=
  let w := s.warp (s.wg b.wg).core b.slot
  w.state != .retired && w.wg == b.wg && w.num == b.warpNum

/-- A saved warp that issued a command. -/
def Issued.isSaved (b : Issued) (slot : Nat) (w : Warp) : Bool := slot == b.slot && w.num == b.warpNum

/-- The warp that issued a command is saved with its workgroup. -/
def State.issuerSaved (s : State) (b : Issued) : Bool :=
  (s.func b.func).ctx.saved.any (fun v => v.key == b.wg && v.warps.any (fun (i, w) => b.isSaved i w))

/-- A command of the workgroup neither starts nor goes on: a forced halt is in force, or its save is in progress (14 R265). -/
def State.engineHalted (s : State) (b : Issued) : Bool := (s.wg b.wg).live && ((s.wg b.wg).forced || (s.wg b.wg).saving)

/-- A warp's record becomes FROZEN (14 R273). -/
def Warp.freezeSaved (w : Warp) (h : HeldCommand) : Warp :=
  match w.state with
  | .frozen _ => w
  | .parked p => { w with state := .frozen (.parked p), heldCommand := h }
  | .swapped x => { w with state := .frozen x, heldCommand := h }
  | .dormant => { w with state := .frozen .dormant, heldCommand := h }
  | _ => { w with state := .frozen .ready, heldCommand := h }

/-- The saved warp that issued a command is FROZEN in its image: it is restored so (14 R273). -/
def State.freezeSavedIssuer (s : State) (b : Issued) (h : HeldCommand) : State :=
  s.modFunc b.func (fun x => { x with ctx := { x.ctx with saved := x.ctx.saved.map (fun (v : SavedWg) =>
    if v.key = b.wg then { v with warps := v.warps.map (fun (i, w) => (i, if b.isSaved i w then w.freezeSaved h else w)) } else v) } })

/-- The warp that issued a command is FROZEN at its word boundary (14 R273). -/
def State.freezeIssuer (s : State) (b : Issued) (h : HeldCommand) : State :=
  let core := (s.wg b.wg).core
  let w := s.warp core b.slot
  match w.state with
  | .frozen _ => s
  | .parked p => s.modWarp core b.slot (fun w => { w with state := .frozen (.parked p), heldCommand := h })
  | .swapped x => s.modWarp core b.slot (fun w => { w with
      state := .frozen x, heldCommand := h, sched := { w.sched with wakeable := false, held := w.sched.held || s.asked w.wg } })
  | .dormant => s.modWarp core b.slot (fun w => { w with state := .frozen .dormant, heldCommand := h })
  | _ => (s.leaveIssue core b.slot (.frozen .ready)).modWarp core b.slot (fun w => { w with heldCommand := h })

/-- What a fault makes of a command: paused until replay, held with its warp frozen, saved or not, or, where the warp has retired,
abandoned (`none`; DEDUCED, log 25). -/
def State.engineFault (s : State) (core agent : Nat) (b : Issued) (h : HeldCommand) : EngFault → State × Option CmdState
  | .fault cause fl va =>
    if cause = 9 then
      let s := s.reportProtect { recordOf core agent 9 b with va := va, flags := fl } (s.engOwner b)
      if s.issuerAlive b then (s.freezeIssuer b h, some .held)
      else if s.issuerSaved b then (s.freezeSavedIssuer b h, some .held)
      else (s, none)
    else (s.reportPage { recordOf core agent cause b with va := faultPage va, flags := fl } (s.engOwner b), some (.paused (faultPage va)))

/-- 64-byte pieces of a range. -/
def pieces (a n : Nat) : List (Nat × Nat) := (List.range ((n + 63) / 64)).map (fun i => (a + 64 * i, min 64 (n - 64 * i)))

/-! ### COPY (10 R204-R206) -/

def copyCtrl (d : List Byte) : Nat := field d 52 4
def copyLen (d : List Byte) : Nat := field d 16 4
def copyRows (d : List Byte) : Nat := field d 20 4
def copyCvt (d : List Byte) : Nat := copyCtrl d / 4 % 4
def copySsp (d : List Byte) : Bool := copyCtrl d % 2 == 1
def copyDsp (d : List Byte) : Bool := copyCtrl d / 2 % 2 == 1
def copyHdr (d : List Byte) : Bool := copyCtrl d / 16 % 2 == 1 && copyCvt d == 0 && !copySsp d && copyDsp d

/-- Source bytes of a unit, and units in a row. -/
def copyUnit (d : List Byte) : Nat :=
  match copyCvt d with
  | 2 => 256
  | 3 => 320
  | _ => 64
def copyPerRow (d : List Byte) : Nat := (copyLen d + copyUnit d - 1) / copyUnit d
def copyTotal (d : List Byte) : Nat := copyRows d * copyPerRow d

/-- The descriptor is one that the engine performs: no reserved value or byte, LEN within R205, whole lines of device memory where lines
are decoded or made (DEDUCED, log 26). -/
def copyOk (d : List Byte) : Bool :=
  decide (copyCtrl d < 2 ^ 10) && decide (copyCtrl d / 128 % 8 ≠ 7) && decide (field d 56 8 = 0) &&
  (match copyCvt d with
    | 0 => true
    | 1 => !copySsp d && copyLen d % 64 == 0 && field d 0 8 % 64 == 0 && (field d 24 8 % 64 == 0 || decide (copyRows d ≤ 1))
    | _ => !copyDsp d && copyLen d % copyUnit d == 0 && field d 8 8 % 64 == 0 && (field d 32 8 % 64 == 0 || decide (copyRows d ≤ 1)))

/-- Row and byte offset within its row of a unit, and its source bytes. -/
def copyRow (d : List Byte) (i : Nat) : Nat := i / max 1 (copyPerRow d)
def copyOff (d : List Byte) (i : Nat) : Nat := i % max 1 (copyPerRow d) * copyUnit d
def copyN (d : List Byte) (i : Nat) : Nat := min (copyUnit d) (copyLen d - copyOff d i)

/-- Base address plus row times stride plus offset, modulo 2^64. -/
def rowAddr (base stride : Word) (row off : Nat) : Nat := (base + BitVec.ofNat 64 row * stride + BitVec.ofNat 64 off).toNat
def copySrc (d : List Byte) (i : Nat) : Nat := rowAddr (fieldW d 0 8) (fieldW d 24 8) (copyRow d i) (copyOff d i)

/-- Destination address and bytes of a unit; `off` counts the bytes that the row's decoded lines have made. -/
def copyDst (d : List Byte) (off i : Nat) : Nat :=
  rowAddr (fieldW d 8 8) (fieldW d 32 8) (copyRow d i)
    (match copyCvt d with
      | 0 => copyOff d i
      | 1 => off
      | _ => copyOff d i / copyUnit d * 64)

/-- A byte of the destination is covered by some row. -/
def copyCovers (d : List Byte) (b : Nat) : Bool :=
  let z : Int := (b : Int) - (field d 8 8 : Nat)
  let st := (fieldW d 32 8).toInt
  let r : Int := if st = 0 then 0 else if st > 0 then min ((copyRows d : Nat) - 1) (z / st) else max 0 ((-z + (-st - 1)) / (-st))
  let o := z - r * st
  decide (0 ≤ r) && decide (r < (copyRows d : Nat)) && decide (0 ≤ o) && decide (o < (copyLen d : Nat))

/-- A destination line that the transfer covers whole, from a whole source line: within the row, or through several rows
where both strides are equal (DEDUCED, log 27). `src` and `dst` are the row's addresses. -/
def copyWhole (d : List Byte) (src dst line : Nat) : Bool :=
  decide (src % 64 = dst % 64) &&
  (if fieldW d 24 8 = fieldW d 32 8 then (List.range 64).all (fun i => copyCovers d (64 * line + i))
   else decide (dst ≤ 64 * line) && decide (64 * line + 64 ≤ dst + copyLen d))

/-- Where a unit's source bytes come from. -/
def copyRead (core : Nat) (c : CopyCmd) (s : State) : Except EngFault (State × List Byte × List (Page × Nat)) :=
  let a := copySrc c.desc c.pos
  let n := copyN c.desc c.pos
  if copySsp c.desc then
    let (s, bs) := (pieces a n).foldl (fun (acc : State × List Byte) (p : Nat × Nat) =>
      let (s, b) := acc.1.engineSpRead c.by_.wg c.by_.warpNum p.1 p.2
      (s, acc.2 ++ b)) (s, [])
    .ok (s, bs, [])
  else s.engLoad core 1 c.by_ a n

/-- Bytes of a unit written to the scratchpad, 64 at a time. -/
def copyPutSp (c : CopyCmd) (s : State) (a : Nat) (data : List Byte) : State × CopyCmd :=
  (pieces a data.length).foldl (fun (acc : State × CopyCmd) (p : Nat × Nat) =>
    let (s, gs) := acc.1.engineSpPut c.by_.wg c.by_.warpNum p.1 ((data.drop (p.1 - a)).take p.2)
    (s, { acc.2 with touched := (acc.2.touched ++ gs).eraseDups })) (s, c)

/-- Bytes of a unit written to device memory, 64 at a time. -/
def copyPutG (core : Nat) (c : CopyCmd) (a : Nat) (data : List Byte) : List (Nat × Nat) → State → Except EngFault State
  | [], s => .ok s
  | p :: r, s =>
    match s.engStore core 1 c.by_ p.1 ((data.drop (p.1 - a)).take p.2) with
    | .ok (s, _) => copyPutG core c a data r s
    | .error f => .error f

/-- FP32 patterns of a unit's bytes. -/
def f32s (bs : List Byte) : List Nat := (List.range (bs.length / 4)).map (fun i => numLE ((bs.drop (4 * i)).take 4))

/-- A line quantised from FP32 values: its header and bytes (05 R91). -/
def quantised (t6 : Bool) (xs : List Nat) : Nat × List Byte :=
  let (sc, codes) := quantiseLine (if t6 then 6 else 8) (xs.map (unpack fmtF32))
  ((BitVec.ofInt 8 sc).toNat * 256 + (if t6 then 2 else 1), encodeDense (if t6 then .t6 else .t8) codes)

/-- A unit's outcome: moved, a fault, or a line that does not decode. -/
inductive UnitOut where
  | moved (s : State) (c : CopyCmd)
  | fault (f : EngFault)
  | format
deriving DecidableEq, Repr

/-- The headers of the source lines that a unit is the first of its row to touch, written to the header array. -/
def copyHeaders (c : CopyCmd) (s : State) (bs : List (Page × Nat)) : State × CopyCmd :=
  if copyHdr c.desc then
    let a := copySrc c.desc c.pos
    let lines := (placeLines bs).drop (if copyOff c.desc c.pos ≠ 0 ∧ a % 64 ≠ 0 then 1 else 0)
    lines.foldl (fun (acc : State × CopyCmd) (l : Page × Nat) =>
      let (s, gs) := acc.1.engineSpPut c.by_.wg c.by_.warpNum (field c.desc 48 4 + 2 * acc.2.lines)
        (bytesLE 2 (acc.1.header c.by_.part l.1 l.2))
      (s, { acc.2 with lines := acc.2.lines + 1, touched := (acc.2.touched ++ gs).eraseDups })) (s, c)
  else (s, c)

/-- The header of each destination line, from the source's places (10 R206). -/
def copyLineHeaders (c : CopyCmd) (s : State) (hdrs : List Nat) (dst : List (Page × Nat)) : State :=
  let a := copySrc c.desc c.pos
  let t := copyDst c.desc c.off c.pos
  ((placeLines dst).zipIdx).foldl (fun (s : State) (l : (Page × Nat) × Nat) =>
    let line := t / 64 + l.2
    if copyWhole c.desc (a - copyOff c.desc c.pos) (t - copyOff c.desc c.pos) line && !s.linkDown c.by_.part l.1.1 then s.setHeader c.by_.part l.1.1 l.1.2 (hdrs.getD l.2 0) else s) s

/-- One unit read, converted and written (10 R205). -/
def copyMove (core : Nat) (c : CopyCmd) (s : State) : UnitOut :=
  match copyRead core c s with
  | .error f => .fault f
  | .ok (s, bytes, src) =>
    let t := copyDst c.desc c.off c.pos
    let hdrs := (placeLines src).map (fun (pg, o) => s.header c.by_.part pg o)
    let next (c : CopyCmd) (made : Nat) : CopyCmd :=
      { c with pos := c.pos + 1, off := if copyRow c.desc (c.pos + 1) = copyRow c.desc c.pos then c.off + made else 0 }
    match copyCvt c.desc with
    | 0 =>
      if copyDsp c.desc then
        let (s, c2) := copyPutSp c s t bytes
        let (s, c3) := copyHeaders c2 s src
        .moved s (next c3 0)
      else
        (match s.engStore core 1 c.by_ t bytes with
          | .error f => .fault f
          | .ok (s, dst) => .moved (if copySsp c.desc then s else copyLineHeaders c s hdrs dst) (next c 0))
    | 1 =>
      (match engineLine (hdrs.getD 0 0) bytes with
        | none => .format
        | some row =>
          let data := row.flatMap (fun x => bytesLE 4 (toF32 (x.getD plusZero)))
          if copyDsp c.desc then
            let (s, c2) := copyPutSp c s t data
            .moved s (next c2 data.length)
          else
            (match copyPutG core c t data (pieces t data.length) s with
              | .error f => .fault f
              | .ok s => .moved s (next c data.length)))
    | k =>
      let (h, line) := quantised (k == 3) (f32s bytes)
      (match s.engStore core 1 c.by_ t line with
        | .error f => .fault f
        | .ok (s, dst) =>
          .moved ((placeLines dst).foldl (fun (s : State) (l : Page × Nat) =>
            if s.linkDown c.by_.part l.1 then s else s.setHeader c.by_.part l.1 l.2 h) s) (next c 0))

/-- Units moved until the command finishes or a fault stops it. -/
def copyRun (core : Nat) : Nat → CopyCmd → State → State × CopyCmd × Option EngFault
  | 0, c, s => (s, { c with state := .finished }, none)
  | n + 1, c, s =>
    match copyMove core c s with
    | .moved s c => copyRun core n c s
    | .fault f => (s, c, some f)
    | .format => (s, { c with state := .finished, status := 0x11 }, none)

/-- Some remaining unit still writes to a granule. -/
def copyLater (c : CopyCmd) (g : Nat) : Bool :=
  let hdr := copyHdr c.desc && (field c.desc 48 4 + 2 * c.lines) / 16 == g && decide ((field c.desc 48 4 + 2 * c.lines) % 16 ≠ 0)
  hdr ||
  (if copyCvt c.desc = 0 then
    (List.range (copyTotal c.desc - c.pos)).any (fun k =>
      let a := copyDst c.desc 0 (c.pos + k)
      decide (a / 16 ≤ g) && decide (g ≤ (a + copyN c.desc (c.pos + k) - 1) / 16))
  else decide (copyDst c.desc c.off c.pos / 16 = g) && decide (copyDst c.desc c.off c.pos % 16 ≠ 0))

def State.setCopy (s : State) (core : Nat) (c : CopyCmd) : State := s.modCore core (fun k => { k with copies := c :: k.copies.tail })

/-- The granules whose bytes are all written become full. -/
def State.fillCopied (s : State) (core : Nat) (c : CopyCmd) : State :=
  let stay := if c.state = .finished then [] else c.touched.filter (copyLater c)
  (s.setCopy core { c with touched := stay }).fillGranules c.by_.wg (c.touched.filter (fun g => !stay.contains g))

/-- COPY_COMMAND_START: the engine performs its first command from where it stands; under a forced halt it pauses there (14 R265). -/
def execCopyCommandStart (core : Nat) (s : State) : Out :=
  match (s.core core).copies with
  | [] => .next s
  | c :: _ =>
    if c.state ≠ .queued ∨ s.engineHalted c.by_ then .next s
    else if !copyOk c.desc then .next (s.setCopy core { c with state := .finished, status := 1 })
    else
      let (s, c2, f) := copyRun core (copyTotal c.desc - c.pos) c s
      match f with
      | none => .next (s.fillCopied core c2)
      | some f =>
        let (s, st) := s.engineFault core 1 c.by_ .copy f
        .next (s.fillCopied core (match st with
          | some x => { c2 with state := x }
          | none => { c2 with state := .finished, status := 9 }))

/-- A copy has ended: it leaves the queue when its DONE is decremented (17 R305), at once where it has none. -/
def State.endCopy (s : State) (core : Nat) (c : CopyCmd) (status : Nat) : State :=
  let va := fieldW c.desc 40 8
  if va = 0 then s.modCore core (fun k => { k with copies := k.copies.erase c })
  else (s.modCore core (fun k => { k with copies := k.copies.replace c { c with state := .closing s.nextCmd } })).closing c.by_ core 1 va status

/-- COPY_COMPLETE: the release, and DONE decremented with the status. -/
def execCopyComplete (core : Nat) (s : State) : Out :=
  match (s.core core).copies with
  | [] => .next s
  | c :: _ => if c.state = .finished then .next (s.endCopy core c c.status) else .next s

/-- A KV command has ended: it leaves the queue when its DONE is decremented (17 R305), at once where it has none. -/
def State.endKv (s : State) (core : Nat) (c : KvCmd) (status : Nat) : State :=
  let va := fieldW c.bytes 16 8
  if va = 0 then s.modCore core (fun k => { k with kvs := k.kvs.erase c })
  else (s.modCore core (fun k => { k with kvs := k.kvs.replace c { c with state := .closing s.nextCmd } })).closing c.by_ core 5 va status

/-! ### Sweeps (10 R207, R209, R210) -/

/-- 32-bit halves of a nest's words: extents from word 1, strides from word 3, indices from word 5. -/
def nestHalf (nv : List Word) (word d : Nat) : Nat := bits (nv.getD (word + d / 2) 0) (32 * (d % 2)) 32
def nestExt (nv : List Word) (d : Nat) : Nat := nestHalf nv 1 d
def nestIdx (nv : List Word) (d : Nat) : Nat := nestHalf nv 5 d
def nestSp (nv : List Word) : Bool := (nv.getD 0 0).getLsbD 57
def nestBytes (nv : List Word) : Nat := 2 ^ bits (nv.getD 0 0) 58 2

/-- The address of an element (R207). -/
def nestAddr (nv : List Word) (idx : Nat → Nat) : Nat :=
  let a : Int := (List.range 4).foldl (fun acc d =>
    if (nv.getD 0 0).getLsbD (60 + d) then acc else acc + (idx d : Int) * signedNat 32 (nestHalf nv 3 d)) (bits (nv.getD 0 0) 0 57 : Nat)
  let x := (BitVec.ofInt 64 a).toNat
  if nestSp nv then x else x % 2 ^ 57

/-- The tuple after one, dimension 0 fastest. -/
def nextIdx (nv : List Word) : List Nat :=
  let i (d : Nat) : Nat := nestIdx nv d
  let e (d : Nat) : Nat := nestExt nv d
  if i 0 + 1 < e 0 then [i 0 + 1, i 1, i 2, i 3]
  else if i 1 + 1 < e 1 then [0, i 1 + 1, i 2, i 3]
  else if i 2 + 1 < e 2 then [0, 0, i 2 + 1, i 3]
  else [0, 0, 0, i 3 + 1]

/-- Index counters and PART written. -/
def nestPut (nv : List Word) (idx : List Nat) (part : Word) : List Word :=
  let w (a b : Nat) : Word := BitVec.ofNat 64 (idx.getD a 0 % 2 ^ 32 + idx.getD b 0 % 2 ^ 32 * 2 ^ 32)
  nv.take 5 ++ [w 0 1, w 2 3, part]

/-- Some element is left. Of counters set at or above their extents, only the outermost ends the sweep: the others' tuple is visited once,
and then carries (DESIGN CHOICE, log 128). -/
def nestMore (nv : List Word) : Bool :=
  (List.range 4).all (fun d => nestExt nv d != 0) && decide (nestIdx nv 3 < nestExt nv 3)
def nestFuel (nv : List Word) : Nat := nestExt nv 0 * nestExt nv 1 * nestExt nv 2 * nestExt nv 3
def nestAtStart (nv : List Word) : Bool := (List.range 4).all (fun d => nestIdx nv d == 0)

/-- The combining operation of a reduction. -/
def sweepRed : SweepOp → RedOp
  | .min => .min
  | .max => .max
  | _ => .add

/-- The identity: FP32 for the float types, else in 64 bits. -/
def sweepIdentity (op : SweepOp) (t : Ty) : Word := redIdentity (sweepRed op) (if t.isFloat then .f32 else t)

/-- P after an element (R209). -/
def sweepCombine (op : SweepOp) (t : Ty) (p x : Word) : Word :=
  if t.isFloat then
    let a := unpack fmtF32 (p.toNat % 2 ^ 32)
    let b := unpack (fmtOf t) (x.toNat % 2 ^ (fmtOf t).width)
    BitVec.ofNat 64 (match op with
      | .min => (fpMinMax fmtF32 false false a b).1
      | .max => (fpMinMax fmtF32 false true a b).1
      | _ => (fpAdd fmtF32 .rn false a b).1)
  else
    let y := narrow t x
    match op with
    | .min => if signed t then (if p.slt y then p else y) else (if p < y then p else y)
    | .max => if signed t then (if p.slt y then y else p) else (if p < y then y else p)
    | _ => p + y

/-- P before the next element. -/
def sweepPart (c : SweepCmd) : Word := if nestAtStart c.src then sweepIdentity c.op c.ty else c.src.getD 7 0

/-- PART after an element of .copy: as it was, or from the start a free value, since R129 gives .copy no identity (R209; DESIGN
CHOICE, log 4). -/
def copyPart (c : SweepCmd) (s : State) : Word :=
  if nestAtStart c.src then BitVec.ofNat 64 (numLE ((List.range 8).map (Config.freeByte s.freeCtr))) else c.src.getD 7 0

def isCopySweep : SweepOp → Bool
  | .copy _ => true
  | _ => false

/-- One element read. -/
def sweepRead (core : Nat) (c : SweepCmd) (s : State) : Except EngFault (State × Word) :=
  let a := nestAddr c.src (nestIdx c.src)
  let n := nestBytes c.src
  if nestSp c.src then
    let (s, bs) := s.engineSpRead c.by_.wg c.by_.warpNum a n
    .ok (s, BitVec.ofNat 64 (numLE bs))
  else
    match s.engLoad core 2 c.by_ a n with
    | .error f => .error f
    | .ok (s, bs, _) => .ok (s, BitVec.ofNat 64 (numLE bs))

/-- One element written by .copy. -/
def sweepWrite (core : Nat) (c : SweepCmd) (s : State) (x : Word) : Except EngFault (State × List Nat) :=
  let a := nestAddr c.dst (nestIdx c.src)
  let bs := bytesLE (nestBytes c.src) x.toNat
  if nestSp c.dst then .ok (s.engineSpPut c.by_.wg c.by_.warpNum a bs)
  else
    match s.engStore core 2 c.by_ a bs with
    | .error f => .error f
    | .ok (s, _) => .ok (s, [])

/-- Elements moved or combined until the sweep finishes or a fault stops it. -/
def sweepRun (core : Nat) : Nat → SweepCmd → State → State × SweepCmd × Option EngFault
  | 0, c, s => (s, { c with state := .finished }, none)
  | n + 1, c, s =>
    if !nestMore c.src then (s, { c with state := .finished }, none)
    else
      match sweepRead core c s with
      | .error f => (s, c, some f)
      | .ok (s2, x) =>
        if isCopySweep c.op then
          match sweepWrite core c s2 x with
          | .error f => (s, c, some f)
          | .ok (s3, gs) =>
            sweepRun core n { c with src := nestPut c.src (nextIdx c.src) (copyPart c s3), moved := c.moved + 1
                                     touched := (c.touched ++ gs).eraseDups } (if nestAtStart c.src then s3.nextFree else s3)
        else
          sweepRun core n { c with src := nestPut c.src (nextIdx c.src) (sweepCombine c.op c.ty (sweepPart c) x), moved := c.moved + 1 } s2

/-- Some remaining element is written to a granule. -/
def sweepLater (dst : List Word) (n g : Nat) : Nat → List Word → Bool
  | 0, _ => false
  | k + 1, nv =>
    if !nestMore nv then false
    else
      let a := nestAddr dst (nestIdx nv)
      (decide (a / 16 ≤ g) && decide (g ≤ (a + n - 1) / 16)) || sweepLater dst n g k (nestPut nv (nextIdx nv) 0)

def State.setSweep (s : State) (core sched : Nat) (c : SweepCmd) : State :=
  s.modCore core (fun k => k.modSched sched (fun x => { x with sweeps := c :: x.sweeps.tail }))

/-- The nest's position as the warp's register holds it. -/
def State.putNest (s : State) (core : Nat) (c : SweepCmd) (nv : List Word) : State :=
  if s.issuerAlive c.by_ then s.modWarp core c.by_.slot (fun w => w.setNests c.ns ((List.range 8).map (fun k => (k, nv.getD k 0))))
  else s

/-- The sweep's position kept, and the granules whose bytes are all written become full. -/
def State.keepSweep (s : State) (core sched : Nat) (c : SweepCmd) : State :=
  let stay := if c.state = .finished then []
    else c.touched.filter (fun g => sweepLater c.dst (nestBytes c.src) g (nestFuel c.src) c.src)
  ((s.putNest core c c.src).setSweep core sched { c with touched := stay }).fillGranules c.by_.wg
    (c.touched.filter (fun g => !stay.contains g))

/-- What d receives: the count of elements moved, or P. -/
def sweepResult (c : SweepCmd) : Word := if isCopySweep c.op then BitVec.ofNat 64 c.moved else sweepPart c

/-- A sweep has ended: d is written, and it leaves the queue when its counter is decremented (R209; 17 R305), at once where it names
none; a register that holds 0 names the counter at 0. -/
def State.endSweep (s : State) (core sched : Nat) (c : SweepCmd) (status : Nat) : State :=
  let s := if s.issuerAlive c.by_ then
      s.modWarp core c.by_.slot (fun w =>
        if w.flights.any (fun f => f.id == c.flight) then
          { w.writeS c.d (sweepResult c) with flights := w.flights.filter (fun f => f.id != c.flight) }
        else w)
    else s
  let queue (f : List SweepCmd → List SweepCmd) : State := s.modCore core (fun k => k.modSched sched (fun x => { x with sweeps := f x.sweeps }))
  match c.ctr with
  | none => queue (fun l => l.erase c)
  | some va => (queue (fun l => l.replace c { c with state := .closing s.nextCmd })).closing c.by_ core 2 va status

/-- SWEEP_START: the scheduler's engine performs its first sweep from where it stands; under a forced halt it stops there (14 R265). -/
def execSweepStart (core sched : Nat) (s : State) : Out :=
  match ((s.core core).sched sched).sweeps with
  | [] => .next s
  | c :: _ =>
    if c.state ≠ .queued ∨ s.engineHalted c.by_ then .next s
    else
      let (s, c2, f) := sweepRun core (nestFuel c.src) c s
      match f with
      | none => .next (s.keepSweep core sched c2)
      | some f =>
        let (s, st) := s.engineFault core 2 c.by_ .sweep f
        match st with
        | some x => .next (s.keepSweep core sched { c2 with state := x })
        | none =>
          let s := s.keepSweep core sched { c2 with state := .finished }
          .next (s.endSweep core sched ((((s.core core).sched sched).sweeps.head?).getD c2) 9)

/-- SWEEP_END: d is written, the nest's position is cleared and the counter is decremented (R209). -/
def execSweepEnd (core sched : Nat) (s : State) : Out :=
  match ((s.core core).sched sched).sweeps with
  | [] => .next s
  | c :: _ => if c.state = .finished then .next ((s.putNest core c (nestPut c.src [] 0)).endSweep core sched c 0) else .next s

end Sys2Proof.Machine
end

