-- ==== Sys2Proof/Machine/Groups.lean ====
section
/-! DEFINITION. Collective descriptors, the entries of collective groups, and sequence numbers (17 R308, R309, R315). -/
namespace Sys2Proof.Machine

def collGroup (d : List Byte) : Nat := field d 0 1
def collOp (d : List Byte) : Nat := field d 1 1
def collType (d : List Byte) : Nat := field d 2 1
def collPush (d : List Byte) : Bool := field d 3 1 == 1
def collFlags (d : List Byte) : Nat := field d 4 4
def collVote (d : List Byte) : Bool := collFlags d % 2 == 1
def collCount (d : List Byte) : Nat := field d 8 4
def collSrc (d : List Byte) : Nat := field d 16 8
def collDst (d : List Byte) : Nat := field d 24 8
def collRes (d : List Byte) : Nat := field d 32 8
def collT8 (d : List Byte) : Bool := collType d == 2
/-- Bytes of an element of SRC. -/
def collElem (d : List Byte) : Nat := if collType d = 1 then 2 else 4

def entryFlags (e : List Byte) : Nat := field e 0 1
def entrySize (e : List Byte) : Nat := field e 2 2 % 4096 + 1
def entryRank (e : List Byte) : Nat := field e 4 2
def entryEpoch (e : List Byte) : Nat := field e 6 2
def entryPush (e : List Byte) : Nat := field e 32 4
/-- Microseconds without progress. -/
def entryTimeout (e : List Byte) : Nat := if field e 36 4 = 0 then 10000 else field e 36 4

/-- The collective has ended, and waits for its decrement. -/
def Collective.closes (c : Collective) : Bool :=
  match c.state with
  | .closing _ => true
  | _ => false

/-- CGTBASE (R308). -/
def State.groupAddr (s : State) (p g : Nat) : Nat := bits (s.part p).cgtbase 14 43 * 16384 + 64 * g

/-- The group's entry: an address outside the partition's HBM space does not exist. -/
def State.groupEntry (s : State) (p g : Nat) : Option (List Byte) :=
  if (s.part p).cgtbase.getLsbD 0 then
    if s.groupAddr p g + 64 > (s.part p).hbmSize then none else some (s.bytesAt (hbmPlace p (s.groupAddr p g)) 64)
  else some (List.replicate 64 0)

def State.send (s : State) (x : Sent) : State := { s with out := s.out ++ [x] }

/-- The sequence number of a collective that starts: that of its launch's slices, or the group's next in this EPOCH (R308, R315). -/
def State.takeSeq (s : State) (c : Collective) (e : List Byte) : State × Nat :=
  let p := c.by_.part
  let g := collGroup c.desc
  match c.shared with
  | some q => (s, q)
  | none =>
    let (next, epoch) := get (0, 0) (s.part p).cseq g
    let q := if epoch = entryEpoch e then next else 0
    let s := s.modPart p (fun x => { x with
      cseq := put (0, 0) x.cseq g (q + 1, entryEpoch e)
      colls := x.colls.map (fun y => if c.slice.isSome && y.slice.isSome && y.by_.lid == c.by_.lid then { y with shared := some q } else y) })
    (if c.slice.isSome then s.modLaunch c.by_.lid (fun l => if l.open_ then { l with collSeq := some q } else l) else s, q)

end Sys2Proof.Machine
end

