-- ==== Sys2Proof/Machine/Mass.lean ====
section
/-! DEFINITION. The mass registers (08 R148-R163; 05 R92; 22 R348): the instructions, majors 0x70-0x73, which arrive at the
core's mass-register unit, and the unit's start of them in arrival order. Node sums are computed from the leaves (DEDUCED, log 9). -/
namespace Sys2Proof.Machine

/-! ### Registers and linked registers (08 R149-R151) -/

def noMass : MassReg := {}
def Workgroup.massReg (g : Workgroup) (m : Nat) : MassReg := get noMass g.mass m
def Workgroup.setMass (g : Workgroup) (m : Nat) (r : MassReg) : Workgroup := { g with mass := put noMass g.mass m r }

/-- The members of the register that a head names. -/
def Workgroup.members (g : Workgroup) (h : Nat) : List Nat := (List.range (g.massReg h).link).map (fun i => h + i)

/-- The leaf count of a register or link. -/
def Workgroup.leafCount (g : Workgroup) (h : Nat) : Nat :=
  let k := (g.massReg h).link
  16384 * (k - 1) + (g.massReg (h + k - 1)).n

/-- The limit in force, or the leaf count (08 R150). -/
def Workgroup.cut (g : Workgroup) (h : Nat) : Nat := (g.massReg h).limit.getD (g.leafCount h)

/-- A stored leaf by its index in the link. -/
def Workgroup.leaf (g : Workgroup) (h i : Nat) : Nat := (get 0 (g.massReg (h + i / 16384)).leaves (i % 16384)).toNat
def Workgroup.setLeaf (g : Workgroup) (h i x : Nat) : Workgroup :=
  let r := g.massReg (h + i / 16384)
  g.setMass (h + i / 16384) { r with leaves := put 0 r.leaves (i % 16384) (BitVec.ofNat 32 x) }

/-- The nonzero effective leaves in ascending index, with their values. -/
def Workgroup.effLeaves (g : Workgroup) (h : Nat) : List (Nat × Nat) :=
  let all := (List.range (g.massReg h).link).flatMap (fun k =>
    (g.massReg (h + k)).leaves.map (fun (i, x) => (16384 * k + i, x.toNat)))
  all.filter (fun (i, _) => decide (i < g.cut h))

/-- P(i): the sum of the effective leaves below i (08 R159). -/
def prefixSum (ls : List (Nat × Nat)) (i : Nat) : Nat := ls.foldl (fun t (j, x) => if j < i then t + x else t) 0

/-- FindLeaf (08 R160): the least index whose inclusive prefix exceeds T; past the total, the last leaf above 0. -/
def findLeaf : List (Nat × Nat) → Nat → Nat → Nat
  | [], _, last => last
  | (j, x) :: r, t, _ => if t < x then j else findLeaf r (t - x) j

/-- The least j from 1 with P(j) ≥ T, if any (08 R161). -/
def cutIndex : List (Nat × Nat) → Nat → Option Nat
  | [], _ => none
  | (j, x) :: r, t => if t ≤ x then some (j + 1) else cutIndex r (t - x)

/-! ### Conversions (05 R92; 08 R160) -/

/-- Trunc(m * 2^e). -/
def truncScale (m : Nat) (e : Int) : Nat := if 0 ≤ e then m * 2 ^ e.toNat else m / 2 ^ (-e).toNat

/-- An FP32 pattern as a leaf, with whether MASSX is set. -/
def toLeaf (f x : Nat) : Nat × Bool :=
  match unpack fmtF32 x with
  | .nan _ => (0, true)
  | .inf neg => if neg then (0, true) else (2 ^ 32 - 1, true)
  | .fin neg m e =>
    if m = 0 then (0, false)
    else if neg then (0, true)
    else if truncScale m (e + f) > 2 ^ 32 - 1 then (2 ^ 32 - 1, true) else (truncScale m (e + f), false)

/-- A target: FP32 or raw, saturated at 2^48 - 1, with whether MASSX is set. -/
def toTarget (raw : Bool) (f : Nat) (x : Word) : Nat × Bool :=
  let top := 2 ^ 48 - 1
  if raw then (min x.toNat top, false)
  else
    match unpack fmtF32 (x.toNat % 2 ^ 32) with
    | .nan _ => (0, true)
    | .inf neg => if neg then (0, true) else (top, false)
    | .fin neg m e => if m = 0 then (0, false) else if neg then (0, true) else (min (truncScale m (e + f)) top, false)

/-- A sum or leaf as a result: the integer, or S * 2^-f rounded to FP32 (08 R159). -/
def massResult (raw : Bool) (f n : Nat) : Word :=
  if raw then BitVec.ofNat 64 n else BitVec.ofNat 64 (packVal fmtF32 .rn false (.fin false n (-(f : Int)))).1

/-! ### What the unit does with an instruction -/

/-- The unit's answer: a MASS reason with its lanes and value, or the effect: the workgroup, MASSX, and a destination. -/
inductive MassOut where
  | fail (reason : Nat) (lanes : LaneMask) (value : Nat)
  | ok (g : Workgroup) (massx : LaneMask) (dst : Option LaneVec)
deriving DecidableEq, Repr

/-- The register that an instruction names, its `.raw` bit and destination. -/
def massName : Instr → Nat × Bool × Option Operand
  | .mtcfg _ raw m _ | .mtlink _ raw m _ | .mtclr _ raw m | .mtload _ raw m _ _ | .mtset _ raw m _ _
  | .mtadd _ raw _ m _ _ => (m.toNat, raw, none)
  | .mtget _ raw m d _ | .mtpfx _ raw m d _ | .mtfind _ raw m d _ | .mttot _ raw m d | .mtcutIdx _ raw m d _
  | .mtcutMass _ raw m d _ => (m.toNat, raw, some d)
  | _ => (0, false, none)

/-- The instruction's operands are per lane and all uniform, or its destination is scalar: one lane 0 (08 R155; 06 R109). -/
def massScalar : Instr → Bool
  | .mtset _ _ _ a b | .mtadd _ _ _ _ a b => !a.perLane && !b.perLane
  | .mtcfg _ _ _ _ | .mtlink _ _ _ _ | .mtclr _ _ _ | .mtload _ _ _ _ _ => true
  | i => match (massName i).2.2 with
    | some d => d.isS
    | none => false

/-- The lanes that it computes. -/
def massLanes (o : MassOp) : List Nat := if massScalar o.instr then [0] else lanesOf o.act

def massIndex (o : MassOp) (l : Nat) : Nat := bits (laneAt o.a l) 0 32

/-- Reason 2 for the lanes whose index is beyond a bound. -/
def indexFail (o : MassOp) (bad : Nat → Bool) : Option MassOut :=
  match (massLanes o).filter bad with
  | [] => none
  | l :: r => some (.fail 2 (maskOf (fun j => j == l || r.contains j)) (massIndex o l))

/-- The MTCFG word (08 R156, R157). -/
def massCfg (g : Workgroup) (m : Nat) (o : MassOp) : MassOut :=
  let x := laneAt o.a 0
  if bits x 0 6 > 32 ∨ bits x 6 10 ≠ 0 ∨ bits x 30 34 ≠ 0 then .fail 5 o.act x.toNat
  else
    let g := (g.members m).foldl (fun g i =>
      if i = m then g else let r := g.massReg i; g.setMass i { conf := r.conf, f := r.f, n := r.n }) g
    .ok (g.setMass m { conf := true, f := bits x 0 6, n := bits x 16 14 + 1 }) 0 none

/-- A register may be joined as member `i` of a link of `k` from `m` (08 R157). -/
def joinable (g : Workgroup) (m k i : Nat) : Bool :=
  let r := g.massReg (m + i)
  decide (m + i < g.massOwned) && r.conf && r.link == 1 && !r.member && r.limit.isNone && r.f == (g.massReg m).f &&
    (i + 1 == k || r.n == 16384)

def massLink (g : Workgroup) (m k : Nat) (o : MassOp) : MassOut :=
  if (List.range k).all (joinable g m k) then
    .ok ((List.range k).foldl (fun g i => g.setMass (m + i)
      (if i = 0 then { g.massReg m with link := k } else { g.massReg (m + i) with member := true })) g) 0 none
  else .fail 6 o.act 0

/-- MTCLR clears leaves and limit; f, N and the link stay. -/
def massClear (g : Workgroup) (m : Nat) : MassOut :=
  .ok ((g.members m).foldl (fun g i => g.setMass i { g.massReg i with leaves := [], limit := none }) g) 0 none

/-- MTLOAD reads one value of the scratchpad for each leaf (08 R157). -/
def massLoadStep (m : Nat) (raw : Bool) (by_ : OobBy) (at_ : Nat) (g : Workgroup × LaneMask) (first i : Nat) : Workgroup × LaneMask :=
  let a := at_ + 4 * i
  let w := g.1.oobAt 0 by_ a 4
  let w := if w.spIn a 4 then w.spFind a 4 else w
  let x := numLE (w.spRead a 4)
  let (v, e) := if raw then (x, false) else toLeaf (w.massReg m).f x
  (w.setLeaf m (first + i) v, if e then g.2 ||| BitVec.ofNat 64 (2 ^ (i % 64)) else g.2)

def massLoad (g : Workgroup) (m : Nat) (raw : Bool) (by_ : OobBy) (o : MassOp) : MassOut :=
  let b := laneAt o.b 0
  let first := bits b 0 17
  let count := bits b 32 17
  if count = 0 ∨ first + count > g.leafCount m then .fail 2 o.act (first + count * 2 ^ 17)
  else
    let r := (List.range count).foldl (fun acc i => massLoadStep m raw by_ (laneAt o.a 0).toNat acc first i) (g, 0)
    .ok r.1 r.2 none

/-- A lane's value in leaf units, with whether its conversion sets MASSX (08 R158). -/
def massValue (raw sgn : Bool) (f : Nat) (o : MassOp) (l : Nat) : Int × Bool :=
  let x := laneAt o.b l
  if raw then (if sgn then (x.setWidth 32).toInt else (bits x 0 32 : Nat), false)
  else let (v, e) := toLeaf f (bits x 0 32); ((v : Nat), e)

/-- The lanes of a list whose conversion sets MASSX. -/
def convMask (ls : List Nat) (f : Nat → Bool) : LaneMask := maskOf (fun l => ls.contains l && f l)

def massSet (g : Workgroup) (m : Nat) (raw : Bool) (o : MassOp) : MassOut :=
  match indexFail o (fun l => decide (massIndex o l ≥ g.leafCount m)) with
  | some r => r
  | none =>
    let f := (g.massReg m).f
    let ls := massLanes o
    .ok (ls.foldl (fun g l => g.setLeaf m (massIndex o l) (massValue raw false f o l).1.toNat) g)
      (convMask ls (fun l => (massValue raw false f o l).2)) none

/-- MTADD: the lanes of one leaf add exactly, and the sum clamps (08 R158). -/
def massAdd (g : Workgroup) (m : Nat) (raw sgn : Bool) (o : MassOp) : MassOut :=
  match indexFail o (fun l => decide (massIndex o l ≥ g.leafCount m)) with
  | some r => r
  | none =>
    let f := (g.massReg m).f
    let ls := massLanes o
    let total (g : Workgroup) (j : Nat) : Int :=
      ls.foldl (fun t l => if massIndex o l = j then t + (massValue raw sgn f o l).1 else t) ((g.leaf m j : Nat) : Int)
    let top : Int := 2 ^ 32 - 1
    let clamped (j : Nat) : Bool := decide (total g j < 0) || decide (total g j > top)
    .ok ((ls.map (massIndex o)).eraseDups.foldl (fun g2 j => g2.setLeaf m j (max 0 (min top (total g j))).toNat) g)
      (convMask ls (fun l => (massValue raw sgn f o l).2 || clamped (massIndex o l))) none

/-- MTGET and MTPFX: one result for each lane. -/
def massGet (g : Workgroup) (m : Nat) (raw : Bool) (o : MassOp) : MassOut :=
  match indexFail o (fun l => decide (massIndex o l ≥ g.leafCount m)) with
  | some r => r
  | none => .ok g 0 (some (mkVec (fun l =>
      let i := massIndex o l
      massResult raw (g.massReg m).f (if i < g.cut m then g.leaf m i else 0))))

def massPfx (g : Workgroup) (m : Nat) (raw : Bool) (o : MassOp) : MassOut :=
  match indexFail o (fun l => decide (massIndex o l > g.leafCount m)) with
  | some r => r
  | none => .ok g 0 (some (mkVec (fun l => massResult raw (g.massReg m).f (prefixSum (g.effLeaves m) (massIndex o l)))))

/-- MTFIND: a target that no FP32 holds exactly sets MASSX of the lane; with a v destination every active lane counts, with a uniform
target too (DESIGN CHOICE, log 107). -/
def massFind (g : Workgroup) (m : Nat) (raw : Bool) (o : MassOp) : MassOut :=
  let f := (g.massReg m).f
  .ok g (convMask (massLanes o) (fun l => (toTarget raw f (laneAt o.a l)).2))
    (some (mkVec (fun l => BitVec.ofNat 64 (findLeaf (g.effLeaves m) (toTarget raw f (laneAt o.a l)).1 0xFFFFFFFF))))

def massTot (g : Workgroup) (m : Nat) (raw : Bool) : MassOut :=
  .ok g 0 (some (mkVec (fun _ => massResult raw (g.massReg m).f (prefixSum (g.effLeaves m) (g.leafCount m)))))

/-- A limit set, or removed, with the new limit as the result. -/
def massCutTo (g : Workgroup) (m : Nat) (lim : Option Nat) (x : LaneMask) : MassOut :=
  let g := g.setMass m { g.massReg m with limit := lim }
  .ok g x (some (mkVec (fun _ => BitVec.ofNat 64 (g.cut m))))

/-- MTCUT.idx; a limit beyond the leaves is reason 2 of every active lane (DESIGN CHOICE, log 107). -/
def massCutIdx (g : Workgroup) (m : Nat) (o : MassOp) : MassOut :=
  let x := (laneAt o.a 0).toNat
  if x > g.leafCount m then .fail 2 o.act x
  else massCutTo g m (if x = g.leafCount m then none else some x) 0

/-- MTCUT.mass: T = 0 is reached by the first leaf; a mass above the total leaves the limit (08 R161). MASSX: bit 0 with an s
destination, else every active lane's bit (DESIGN CHOICE, log 107). -/
def massCutMass (g : Workgroup) (m : Nat) (raw : Bool) (o : MassOp) : MassOut :=
  let (t, e) := toTarget raw (g.massReg m).f (laneAt o.a 0)
  let lim := if g.cut m = 0 then (g.massReg m).limit
    else if t = 0 then some 1
    else match cutIndex (g.effLeaves m) t with
      | some j => some j
      | none => (g.massReg m).limit
  massCutTo g m lim (if e then (if massScalar o.instr then 1 else o.act) else 0)

/-- Checks and effect of an instruction (08 R153, R157-R161). Where several reasons of a MASS trap hold, the first of 1, 3, 4 is
given, then the instruction's own (DESIGN CHOICE, log 106). -/
def massEffect (g : Workgroup) (by_ : OobBy) (o : MassOp) : MassOut :=
  let m := (massName o.instr).1
  let r := g.massReg m
  let cfg := match o.instr with | .mtcfg .. => true | _ => false
  if m ≥ g.massOwned then .fail 1 o.act 0
  else if !cfg && !r.conf then .fail 3 o.act 0
  else if r.member then .fail 4 o.act 0
  else
    match o.instr with
    | .mtcfg .. => massCfg g m o
    | .mtlink _ _ _ k => massLink g m k.toNat o
    | .mtclr .. => massClear g m
    | .mtload _ raw _ _ _ => massLoad g m raw by_ o
    | .mtset _ raw _ _ _ => massSet g m raw o
    | .mtadd _ raw sgn _ _ _ => massAdd g m raw sgn o
    | .mtget _ raw _ _ _ => massGet g m raw o
    | .mtpfx _ raw _ _ _ => massPfx g m raw o
    | .mtfind _ raw _ _ _ => massFind g m raw o
    | .mttot _ raw _ _ => massTot g m raw
    | .mtcutIdx .. => massCutIdx g m o
    | .mtcutMass _ raw _ _ _ => massCutMass g m raw o
    | _ => .ok g 0 none

/-! ### The words: arrival at the unit (08 R153, R163) -/

/-- A value, mass or target operand: FP32 in the `.f32` form, else all 64 bits (22 R348). -/
def massOperand (c : Ctx) (raw : Bool) (o : Operand) : LaneVec :=
  mkVec (fun l => if raw then src64 c o l else BitVec.ofNat 64 (srcFp c .f32 o l))
/-- An index, offset or configuration operand. -/
def plainOperand (c : Ctx) (o : Operand) : LaneVec := mkVec (fun l => src64 c o l)

/-- Arrival order: that of the issue cycles, then ascending scheduler (08 R163). -/
def insertArrival (o : MassOp) : List MassOp → List MassOp
  | [] => [o]
  | x :: r => if o.at_ = x.at_ ∧ o.slot / 16 < x.slot / 16 then o :: x :: r else x :: insertArrival o r

/-- The word arrives with its operands; the warp issues no further word until the unit starts it, and its PC stays. -/
def massArrive (i : Instr) (a b : LaneVec) (c : Ctx) (s : State) : Res :=
  if c.act = 0 then .done s []
  else
    let regs := match (massName i).2.2 with
      | some d => dstReg c d
      | none => []
    let op : MassOp := { slot := c.slot, instr := i, act := c.act, a := a, b := b, flight := c.w.nextFlight, at_ := s.now }
    let s2 := launchFlight c s .mass regs [] .none true false
    .stay (s2.modCore c.core (fun k => { k with massQ := insertArrival op k.massQ })) regs

def execMtcfg (h : Hdr) (raw : Bool) (m : BitVec 2) (a : Operand) (s : State) : Out :=
  issueWord (.mtcfg h raw m a) (fun c s => massArrive (.mtcfg h raw m a) (plainOperand c a) zeroVec c s) s
def execMtlink (h : Hdr) (raw : Bool) (m : BitVec 2) (k : BitVec 8) (s : State) : Out :=
  issueWord (.mtlink h raw m k) (fun c s => massArrive (.mtlink h raw m k) zeroVec zeroVec c s) s
def execMtclr (h : Hdr) (raw : Bool) (m : BitVec 2) (s : State) : Out :=
  issueWord (.mtclr h raw m) (fun c s => massArrive (.mtclr h raw m) zeroVec zeroVec c s) s

/-- MTLOAD's alignment is checked at issue (08 R157). -/
def execMtload (h : Hdr) (raw : Bool) (m : BitVec 2) (a b : Operand) (s : State) : Out :=
  issueWord (.mtload h raw m a b) (fun c s =>
    if c.act ≠ 0 ∧ (src64 c a 0).toNat % 4 ≠ 0 then .trap s 7 c.act (src64 c a 0)
    else massArrive (.mtload h raw m a b) (plainOperand c a) (plainOperand c b) c s) s
def execMtset (h : Hdr) (raw : Bool) (m : BitVec 2) (a b : Operand) (s : State) : Out :=
  issueWord (.mtset h raw m a b) (fun c s => massArrive (.mtset h raw m a b) (plainOperand c a) (massOperand c raw b) c s) s
def execMtadd (h : Hdr) (raw sgn : Bool) (m : BitVec 2) (a b : Operand) (s : State) : Out :=
  issueWord (.mtadd h raw sgn m a b) (fun c s =>
    massArrive (.mtadd h raw sgn m a b) (plainOperand c a) (massOperand c raw b) c s) s
def execMtget (h : Hdr) (raw : Bool) (m : BitVec 2) (d a : Operand) (s : State) : Out :=
  issueWord (.mtget h raw m d a) (fun c s => massArrive (.mtget h raw m d a) (plainOperand c a) zeroVec c s) s
def execMtpfx (h : Hdr) (raw : Bool) (m : BitVec 2) (d a : Operand) (s : State) : Out :=
  issueWord (.mtpfx h raw m d a) (fun c s => massArrive (.mtpfx h raw m d a) (plainOperand c a) zeroVec c s) s
def execMtfind (h : Hdr) (raw : Bool) (m : BitVec 2) (d a : Operand) (s : State) : Out :=
  issueWord (.mtfind h raw m d a) (fun c s => massArrive (.mtfind h raw m d a) (massOperand c raw a) zeroVec c s) s
def execMttot (h : Hdr) (raw : Bool) (m : BitVec 2) (d : Operand) (s : State) : Out :=
  issueWord (.mttot h raw m d) (fun c s => massArrive (.mttot h raw m d) zeroVec zeroVec c s) s
def execMtcutIdx (h : Hdr) (raw : Bool) (m : BitVec 2) (d a : Operand) (s : State) : Out :=
  issueWord (.mtcutIdx h raw m d a) (fun c s => massArrive (.mtcutIdx h raw m d a) (plainOperand c a) zeroVec c s) s
def execMtcutMass (h : Hdr) (raw : Bool) (m : BitVec 2) (d a : Operand) (s : State) : Out :=
  issueWord (.mtcutMass h raw m d a) (fun c s => massArrive (.mtcutMass h raw m d a) (massOperand c raw a) zeroVec c s) s

/-! ### The unit (08 R153, R162-R164) -/

/-- A started instruction has not written its destination yet (08 R163). -/
def State.massBusy (s : State) (core : Nat) : Bool :=
  (s.core core).warps.any (fun (_, w) => w.flights.any (fun f => f.kind == .mass && !f.holds))

/-- A register of the instruction is being rebuilt after a restore (08 R164). -/
def massRebuilding (g : Workgroup) (o : MassOp) : Bool :=
  (g.members (massName o.instr).1).any (fun i => (g.massReg i).rebuilding)

/-- The issuing entry of a word in flight that its warp stays at. -/
def flightEntry (w : Warp) (f : Flight) : Entry := (w.frontier.find? (fun e => e.pc == f.pc)).getD { prio := 0, pc := f.pc, lanes := 0 }

/-- The register write of a destination with the active lanes of the op. -/
def massWrites (c : Ctx) (o : MassOp) (v : LaneVec) : List RegWrite :=
  match (massName o.instr).2.2 with
  | some d => dstWrite { c with act := o.act } d (fun l => laneAt v l)
  | none => []

/-- The unit starts one instruction for a warp: a MASS trap, or the effect with the destination in flight (08 R153) (DEDUCED, log 68). -/
def State.massStart (s : State) (core : Nat) (o : MassOp) : State :=
  let w := s.warp core o.slot
  match w.flights.find? (fun f => f.id == o.flight) with
  | none => s
  | some f =>
    let c := s.ctxAt (.warp core o.slot) w (flightEntry w f) (hdrOf o.instr)
    let m := (massName o.instr).1
    match massEffect c.wg (oobBy c s) o with
    | .fail reason lanes value =>
      let s := s.modWarp core o.slot (fun w => { w with flights := w.flights.filter (fun x => x.id != o.flight) })
      takeTrap c s 0x0C lanes (BitVec.ofNat 64 (value % 2 ^ 48 * 2 ^ 16 + m * 16 + reason)) (encode o.instr)
    | .ok g x dst =>
      let s := s.setWg c.wgk g
      s.modWarp core o.slot (fun w =>
        let w := { w with massx := w.massx ||| x, flights := match dst with
          | none => w.flights.filter (fun y => y.id != o.flight)
          | some v => w.flights.map (fun (y : Flight) => if y.id = o.flight then { y with holds := false, writes := massWrites c o v } else y) }
        w.advance s.now c.e)

/-- MASS_UNIT_START: the next arrived instruction starts, in a later cycle than it issued in, once the one before it has
written its destination (DEDUCED, log 96). -/
def execMassUnitStart (core : Nat) (s : State) : Out :=
  match (s.core core).massQ with
  | [] => .next s
  | o :: r =>
    if decide (s.now ≤ o.at_) || s.massBusy core || massRebuilding (s.wg (s.warp core o.slot).wg) o then .next s
    else .next ((s.modCore core (fun k => { k with massQ := r })).massStart core o)

/-- The lowest register being rebuilt, of the core's workgroups in ascending key. -/
def State.rebuilding (s : State) (core : Nat) : Option (Nat × Nat) :=
  s.wgs.findSome? (fun (k, g) => if g.live ∧ g.core = core then
    ((List.range 4).find? (fun i => (g.massReg i).rebuilding)).map (fun i => (k, i)) else none)

/-- MASS_REBUILD_END: the rebuild of the next register ends; its sums are those of its leaves (08 R164; DEDUCED, log 9). -/
def execMassRebuildEnd (core : Nat) (s : State) : Out :=
  match s.rebuilding core with
  | none => .next s
  | some (k, i) => .next (s.modWg k (fun g => g.setMass i { g.massReg i with rebuilding := false }))

end Sys2Proof.Machine
end

