-- ==== Sys2Proof/Machine/Schedule.lean ====
section
/-! DEFINITION. The steps of the schedulers and of swapping: selection, gaps and promotion (02 R35-R38), long-latency words
that complete (03 R58; 06 R117; 12 R245), contexts swapped out and in (06 R104-R107). A step whose condition does not hold
leaves the state. -/
namespace Sys2Proof.Machine

/-! ### Selection (02 R35-R37) -/

/-- WARP_SELECT: with no warp ISSUING, the earliest-admitted READY warp that is not blocked is selected; where one is promoted,
the earliest promoted is, for a turn of one word (02 R37). -/
def execWarpSelect (core sched : Nat) (s : State) : Out :=
  match ((s.core core).sched sched).issuing, s.nextSelected core sched with
  | none, some i => .next (s.select core i (s.warp core i).sched.promoted.isSome)
  | _, _ => .next s

/-- GAP_EXPIRY: the gap cycles of a warp's word have passed, and it may issue again. -/
def execGapExpiry (core slot : Nat) (s : State) : Out :=
  let w := s.warp core slot
  if w.sched.gapUntil ≠ 0 ∧ w.sched.gapUntil ≤ s.now then .next (s.setWarp core slot { w with sched := { w.sched with gapUntil := 0 } })
  else .next s

/-- PROMOTION: a warp READY and not blocked for 4,032 cycles is promoted. -/
def execPromotion (core slot : Nat) (s : State) : Out :=
  let w := s.warp core slot
  if w.state = .ready ∧ w.sched.waited ≥ 4032 ∧ w.sched.promoted.isNone then
    .next (s.setWarp core slot { w with sched := { w.sched with promoted := some s.now } })
  else .next s

/-! ### Completion of a word in flight -/

/-- The flight may complete: its own latency ends it, or the mass unit has started it (DESIGN CHOICE, log 88). -/
def Flight.ready (f : Flight) : Bool := f.kind == .timed || (f.kind == .mass && !f.holds)

/-- What a completing flight does beside its register writes. -/
def State.late (s : State) (core slot : Nat) (f : Flight) : State :=
  match f.late with
  | .none => s
  | .window x y => s.modWg (s.warp core slot).wg (fun g => { g with awbase := x, awlimit := y })
  | .trap cause lanes info =>
    let w := s.warp core slot
    takeTrap (s.ctxAt (.warp core slot) w (flightEntry w f) (hdrOf (decodeWord f.word))) s cause lanes info f.word

/-- LONG_LATENCY_WRITEBACK: word k of the warp's words in flight writes its registers. -/
def execLongLatencyWriteback (core slot k : Nat) (s : State) : Out :=
  let w := s.warp core slot
  match w.flights[k]? with
  | none => .next s
  | some f =>
    if f.ready then
      let s := s.setWarp core slot { (applyWrites w f.writes) with flights := w.flights.filter (fun x => x.id != f.id) }
      .next (s.late core slot f)
    else .next s

/-! ### Swapping (06 R104-R107) -/

/-- A move of a context of the workgroup is in progress (06 R106). -/
def State.moving (s : State) (core k : Nat) : Bool :=
  (s.wgSlots core k).any (fun i => match (s.warp core i).res with
    | .movingOut _ | .movingIn _ => true
    | _ => false)

/-- Bytes of the swap region in use. -/
def State.swapUsed (s : State) (core k : Nat) : Nat :=
  (s.wgSlots core k).foldl (fun n i => let w := s.warp core i
    match w.res with
    | .swapRegion | .movingOut true => n + footprint w.nregs
    | _ => n) 0
def State.swapRoom (s : State) (core k nregs : Nat) : Bool := decide (s.swapUsed core k + footprint nregs ≤ (s.wg k).part.swap * 32768)

/-- The least of a list by a measure, of several equal ones the first: the lowest slot (DESIGN CHOICE, log 113). -/
def leastBy (f : Nat → Nat) (l : List Nat) : Option Nat :=
  l.foldl (fun best i => match best with
    | none => some i
    | some j => if f i < f j then some i else some j) none

/-- The wakeable warp that comes first: in the order in which they became wakeable, then by warp number (06 R105); of handler warps
of one number the lowest slot (DESIGN CHOICE, log 113). -/
def State.firstWakeable (s : State) (core k : Nat) : Option Nat :=
  leastBy (fun i => (s.warp core i).sched.wakeableSince * 64 + (s.warp core i).num)
    ((s.wgSlots core k).filter (fun i => (s.warp core i).sched.wakeable))

/-- A resident warp that may be a victim at all: no pending register, no move of its own, at a word boundary (06 R105); one whose mass
word has arrived and not started is passed over (DESIGN CHOICE, log 126). -/
def State.mayLeave (s : State) (core i : Nat) : Bool :=
  let w := s.warp core i
  w.res == .resident && (w.flights.all (fun f => f.regs.isEmpty)) && !(w.flights.any Flight.holds)

/-- The victim for a wakeable warp (06 R105); of several that no rule tells apart the lowest slot (DESIGN CHOICE, log 113). -/
def State.victim (s : State) (core k i : Nat) : Option Nat :=
  let ws := (s.wgSlots core k).filter (fun j => s.mayLeave core j)
  match leastBy (fun j => (s.warp core j).sched.dormantSince) (ws.filter (fun j => (s.warp core j).state == .dormant)) with
  | some j => some j
  | none =>
    match leastBy (fun j => (s.warp core j).sched.parkedSince)
        (ws.filter (fun j => let w := s.warp core j; (match w.state with | .parked _ => true | _ => false) && w.sched.victim)) with
    | some j => some j
    | none =>
      if (s.warp core i).sched.wakeableSince + 8192 ≤ s.now then
        leastBy (fun j => (s.warp core j).sched.residentSince)
          (ws.filter (fun j => let st := (s.warp core j).state; st == .ready || st == .issuing))
      else none

/-- What a warp otherwise is when it is swapped out (02 R24). -/
def Warp.base (w : Warp) : Base :=
  match w.state with
  | .parked p => .parked p
  | .dormant => .dormant
  | .swapped b => b
  | .frozen b => b
  | _ => .ready

/-- The warp leaves the register region, for the swap region where there is room, else for the save area (06 R106). -/
def State.swapOut (s : State) (core slot : Nat) : State :=
  let w := s.warp core slot
  let room := s.swapRoom core w.wg w.nregs
  let b := w.base
  let s := s.leaveIssue core slot (.swapped b)
  s.modWarp core slot (fun w => { w with res := .movingOut room, sched := { w.sched with wakeable := false, victim := false } })

/-- A wakeable warp's way in begins where the region has a place and no move is in progress (06 R105, R106). -/
def State.swapIn (s : State) (core slot : Nat) : State :=
  let w := s.warp core slot
  if s.regRoom core w.wg w.nregs ∧ !s.moving core w.wg then
    s.setWarp core slot { w with res := .movingIn (w.res == .swapRegion), sched := { w.sched with wakeable := false } }
  else s

/-- SWAP_OUT: the first wakeable warp of the workgroup of this warp takes a free place, or the first victim is swapped out
for it; this warp is the victim. -/
def execSwapOut (core slot : Nat) (s : State) : Out :=
  let k := (s.warp core slot).wg
  match s.firstWakeable core k with
  | none => .next s
  | some i =>
    if s.moving core k then .next s
    else if s.regRoom core k (s.warp core i).nregs then .next (s.swapIn core i)
    else if s.victim core k i = some slot then .next (s.swapOut core slot)
    else .next s

/-- SWAP_OUT_END: the move ends; a warp whose condition was met meanwhile, and one that was READY, is wakeable from now on (DESIGN
CHOICE, log 126), and the place is given (06 R106). -/
def execSwapOutEnd (core slot : Nat) (s : State) : Out :=
  let w := s.warp core slot
  match w.res with
  | .movingOut toSwap =>
    let s := s.setWarp core slot { w with res := if toSwap then .swapRegion else .saveArea }
    let s := if w.state = .swapped .ready then s.markWakeable core slot else s
    match s.firstWakeable core w.wg with
    | some i => .next (s.swapIn core i)
    | none => .next s
  | _ => .next s

/-- A storage error of the swap region stops the launch (09 R185); any swap-in from the region meets it (DESIGN CHOICE, log 127). -/
def State.swapError (s : State) (core : Nat) (w : Warp) (at_ : Nat) : State :=
  let g := s.wg w.wg
  let s := s.modWg w.wg (fun g => { g with err := g.err.add 1 at_, badSwap := none, uncorr := g.uncorr + 1 })
  s.stopLaunch g.lid 0x14 none
    { cause := 0x14, agent := 0, part := s.wgPart g, func := s.wgFunc g, core := core,
      launch := g.lid % 2 ^ 32, wgx := g.x, wgy := g.y, wgz := g.z, warp := w.num }

/-- What a SWAPPED warp is once its context is in (02 R24). -/
def Base.state : Base → WState
  | .ready => .ready
  | .parked p => .parked p
  | .dormant => .dormant

/-- SWAP_IN_END: the warp is what it otherwise was, its condition looked at; a context that comes from the swap region meets its
errors (02 R24; 09 R184, R185). -/
def execSwapInEnd (core slot : Nat) (s : State) : Out :=
  let w := s.warp core slot
  match w.res with
  | .movingIn fromSwap =>
    let g := s.wg w.wg
    (match (if fromSwap then g.badSwap else none), w.state with
    | some at_, _ => .next (s.swapError core w at_)
    | none, st =>
      let s := if fromSwap && g.softSwap then s.modWg w.wg (fun g => { g with softSwap := false, corr := g.corr + 1 }) else s
      (match st with
      | .swapped b => .next (s.setWarp core slot { w with
          state := b.state, res := .resident
          sched := { (w.sched.reset s.now) with residentSince := s.now, wakeable := false } })
      | _ => .next (s.setWarp core slot { w with res := .resident })))
  | _ => .next s

/-- PARKED_VICTIM_TIMEOUT: a warp parked for 256 cycles may be a victim. -/
def execParkedVictimTimeout (core slot : Nat) (s : State) : Out :=
  let w := s.warp core slot
  match w.state with
  | .parked _ =>
    if w.sched.parkedSince + 256 ≤ s.now then .next (s.setWarp core slot { w with sched := { w.sched with victim := true } }) else .next s
  | _ => .next s

/-- WAKEABLE_WAIT_TIMEOUT: this warp has been wakeable for 8,192 cycles without a place, and the READY or ISSUING warp that
has been resident longest is swapped out for it. -/
def execWakeableWaitTimeout (core slot : Nat) (s : State) : Out :=
  let w := s.warp core slot
  if s.firstWakeable core w.wg = some slot ∧ w.sched.wakeableSince + 8192 ≤ s.now ∧ !s.moving core w.wg ∧
      !s.regRoom core w.wg w.nregs then
    match s.victim core w.wg slot with
    | some j => .next (s.swapOut core j)
    | none => .next s
  else .next s

/-- LONG_PARK_SWAP: a warp parked for 65,536 cycles is swapped out when the swap region has room. -/
def execLongParkSwap (core slot : Nat) (s : State) : Out :=
  let w := s.warp core slot
  match w.state with
  | .parked _ =>
    if w.sched.parkedSince + 65536 ≤ s.now ∧ s.mayLeave core slot ∧ !s.moving core w.wg ∧ s.swapRoom core w.wg w.nregs then
      .next (s.swapOut core slot)
    else .next s
  | _ => .next s

end Sys2Proof.Machine
end

