-- ==== Sys2Proof/Machine/WalkEngine.lean ====
section
/-! DEFINITION. The steps of the walk engine (12 R227-R246; 19 R341-R343): a walk starts, upcalls are raised and delivered,
K-steps begin and end, drains are accepted, a walk reaches DONE. A step whose condition does not hold leaves the state. -/
namespace Sys2Proof.Machine

/-! ### Starting (12 R231, R238) -/

/-- Steps of ring A and ring B in all. -/
def Walk.stepsA (w : Walk) : Nat := if w.attn then w.tiles else w.totalSteps
def Walk.stepsBAll (w : Walk) : Nat := if w.attn then 2 * w.totalSteps else w.totalSteps
def Walk.allRaised (w : Walk) : Bool := decide (w.raisedA ≥ w.stepsA) && decide (w.raisedB ≥ w.stepsBAll)

/-- A walk that another is suspended for (12 R238). -/
def Core.promotedWalk (k : Core) (w : Walk) : Bool := k.walks.any (fun x => x.state == .suspended && x.promoted.contains w.wid)

/-- The walks accepted before a walk. -/
def Core.before (k : Core) (w : Walk) : List Walk := k.walks.takeWhile (fun x => x.wid != w.wid)

/-- A workgroup is being halted or saved (14 R264, R265). -/
def Workgroup.halting (g : Workgroup) : Bool := g.saving || g.forced || g.request.isSome

/-- WALK_START: the walks before it have raised all their produce upcalls, or it is promoted. -/
def execWalkStart (core wid : Nat) (s : State) : Out :=
  let k := s.core core
  match k.walk wid with
  | none => .next s
  | some w =>
    if w.state = .queued ∧ !(s.wg w.wg).halting ∧
        (k.promotedWalk w || (k.before w).all (fun x => x.over || (x.state != .queued && x.allRaised))) then
      .next (s.modWalk core wid (fun w => { w with state := .running }))
    else .next s

/-! ### Upcalls (12 R229, R234) -/

/-- The lowest free place of the upcall queue. -/
def Core.freePlace (k : Core) : Option Nat := (List.range 64).find? (fun p => !(k.upcalls.any (fun u => u.place == p)))
def Core.roomFor (k : Core) (n : Nat) : Bool := decide (k.upcalls.length + n ≤ 64)

/-- An upcall raised with the next SEQ. -/
def State.raise (s : State) (core : Nat) (w : Walk) (u : Upcall) : State :=
  match (s.core core).freePlace with
  | none => s
  | some p =>
    let seq := (((s.core core).walk w.wid).map Walk.seq).getD 0
    let s := s.modCore core (fun k => { k with upcalls := k.upcalls ++ [{ u with place := p, seq := seq % 2 ^ 32 }] })
    s.modWalk core w.wid (fun w => { w with seq := w.seq + 1 })

/-- What every upcall of a walk for a tile has in common. -/
def Walk.upcall (w : Walk) (t : Nat) (kind : UKind) (h : Nat) : Upcall :=
  let (tm, tn) := w.tileAt t
  { place := 0, wid := w.wid, wg := w.wg, h := h, kind := kind, accw := 0, tilem := tm * w.tm
    tilen := if w.attn then 0 else tn * w.tn, tilek := 0, slot := 0, seq := 0, vm := w.validM t, vn := w.validN t, vk := 0
    idx := 0, team := none }

/-- The consume upcall of a tile. -/
def Walk.consumeUpcall (w : Walk) (t : Nat) : Upcall :=
  { w.upcall t .consume w.hc with
    accw := w.rowOf t 0, idx := t % 2, vk := if w.stepsPerTile = 0 then 0 else w.validK ((t + 1) * w.stepsPerTile - 1) }

/-- The produce upcall of a ring A step, and of a ring B step. -/
def Walk.upcallA (w : Walk) (h : Nat) : Upcall :=
  let u := w.upcall (if w.attn then h else w.tileOf h) (if w.attn then .prodq else .proda) (if w.attn then w.hq else w.ha)
  { u with tilek := if w.attn then 0 else w.firstK h, slot := (w.placeA h).1, vk := if w.attn then w.k else w.validK h
           idx := h % max 1 w.nslotsA }
def Walk.upcallB (w : Walk) (h : Nat) : Upcall :=
  let g := if w.attn then h / 2 else h
  let kind : UKind := if w.attn then (if h % 2 = 0 then .prodk else .prodv) else .prodb
  let u := w.upcall (w.tileOf g) kind (if w.attn then (if h % 2 = 0 then w.hk else w.hv) else w.hb)
  { u with tilek := w.firstK g, slot := (w.placeB h).1, vk := w.validK g, idx := h % max 1 w.nslotsB }

/-- A produce upcall raised: its slot is RAISED, and the granules' full-empty bits are cleared (12 R227). -/
def State.raiseSlot (s : State) (core : Nat) (w : Walk) (ringA : Bool) (h : Nat) : State :=
  let u := if ringA then w.upcallA h else w.upcallB h
  let place := if ringA then w.placeA h else w.placeB h
  let s := s.raise core w u
  let s := s.modWalk core w.wid (fun w =>
    if ringA then { w with raisedA := h + 1, slotsA := w.slotsA.set u.idx .raised, raisedAt := some s.now }
    else { w with raisedB := h + 1, slotsB := w.slotsB.set u.idx .raised, raisedAt := some s.now })
  s.modWg w.wg (fun g => g.setFe (granules place.1 place.2) false)

/-- The produce upcalls of the next ring B step h are due: h is within AHEAD of the first step that has not finished, its
slots are FREE, and the queue has room; a query goes with the first key of its tile, alone where there is no key (12 R229, R239). -/
def Walk.nextRaise (w : Walk) (k : Core) : Option (Bool × Option Nat) :=
  let h := w.raisedB
  let g := if w.attn then 2 * w.finished else w.finished
  let withA := if w.attn then decide (h % max 1 (2 * w.stepsPerTile) = 0) else true
  if w.attn && w.stepsPerTile == 0 then
    (if w.active && decide (w.raisedA < w.tiles) && decide (w.raisedA ≤ w.tilesDone + w.ahead) && w.slotAAt w.raisedA == .free && k.roomFor 1
     then some (true, none) else none)
  else if w.active && decide (h < w.stepsBAll) && decide (h ≤ g + w.ahead) && w.slotBAt h == .free &&
      (!withA || w.slotAAt w.raisedA == .free) && k.roomFor (if withA then 2 else 1) then some (withA, some h)
  else none

/-- A waiting consume upcall raised. -/
def State.raiseConsume (s : State) (core : Nat) (w : Walk) (t : Nat) : State := s.raise core w (w.consumeUpcall t)

/-- The multiplication under way is over in this cycle: a tile may be COMPLETE in it, whose consume upcall comes first (19 R342). -/
def Walk.stepOver (w : Walk) (now : Nat) : Bool := w.multiplying && decide (w.endsAt ≤ now)

/-- No other walk of the core multiplies, and the walks before it have begun their last step, or it is promoted. -/
def Core.engineFree (k : Core) (w : Walk) : Bool :=
  !(k.walks.any Walk.multiplying) &&
    (w.begun != 0 || k.promotedWalk w || (k.before w).all (fun x => x.over || (x.state != .queued && decide (x.begun ≥ x.totalSteps))))

/-- The engine takes up a walk's next step: no halt and no promotion keeps it. -/
def Walk.mayBegin (w : Walk) (k : Core) : Bool := w.active && !w.haltPending && (w.promoted == [] || w.inBlock) && k.engineFree w

/-- The next tile of a walk with no K-step can be COMPLETE: its buffer is IDLE, and a query tile's upcall has been complete before. -/
def State.emptyReady (s : State) (core : Nat) (w : Walk) : Bool :=
  let t := w.tilesDone
  (!w.attn || (decide (w.raisedA > t) && w.slotAAt t == .ready)) && decide (t < w.tiles) && (w.buf t).state == .idle &&
    get 0 w.drainsAdded t == 0 && s.bufferFree core w (t % 2)

/-- A tile of some walk of the engine can be COMPLETE in this cycle: a multiplication is over, or a tile has no K-step. Its consume upcall
comes before the produce upcalls of the cycle (19 R342). -/
def State.tileDue (s : State) (core : Nat) : Bool :=
  let k := s.core core
  k.walks.any (fun w => w.stepOver s.now || (w.stepsPerTile == 0 && w.mayBegin k && s.emptyReady core w))

/-- The engine has raised produce upcalls in this cycle: a tile is COMPLETE in a later one (19 R342). -/
def Core.raisedNow (k : Core) (now : Nat) : Bool := k.walks.any (fun w => w.raisedAt == some now)

/-- UPCALL_RAISE: a waiting consume upcall first, else the produce upcalls of the walk's next step, A before B. -/
def execUpcallRaise (core wid : Nat) (s : State) : Out :=
  let k := s.core core
  match k.walk wid with
  | none => .next s
  | some w =>
    match k.consumeDue with
    | (j, t) :: r =>
      if j = wid ∧ k.roomFor 1 then .next ((s.modCore core (fun k => { k with consumeDue := r })).raiseConsume core w t) else .next s
    | [] =>
      if (s.wg w.wg).halting ∨ s.tileDue core then .next s
      else
        match w.nextRaise k with
        | none => .next s
        | some (withA, b) =>
          let s := if withA then s.raiseSlot core w true w.raisedA else s
          .next (match b with
            | some h => s.raiseSlot core w false h
            | none => s)

/-- The team of an upcall's handler that takes it: dormant longest, then the lowest number (02 R31). -/
def State.teamFor (s : State) (core : Nat) (u : Upcall) : Option Team :=
  ((s.wg u.wg).teams.filter (fun t => t.h == u.h && t.upcall.isNone && s.teamDormant core t)).foldl (fun best t =>
    match best with
    | none => some t
    | some b =>
      if t.dormantSince < b.dormantSince ∨ (t.dormantSince = b.dormantSince ∧ t.team < b.team) then some t else some b) none

/-- The first upcall in raise order that a team is free for. -/
def State.nextUpcall (s : State) (core : Nat) : Option (Upcall × Team) :=
  (s.core core).upcalls.findSome? (fun u =>
    if u.team.isSome ∨ (s.wg u.wg).halting then none else (s.teamFor core u).map (fun t => (u, t)))

/-- A handler warp starts an upcall: a fresh frontier at the entry; READY, or wakeable while SWAPPED (02 R24, R31). -/
def State.startHandler (s : State) (core slot place : Nat) (pc : Word) : State :=
  let s := s.modWarp core slot (fun w => { w with
    frontier := [{ prio := 0, pc := pc, lanes := BitVec.allOnes 64 }], spilled := [], uparg := some place })
  let w := s.warp core slot
  match w.state with
  | .dormant => s.setWarp core slot { w with state := .ready, sched := w.sched.reset s.now }
  | .swapped .dormant =>
    let s := s.setWarp core slot { w with state := .swapped .ready }
    (match w.res with
      | .movingOut _ => s
      | _ => s.markWakeable core slot)
  | _ => s

/-- An upcall is given to a team, whose warps start at the handler's entry (02 R31; 12 R235). -/
def State.deliver (s : State) (core : Nat) (u : Upcall) (t : Team) : State :=
  let pc := (get {} (s.launch (s.wg u.wg).lid).handlers u.h).pc
  let s := s.modCore core (fun k => { k with upcalls := k.upcalls.map (fun x => if x.place = u.place then { x with team := some t.team } else x) })
  let s := s.modWg u.wg (fun g => { g with teams := g.teams.map (fun x =>
    if x.h = t.h ∧ x.team = t.team then { x with upcall := some u.place } else x) })
  let s := s.modWalk core u.wid (fun w => match u.kind with
    | .consume => w
    | .proda | .prodq => { w with slotsA := w.slotsA.set u.idx .filling }
    | _ => { w with slotsB := w.slotsB.set u.idx .filling })
  t.slots.foldl (fun s i => s.startHandler core i u.place pc) s

/-- UPCALL_DELIVERY: the first upcall that a team is free for. -/
def execUpcallDelivery (core : Nat) (s : State) : Out :=
  match s.nextUpcall core with
  | none => .next s
  | some (u, t) => .next (s.deliver core u t)

/-! ### Tiles (12 R232, R233) -/

/-- A tile is COMPLETE: its consume upcall is raised, or waits for room; a sender's drain is sent. -/
def State.tileComplete (s : State) (core : Nat) (w : Walk) (t : Nat) : State :=
  let s := s.modWalk core w.wid (fun w =>
    { (w.setBuf t { state := .complete, tile := t }) with
      tilesDone := w.tilesDone + 1, drainSince := if w.drain = 1 then some (w.drainSince.getD s.now) else w.drainSince })
  if w.drain = 1 then s
  else if (s.core core).consumeDue = [] ∧ (s.core core).roomFor 1 then s.raiseConsume core w t
  else s.modCore core (fun k => { k with consumeDue := k.consumeDue ++ [(w.wid, t)] })

/-- Drains that a tile of a split owner waits for. -/
def Walk.drainsNeeded (w : Walk) : Nat := if w.order = 4 ∧ w.split = 0 then w.nsplit - 1 else 0

/-- A tile's own steps have ended. -/
def State.tileEnds (s : State) (core : Nat) (w : Walk) (t : Nat) : State :=
  let s := if w.attn then s.modWg w.wg (attnFinish w t) else s
  if w.drainsNeeded = 0 then s.tileComplete core w t else s

/-- At a boundary of K-steps: a walk with a halt or a promotion pending is suspended; with every step finished it is
FINISHING; else it runs, or is STALLED (12 R231, R238). -/
def State.boundary (s : State) (core wid : Nat) : State :=
  s.modWalk core wid (fun w =>
    if !w.active then w
    else if w.finished ≥ w.totalSteps && decide (w.stepsPerTile ≠ 0) then { w with state := .finishing }
    else if w.haltPending || (w.promoted != [] && !w.inBlock) then { w with state := .suspended }
    else { w with state := if w.canBegin then .running else .stalled })

/-! ### K-steps (12 R230, R231) -/

/-- The next tile of a walk with no K-step: its buffer is cleared and is COMPLETE at once; a query tile's upcall has been
complete before (DEDUCED, log 22). -/
def State.emptyTile (s : State) (core : Nat) (w : Walk) : State :=
  let t := w.tilesDone
  if s.emptyReady core w && !(s.core core).raisedNow s.now then
    let s := if w.accum then s else s.modWg w.wg (fun g => clearBuffer g w (t % 2))
    let s := s.modWalk core w.wid (fun w => { (w.setBuf t { state := .accumulating, tile := t }) with
      mrow := [], lrow := [], slotsA := if w.attn then w.slotsA.set (t % max 1 w.nslotsA) .free else w.slotsA })
    match (s.core core).walk w.wid with
    | none => s
    | some w =>
      let s := s.tileEnds core w t
      if t + 1 ≥ w.tiles then s.modWalk core w.wid (fun w => { w with state := .finishing }) else s
  else s

/-- The slots of a beginning step are IN USE. -/
def Walk.useSlots (w : Walk) (g : Nat) : Walk :=
  { w with slotsA := w.slotsA.set (w.stepA g % max 1 w.nslotsA) .inUse
           slotsB := (w.stepsB g).foldl (fun l h => l.set (h % max 1 w.nslotsB) .inUse) w.slotsB }
/-- The slots of a finished step are FREE; a query's slot only after its tile's last block. -/
def Walk.freeSlots (w : Walk) (g : Nat) : Walk :=
  { w with slotsA := if w.attn ∧ (g + 1) % max 1 w.stepsPerTile ≠ 0 then w.slotsA else w.slotsA.set (w.stepA g % max 1 w.nslotsA) .free
           slotsB := (w.stepsB g).foldl (fun l h => l.set (h % max 1 w.nslotsB) .free) w.slotsB }

/-- The workgroup once the engine has read a step's slots: single errors corrected, others found (09 R184). -/
def Workgroup.slotsRead (g : Workgroup) (w : Walk) (step : Nat) : Workgroup :=
  (stepRanges w step).foldl (fun (g : Workgroup) (a, n) => g.spFind a n) g

/-- A step, or the next substep of a block, begins: a storage error of a slot ends the walk with STORAGE, a bad narrow row
with FORMAT; else the products are added to the buffer (05 R93; 09 R184, R185; 12 R230, R236, R241) (DEDUCED, log 70). -/
def State.beginStep (s : State) (core : Nat) (w : Walk) : State :=
  let step := w.finished
  let bad := (stepRanges w step).any (fun (a, n) => (spLines a n).any (fun l => get false (s.wg w.wg).badLines l))
  let g := (s.wg w.wg).slotsRead w step
  let s := s.setWg w.wg g
  if bad then s.abortWalk core w.wid 0x14
  else
    match stepRows w step g with
    | none => s.abortWalk core w.wid 0x11
    | some rows =>
      let (w2, g2) := multiply w step rows g
      (s.setWg w.wg g2).modWalk core w.wid (fun x =>
        { (x.useSlots step) with mrow := w2.mrow, lrow := w2.lrow, scores := w2.scores, begun := step + 1, multiplying := true
                                 endsAt := s.now + w.cycles step g, state := .running })

/-- K_STEP_BEGIN. -/
def execKStepBegin (core wid : Nat) (s : State) : Out :=
  let s := s.armBuffer core wid
  match (s.core core).walk wid with
  | none => .next s
  | some w =>
    if w.mayBegin (s.core core) then
      if w.stepsPerTile = 0 then .next (s.emptyTile core w)
      else if w.canBegin then .next (s.beginStep core w)
      else .next s
    else .next s

/-- A substep ends: the last one of a step frees its slots, and the last step of a tile ends that. -/
def State.endStep (s : State) (core : Nat) (w : Walk) : State :=
  if w.substep + 1 < w.substeps then s.modWalk core w.wid (fun w => { w with multiplying := false, substep := w.substep + 1 })
  else
    let step := w.finished
    let done (w : Walk) : Walk := { (w.freeSlots step) with multiplying := false, substep := 0, finished := step + 1 }
    let s := s.modWalk core w.wid done
    if (step + 1) % max 1 w.stepsPerTile = 0 then s.tileEnds core (done w) (w.tileOf step) else s

/-- K_STEP_END: the cycles of the step, or of its substep, have passed; the next one may be due (12 R230, R231). -/
def execKStepEnd (core wid : Nat) (s : State) : Out :=
  match (s.core core).walk wid with
  | none => .next s
  | some w =>
    if w.multiplying ∧ w.endsAt ≤ s.now then .next (((s.endStep core w).boundary core wid).armBuffers core) else .next s

/-! ### Drains (12 R233; 05 R94) -/

/-- The tile of a split owner that accepts drains now, and the split it waits for. -/
def Walk.awaits (w : Walk) : Option (Nat × Nat) :=
  let t := w.tilesDone
  if w.drainsNeeded ≠ 0 ∧ t < w.tiles ∧ !w.over ∧ w.state ≠ .queued ∧ (w.buf t).state = .accumulating ∧ (w.buf t).tile = t ∧
      w.finished ≥ (t + 1) * w.stepsPerTile then some (t, get 0 w.drainsAdded t + 1)
  else none

/-- Sender and owner agree in the dimensions that they share (DEDUCED, log 67). -/
def Walk.agrees (x w : Walk) : Bool :=
  x.m == w.m && x.n == w.n && x.tm == w.tm && x.tn == w.tn && x.tk == w.tk && x.nsplit == w.nsplit

/-- A sender's drain reads its buffer: bad rows are found (09 R185). -/
def State.readTile (s : State) (x : Walk) (t : Nat) : State :=
  s.modWg x.wg (fun g => (List.range x.tm).foldl (fun (g : Workgroup) i => g.accFind (x.rowOf t i)) g)

/-- A drain added to the owner's tile; the last one completes it. -/
def State.drainAdded (s : State) (core : Nat) (w : Walk) (t : Nat) (data : List (BitVec 32)) : State :=
  let s := s.modWg w.wg (addDrain w t data)
  let n := get 0 w.drainsAdded t + 1
  let s := s.modWalk core w.wid (fun w => { w with drainsAdded := put 0 w.drainsAdded t n })
  if n = w.drainsNeeded then s.tileComplete core { w with drainsAdded := put 0 w.drainsAdded t n } t else s

/-- A sender's drain has been accepted: its buffer is IDLE (12 R232). -/
def State.drainTaken (s : State) (core : Nat) (x : Walk) : State :=
  let t := x.drainsAccepted
  let s := s.modWalk core x.wid (fun x =>
    { (x.setBuf t { state := .idle, tile := t }) with
      drainsAccepted := t + 1, drainSince := if x.tilesDone > t + 1 then some s.now else none })
  s.armBuffers core

/-- The launch's partition fabric holds another device; input (12 R233). -/
def State.inFabric (s : State) (p dev : Nat) : Bool := s.fabric.contains (p, dev)

/-- The drain would complete the tile in a cycle in which the engine has raised produce upcalls: it is accepted in a later one, so that
the consume upcall of a tile comes before the produce upcalls of its cycle (19 R342). -/
def Core.drainLater (k : Core) (w : Walk) (t now : Nat) : Bool := get 0 w.drainsAdded t + 1 == w.drainsNeeded && k.raisedNow now

/-- The walks that a sender's drains go to and that are not DONE: of the partition's cores, and of its saved workgroups. -/
def State.owners (s : State) (x : Walk) : List Walk :=
  let p := s.wgPart (s.wg x.wg)
  (s.cores.flatMap (fun (c, k) => if (s.part p).owns c then k.walks else []) ++
    s.funcs.flatMap (fun (_, y) => if y.part = p then y.ctx.saved.flatMap SavedWg.walks else [])).filter (fun w => x.sendsTo w && w.state != .done)

/-- The owner of a walk's pending drain differs from it in a dimension that they share, whether its tile waits for the drain or not. -/
def State.mismatched (s : State) (x : Walk) : Bool := x.drainDue && s.owners x != [] && (s.owners x).all (fun w => !x.agrees w)

/-- DRAIN_ACCEPT of an owner takes the drain of the split that its tile waits for, from a walk of this device or, as the
link brings it, from another; of a sender to another device it hands the drain to the link, or aborts it outside the fabric; a sender
whose owner on this device does not agree with it aborts. -/
def execDrainAccept (core wid : Nat) (remote : Option (List (BitVec 32))) (s : State) : Out :=
  match (s.core core).walk wid with
  | none => .next s
  | some w =>
    if w.drainDue ∧ w.peerdev ≠ 0xFFFF then
      if !s.inFabric (s.wgPart (s.wg w.wg)) w.peerdev then .next ((s.abortWalk core wid 0x41).settleDrain w.wg)
      else
      let s := s.readTile w w.drainsAccepted
      let data := tileValues w w.drainsAccepted (s.wg w.wg)
      .next (State.drainTaken { s with out := s.out ++ [.drain w.peerdev w.peercore w.tag w.drainsAccepted data] } core w)
    else if s.mismatched w then .next ((s.abortWalk core wid 0x41).settleDrain w.wg)
    else
      match w.awaits with
      | none => .next s
      | some (t, split) =>
        if (s.core core).drainLater w t s.now then .next s
        else
        match remote with
        | some data => .next (s.drainAdded core w t data)
        | none =>
          match (s.senders (s.wgPart (s.wg w.wg)) w).find? (fun (_, x) => x.split == split && x.drainDue) with
          | none => .next s
          | some (c, x) =>
            if x.agrees w then
              let s := s.readTile x x.drainsAccepted
              .next ((s.drainAdded core w t (tileValues x x.drainsAccepted (s.wg x.wg))).drainTaken c x)
            else .next ((s.abortWalk c x.wid 0x41).settleDrain x.wg)

/-- DRAIN_TIMEOUT: no owner was accepted in 16,777,216 cycles (12 R233; DEDUCED, log 23). -/
def execDrainTimeout (core wid : Nat) (s : State) : Out :=
  match (s.core core).walk wid with
  | none => .next s
  | some x =>
    match x.drainSince with
    | none => .next s
    | some t =>
      if x.drainDue ∧ t + 16777216 ≤ s.now ∧ s.owners x = [] then .next ((s.abortWalk core wid 0x41).settleDrain x.wg) else .next s

/-! ### The end of a walk (12 R231, R236; 02 R32) -/

/-- Every upcall complete, every tile consumed or drained; or aborting with no started upcall left. -/
def Core.walkOver (k : Core) (w : Walk) : Bool :=
  !(k.upcalls.any (fun u => u.wid == w.wid)) &&
    (w.state == .aborting ||
      (w.state == .finishing && decide (w.tilesDone ≥ w.tiles) && !(k.consumeDue.any (fun (j, _) => j == w.wid)) &&
        (w.drain != 1 || decide (w.drainsAccepted ≥ w.tiles))))

/-- WALK_DONE: the walk is DONE; senders to it abort with PEER, waiting walks may go on, and a draining workgroup whose last
walk it was releases its allocation. -/
def execWalkDone (core wid : Nat) (s : State) : Out :=
  match (s.core core).walk wid with
  | none => .next s
  | some w =>
    if (s.core core).walkOver w then .next (((s.endWalk core wid w.status).armBuffers core).settleDrain w.wg)
    else if w.state = .done ∧ (s.wg w.wg).flushWait = none then .next (s.settleDrain w.wg)
    else .next s

end Sys2Proof.Machine
end

