-- ==== Sys2Proof/Machine/Tasks.lean ====
section
/-! DEFINITION. Tasks and launches (13 R247-R257; 02 R19-R22; 17 R304-R307): the task instructions, decrements made for
completions, prologues, and the start and the end of launches and tasks. An event whose condition does not hold leaves the
state. -/
namespace Sys2Proof.Machine

/-! ### Decrements (17 R304-R307) -/

/-- The counter word after a decrement by n that its COUNT covers: ERR and STATUS are sticky (R305). -/
def decWord (w n status : Nat) : Nat :=
  if status = 0 then w - n
  else w % 2 ^ 24 - n + (if w / 2 ^ 24 % 128 = 0 then status else w / 2 ^ 24 % 128) * 2 ^ 24 + 2 ^ 31

/-- A counter's value as its readers receive it. -/
def State.counterWord (s : State) (p : Nat) (ps : List (Page × Nat)) : Nat := numLE (ps.map (fun (pg, off) => s.readByte p pg off))

/-- The byte writes of a counter word. -/
def counterWrites (ps : List (Page × Nat)) (x : Nat) : List ByteWrite := (ps.zip (bytesLE 4 x)).map (fun ((pg, off), b) => ByteWrite.mk pg off b)

/-- The record of a decrement's originator (DEDUCED, log 78). -/
def Dec.record (d : Dec) (cause : Nat) : FaultRec :=
  { cause := cause, agent := d.agent, part := d.part, func := d.func, core := if d.agent = 8 ∨ d.agent = 4 then 0xFFFF else d.core
    va := d.va.toNat, launch := d.lid % 2 ^ 32, wgx := d.xyz.1, wgy := d.xyz.2.1, wgz := d.xyz.2.2 }

/-- The command that waits for a decrement leaves its core's queues. -/
def Core.closeCmd (k : Core) (n : Nat) : Core :=
  { k with
    copies := k.copies.filter (fun c => c.state != .closing n)
    kvs := k.kvs.filter (fun c => c.state != .closing n)
    scheds := k.scheds.map (fun ((i, x) : Nat × Scheduler) => (i, { x with sweeps := x.sweeps.filter (fun c => c.state != .closing n) })) }
def SavedWg.closeCmd (v : SavedWg) (n : Nat) : SavedWg :=
  { v with copies := v.copies.filter (fun c => c.state != .closing n), sweeps := v.sweeps.filter (fun (_, c) => c.state != .closing n) }

/-- The command or collective that a decrement was made for is complete: it leaves its queue, where its workgroup is saved too. -/
def State.closeCmd (s : State) (d : Dec) (n : Nat) : State :=
  let s := s.coreNums.foldl (fun s c => s.modCore c (fun k => k.closeCmd n)) s
  let s := s.modPart d.part (fun x => { x with colls := x.colls.filter (fun c => c.state != .closing n) })
  s.modFunc d.func (fun x => { x with ctx := { x.ctx with saved := x.ctx.saved.map (fun v => v.closeCmd n) } })

/-- Decrement k is over: what was not complete until then is (R305). -/
def State.dropDec (s : State) (k : Nat) (d : Dec) : State :=
  let s := { s with decs := s.decs.eraseIdx k }
  match d.origin with
  | .walk g _ => s.settleDrain g
  | .launch => s.removeLaunch d.lid
  | .cmd n => s.closeCmd d n
  | _ => s
/-- Decrement k waits for a REPLAY of its page. -/
def State.pauseDec (s : State) (k : Nat) (d : Dec) (cause flags page : Nat) : State :=
  { (s.reportPage { d.record cause with va := page, flags := flags }) with decs := s.decs.set k { d with page := some page } }

/-- DEPENDENCE_DECREMENT: the memory-side unit performs decrement k (R305, R307). -/
def execDependenceDecrement (k : Nat) (s : State) : Out :=
  match s.decs[k]? with
  | none => .next s
  | some d =>
    if d.page.isSome then .next s
    else
      match s.counterPlace d.part d.func (counterVa d.va) { write := true } with
      | .fault cause fl at_ =>
        if cause = 9 then .next ((s.reportProtect { d.record 9 with flags := fl, info := BitVec.ofNat 64 d.status }).dropDec k d)
        else .next (s.pauseDec k d cause fl at_)
      | .ok ps =>
        let s1 := s.findErrors d.part none (d.record 0x14) (placeLines ps)
        let w := s1.counterWord d.part ps
        if w % 2 ^ 24 = 0 then
          .next (((s1.heatLines d.part d.core (placeLines ps)).report { d.record 0x13 with info := BitVec.ofNat 64 d.status }).dropDec k d)
        else
          match s1.tryWrites d.part none (d.record 0x14) d.core (counterWrites ps (decWord w 1 d.status)) with
          | .ok s2 => .next (s2.dropDec k d)
          | .error at_ => .next (s1.pauseDec k d 0x12 1 at_)

/-- TDEC: a decrement by a warp, which faults as its access; more than COUNT stops the launch (R250, R307). -/
def tdecBody (i : Instr) (a b : Operand) (c : Ctx) (s : State) : Res :=
  let va := (src64 c a 0).toNat
  let n := bits (src64 c b 0) 0 32
  if c.act = 0 then .done s []
  else if va % 4 ≠ 0 then .trap s 7 c.act (BitVec.ofNat 64 va)
  else
    match s.counterPlace c.part c.func va { write := true } with
    | .fault cause fl at_ => memFault c s (encode i) cause fl at_
    | .ok ps =>
      let s1 := s.findErrors c.part c.owner { (recordFor c 0x14 0) with pc := 0 } (placeLines ps)
      let w := s1.counterWord c.part ps
      if n = 0 then .done (s1.heatLines c.part c.core (placeLines ps)) []
      else if n > w % 2 ^ 24 then .over (stopAt c (s1.heatLines c.part c.core (placeLines ps)) 0x13 (encode i) 0 va)
      else
        match s1.tryWrites c.part c.owner { (recordFor c 0x14 0) with pc := 0 } c.core (counterWrites ps (decWord w n 0)) with
        | .ok s2 => .done s2 []
        | .error v => memFault c s (encode i) 0x12 1 v

def execTdec (h : Hdr) (host : Bool) (a b : Operand) (s : State) : Out :=
  issueWord (.tdec h host a b) (tdecBody (.tdec h host a b) a b) s

/-! ### TSPAWN (13 R247, R249) -/

/-- The record is one that TSPAWN refuses. -/
def taskBad (r : List Byte) : Bool :=
  field r 36 1 != 3 || decide (field r 39 1 < 1) || decide (field r 39 1 > 8) || decide (field r 37 1 ≥ 8) || field r 38 1 != 0 ||
    (r.drop 41).any (fun b => b != 0) || decide (field r 0 8 % 8 ≠ 0)

/-- The task is stored in its workgroup, ready at once or waiting on a place. -/
def State.storeTask (s : State) (k : Nat) (r : List Byte) (key : Option Nat) : State :=
  let g := s.wg k
  let id := g.nextTask
  let s := s.modWg k (fun g => { g with tasks := g.tasks ++ [{ id := id, record := r }], nextTask := id + 1 })
  match key with
  | none => s.pushReady g.core (.spawned k id) (field r 37 1)
  | some key =>
    s.modPart (s.wgPart g) (fun p => { p with waitingTasks := p.waitingTasks ++ [{ wg := k, id := id, key := key, prio := field r 37 1, va := counterVa (fieldW r 16 8) }] })

/-- TSPAWN's record is taken: its counter is read as the warp's access (DEDUCED, log 29). A fault leaves the state before the
word, `s0` (10 R189). -/
def spawnTask (i : Instr) (c : Ctx) (s0 s : State) (r : List Byte) : Res :=
  let va := fieldW r 16 8
  if taskBad r then .stop s 1 0
  else if (field r 40 1 + 1) * 512 > c.wg.part.regs * 32768 then .stop s 0x0A 0
  else if va = 0 then .done (s.storeTask c.wgk r none) []
  else
    match s.counterPlace c.part c.func (counterVa va) {} with
    | .fault cause fl at_ => memFault c s0 (encode i) cause fl at_
    | .ok ps =>
      let s1 := (readPlaces c s [(0, ps)]).1
      .done (s1.storeTask c.wgk r (if s1.counterWord c.part ps % 2 ^ 24 = 0 then none else some (placeKey ps))) []

def tspawnBody (i : Instr) (sp : Bool) (a : Operand) (c : Ctx) (s : State) : Res :=
  let at_ := src64 c a 0
  if c.act = 0 then .done s []
  else if at_.toNat % 8 ≠ 0 then .trap s 7 c.act at_
  else if s.roomFull c.core c.slot .spawn then .wait s (.room .spawn)
  else
    match loadRecord c s (encode i) sp at_.toNat 64 with
    | .error r => r
    | .ok (s2, r) => spawnTask i c s s2 r

def execTspawn (h : Hdr) (sp : Bool) (a : Operand) (s : State) : Out :=
  issueWord (.tspawn h sp a) (tspawnBody (.tspawn h sp a) sp a) s

/-! ### LAUNCH (13 R254) -/

/-- The entry that a LAUNCH of a warp will record is noted as such; under a replay, a LAUNCH performed again takes its own entry
(18 R336, R337; DESIGN CHOICE, log 42). -/
def State.jrnLaunched (s : State) (f : Nat) (src : Word) : State :=
  s.modFunc f (fun x =>
    let ws := if x.jrnReplays then
        (match x.jrnWords.find? (fun (_, a, done) => a == src && !done) with
          | some (i, _, _) => x.jrnWords.map (fun (j, a, done) => (j, a, done || j == i))
          | none => x.jrnWords)
      else x.jrnWords
    { x with jrnWords := if x.jrnOn then ws ++ [(x.jrnPos, src, false)] else ws })

def launchBody (i : Instr) (d a : Operand) (c : Ctx) (s : State) : Res :=
  let at_ := src64 c a 0
  if c.act = 0 then .done s []
  else if at_.toNat % 8 ≠ 0 then .trap s 7 c.act at_
  else if !s.launchTurn c.func at_ then .wait s .recorded
  else if s.roomFull c.core c.slot .launch then .wait s (.room .launch)
  else
    match loadRecord c s (encode i) false at_.toNat 128 with
    | .error r => r
    | .ok (s2, r) =>
      let (s3, lid) := (s2.jrnLaunched c.func at_).acceptLaunch c.part c.func at_ r
      fly c s3 (dstWrite c d (fun _ => BitVec.ofNat 64 lid))

def execLaunch (h : Hdr) (d a : Operand) (s : State) : Out := issueWord (.launch h d a) (launchBody (.launch h d a) d a) s

/-! ### The start of a launch (13 R252, R253) -/

/-- What a read of firmware or the dispatcher comes to. -/
inductive FwRead where
  | ok (s : State) (bytes : List Byte)
  | fault (cause flags va : Nat)
deriving DecidableEq, Repr

def State.fwRead (s : State) (r : FaultRec) (p f va n : Nat) : FwRead :=
  match s.placeAll p f [(0, va)] n {} with
  | .fault c fl a => .fault c fl a
  | .ok ps =>
    let bs := ps.flatMap Prod.snd
    let s := (s.findErrors p none { r with cause := 0x14 } (placeLines bs)).heatLines p 0xFFFF (placeLines bs)
    .ok s (bs.map (fun (pg, off) => s.readByte p pg off))

/-- A read for a launch: none needed, done, or the launch ends or waits with the fault (DEDUCED, log 31). A wait leaves the state
`back`, in which the launch has read nothing: it reads again after the REPLAY (23 R351). -/
def State.launchRead (s back : State) (lid va n : Nat) : Except State (State × List Byte) :=
  let l := s.launch lid
  match s.fwRead (s.launchRecord lid 0 va) l.part l.func va n with
  | .fault c fl a =>
    if c = 9 then .error ((s.reportProtect { s.launchRecord lid 9 a with flags := fl }).endLaunch lid 9)
    else
      .error ((back.reportPage { s.launchRecord lid c (faultPage a) with flags := fl }).setLaunch lid { back.launch lid with heldPage := some (faultPage a) })
  | .ok s bs => .ok (s, bs)

/-- The group image, nothing where GROUPTAB is 0. -/
def State.readImage (s : State) (lid : Nat) : Except State (State × List Byte) :=
  if (s.launch lid).grouptab = 0 then .ok (s, []) else s.launchRead s lid (s.launch lid).grouptab 4080

/-- The bound collective's descriptor (17 R315). -/
def State.readColl (s back : State) (lid : Nat) : Except State (State × Option (List Byte)) :=
  if (s.launch lid).collAt = 0 then .ok (s, none)
  else
    match s.launchRead back lid (s.launch lid).collAt 64 with
    | .error t => .error t
    | .ok (s, d) => .ok (s, some d)

/-- The first state of a prologue's warp: one lane, s0 and s1 set (13 R255). -/
def prologueWarp (l : Launch) : Warp :=
  { startWarp 0 0 1 l.prologueAt (fieldW l.record 8 8) [] with
    state := .ready, s := put 0 (put 0 [] 0 (fieldW l.record 8 8)) 1 l.src, frontier := [{ prio := 0, pc := l.prologueAt, lanes := 1 }] }

/-- A prologue's run starts on the partition's front-end core. -/
def State.startPrologue (s : State) (lid : Nat) (w : Warp) : State :=
  let l := s.launch lid
  (s.setLaunch lid { l with state := .prologue, pwarp := none }).modPart l.part (fun p => { p with prologue := some { lid := lid, warp := w, words := 0 } })

/-- The checks passed: a prologue runs, or the record's own grid is emitted. -/
def State.passLaunch (s : State) (lid : Nat) : State :=
  let l := s.launch lid
  let (x, y, z) := l.recGrid
  if l.prologueAt ≠ 0 then s.startPrologue lid (prologueWarp l) else s.emit lid x y z (fieldW l.record 8 8)

/-- A launch that leaves WAITING (13 R252, R253). -/
def State.checkLaunch (s : State) (lid : Nat) : State :=
  let l := s.launch lid
  let (x, y, z) := l.recGrid
  if l.recordBad then s.failLaunch lid 1 l.src.toNat
  else
    match s.readImage lid with
    | .error t => t
    | .ok (u, img) =>
      if imageBad (img ++ List.replicate (4080 - img.length) 0) then u.failLaunch lid 1 l.src.toNat
      else
        let u := u.modLaunch lid (fun l => { l with groups := groupTable img })
        if u.placeBad (u.launch lid) (x * y * z) then u.failLaunch lid 0x17 l.src.toNat
        else
          match u.readColl s lid with
          | .error t => t
          | .ok (v, d) => (v.modLaunch lid (fun l => { l with coll := d })).passLaunch lid

/-- The front-end core of the partition is free for a prologue of a resident context (DEDUCED, log 74). -/
def State.frontFree (s : State) (l : Launch) : Bool :=
  (s.part l.part).prologue.isNone && s.residentNow l.part l.func && (s.func l.func).ctx.request.isNone

/-- LAUNCH_START: its counter has been zero. -/
def execLaunchStart (lid : Nat) (s : State) : Out :=
  let l := s.launch lid
  if l.live ∧ l.state = .waiting ∧ l.ready ∧ l.heldPage.isNone ∧ (l.prologueAt = 0 ∨ s.frontFree l) then .next (s.checkLaunch lid)
  else .next s

/-! ### Prologues (13 R255, R256) -/

/-- The prologue's run ends with its words issued; answers the state and the warp. -/
def endPrologue (i : Instr) (c : Ctx) (s : State) : State × Warp :=
  let s := (Res.done s []).apply i c
  (s.modPart c.part (fun p => { p with prologue := none }), s.issuerWarp c.who)

/-- Emit with the extents of a and b and ARG = s0; a grid that fails its checks ends the launch. -/
def emitBody (i : Instr) (again : Bool) (a b : Operand) (c : Ctx) (s : State) : Res :=
  let x := (src64 c a 0).toNat
  let y := bits (src64 c b 0) 0 32
  let z := bits (src64 c b 0) 32 32
  if c.act = 0 then .done s []
  else if again ∧ c.launch.coll.isSome then .stop s 1 0
  else
    let (s2, w) := endPrologue i c s
    match s2.emitBad c.lid x y z with
    | some status => .over (s2.failLaunch c.lid status c.launch.src.toNat)
    | none =>
      let s3 := s2.modLaunch c.lid (fun l => { l with pwarp := if again then some w else none })
      .over (s3.emit c.lid x y z (c.w.readS 0))

def execPemit (h : Hdr) (a b : Operand) (s : State) : Out := issueWord (.pemit h a b) (emitBody (.pemit h a b) false a b) s
def execPrepeat (h : Hdr) (a b : Operand) (s : State) : Out := issueWord (.prepeat h a b) (emitBody (.prepeat h a b) true a b) s

/-- The status of a launch that ends by itself (09 R185). -/
def Launch.endStatus (l : Launch) : Nat := if l.storage then 0x14 else 0

/-- PCANCEL ends the launch with no further emission; a bound collective completes as that of no workgroup (DEDUCED, log 32). -/
def pcancelBody (i : Instr) (c : Ctx) (s : State) : Res :=
  if c.act = 0 then .done s []
  else
    let (s2, _) := endPrologue i c s
    .over (if c.launch.coll.isSome then s2.emit c.lid 0 0 0 (c.w.readS 0) else s2.endLaunch c.lid c.launch.endStatus)

def execPcancel (h : Hdr) (s : State) : Out := issueWord (.pcancel h) (pcancelBody (.pcancel h)) s

/-- PROLOGUE_WORD_LIMIT: a run has issued 65,536 words without ending. -/
def execPrologueWordLimit (part : Nat) (s : State) : Out :=
  match s.prologueOver part with
  | some t => .next t
  | none => .next s

/-! ### The end of an emission (13 R252; 10 R199) -/

/-- The `.dev` partials of an emission applied by ascending core, until one waits for a REPLAY: the state, and whether all are. A
protection violation is reported, and its update not performed (DEDUCED, log 122). -/
def State.applyDev (s : State) (lid : Nat) : List DevPartial → State × Bool
  | [] => (s.modLaunch lid (fun l => { l with devParts := [] }), true)
  | d :: r =>
    let l := s.launch lid
    let rec_ : FaultRec := { cause := 0x14, flags := 1, agent := 7, part := l.part, func := l.func, launch := lid % 2 ^ 32 }
    match s.applyEntry l.part l.func d.core none rec_ d.entry with
    | .ok s => State.applyDev s lid r
    | .error f =>
      let rec_ : FaultRec := { rec_ with cause := f.cause, flags := f.flags, va := f.va }
      if f.cause = 9 then State.applyDev (s.reportProtect rec_) lid r
      else ((s.reportPage rec_).setLaunch lid { l with devParts := d :: r, heldPage := some f.va }, false)

/-- The partials in ascending core, those of one core in their order of arrival. -/
def Launch.devOrder (l : Launch) : List DevPartial :=
  (List.range 256).flatMap (fun c => l.devParts.filter (fun d => d.core == c))

/-- Every workgroup of the emission has retired. -/
def Launch.emissionOver (l : Launch) : Bool := l.live && l.state == .running && decide (l.retired ≥ l.total) && l.heldPage.isNone

/-- Nothing of a launch is left but its own completion; its bound collective is complete (17 R305, R315). -/
def State.launchOver (s : State) (lid : Nat) : Bool :=
  let l := s.launch lid
  l.emissionOver && l.pwarp.isNone && l.coll.isNone && s.decs.all (fun d => d.lid != lid || (match d.origin with
    | .bound _ => false
    | _ => true))

/-- LAUNCH_COMPLETE: the partials are applied, and DONE is decremented. -/
def execLaunchComplete (lid : Nat) (s : State) : Out :=
  let l := s.launch lid
  if s.launchOver lid then
    let (s, ok) := s.applyDev lid l.devOrder
    .next (if ok then s.endLaunch lid l.endStatus else s)
  else .next s

/-- The first launch of a partition whose prologue is to run again. -/
def State.rerunLaunch (s : State) (part : Nat) : Option Nat :=
  (s.launches.find? (fun (_, l) => l.part == part && l.emissionOver && l.pwarp.isSome && s.frontFree l)).map Prod.fst

/-- PROLOGUE_RERUN: a prologue that ended with PREPEAT runs again from PROLOGUE with its s and p registers. -/
def execPrologueRerun (part : Nat) (s : State) : Out :=
  match s.rerunLaunch part with
  | none => .next s
  | some lid =>
    let l := s.launch lid
    let (s, ok) := s.applyDev lid l.devOrder
    if ok then
      let w := l.pwarp.getD noWarp
      .next (s.startPrologue lid { w with state := .ready, spilled := [], windows := [], frontier := [{ prio := 0, pc := l.prologueAt, lanes := 1 }] })
    else .next s

/-! ### The ready queue (02 R20-R22; 13 R249) -/

/-- Banks of a core that no workgroup holds. -/
def State.freeBanks (s : State) (core : Nat) : Nat :=
  (s.core core).banks - s.wgs.foldl (fun n (_, g) => if g.live && g.core == core then n + g.part.alloc else n) 0
/-- Mass registers of a core that no workgroup owns. -/
def State.freeMass (s : State) (core : Nat) : Nat :=
  4 - s.wgs.foldl (fun n (_, g) => if g.live && g.core == core then n + g.massOwned else n) 0
/-- No bank of the core is held. -/
def State.coreEmpty (s : State) (core : Nat) : Bool := !(s.wgs.any (fun (_, g) => g.live && g.core == core))

/-- A core can admit a workgroup of a launch (02 R21; 08 R152; 09 R166). -/
def State.canAdmit (s : State) (core : Nat) (l : Launch) : Bool :=
  decide (s.freeSlots core ≥ l.warps) && decide (s.freeMass core ≥ l.massField) &&
    (if l.allocField = 0 then s.coreEmpty core && decide (l.pwSum ≤ (s.core core).banks) && decide ((s.core core).banks ≠ 0)
     else decide (s.freeBanks core ≥ l.allocField))

/-- A workgroup is admitted: zero scratchpad and accumulators, every granule empty, its warps placed (02 R21, R22; 09 R168). -/
def State.admitWg (s : State) (core lid lin : Nat) : State :=
  let l := s.launch lid
  let k := wgKey lid lin
  let pw : PartWord := { alloc := l.allocOn (s.core core), swap := l.pwSwap, acc := l.pwAcc, regs := l.pwRegs }
  let s := s.setWg k { noWg with
    live := true, lid := lid, lin := lin, x := lin % max 1 l.nx, y := lin / max 1 l.nx % max 1 l.ny, z := lin / max 1 (l.nx * l.ny)
    core := core, part := pw, full := pw, massOwned := l.massField, area := some (areaPlace k), runSince := s.now }
  (List.range l.warps).foldl (fun s n =>
    s.placeWarp core (startWarp k n l.nregs l.entry l.arg (0 :: l.warpGroups lin n)) .ready .ready) s

/-- The first workgroup of the unit that a workgroup lies in. -/
def Launch.unitStart (l : Launch) (lin : Nat) : Nat :=
  if l.spans = [] then lin
  else ((List.range (lin + 1)).find? (fun a => decide (lin < spanEnd l.spans l.total l.total a (a + 1)))).getD lin
/-- The workgroups that are placed, admitted and sliced together with one, itself among them (02 R43). -/
def Launch.unitOf (l : Launch) (lin : Nat) : List Nat := l.unit (l.unitStart lin)

/-- The other workgroups of a unit that are still queued, with their cores (02 R43). -/
def State.unitTasks (s : State) (lid lin : Nat) : List (Nat × Nat) :=
  let mates := ((s.launch lid).unitOf lin).filter (fun j => j != lin)
  if mates = [] then []
  else
    s.cores.flatMap (fun (c, k) => (k.ready.filterMap (fun t => match t.task with
      | .workgroup i j => if i = lid ∧ mates.contains j then some (c, j) else none
      | _ => none)))

def State.takeTask (s : State) (core : Nat) (t : Task) : State := s.modCore core (fun k => { k with ready := k.ready.filter (fun x => x.task != t) })

/-- Workgroups admitted one after another on their cores, or none (02 R43). -/
def State.admitAll (s : State) (lid : Nat) : List (Nat × Nat) → Option State
  | [] => some s
  | (c, lin) :: r =>
    if s.canAdmit c (s.launch lid) then State.admitAll ((s.takeTask c (.workgroup lid lin)).admitWg c lid lin) lid r else none

/-- A workgroup admitted with the others of its SPAN run, where every core has room. -/
def State.admitRun (s : State) (core lid lin : Nat) : Option State :=
  let l := s.launch lid
  if s.residentNow l.part l.func ∧ (s.func l.func).ctx.request.isNone then s.admitAll lid ((core, lin) :: s.unitTasks lid lin) else none

/-- Work-warp numbers of a workgroup that no warp has, in ascending order. -/
def State.freeNums (s : State) (core k : Nat) : List Nat :=
  let used := (s.workWarps core k).map (fun i => (s.warp core i).num)
  (List.range 16).filter (fun n => !used.contains n)

/-- A spawned task started: TEAM new work warps, members of group 0 only (13 R249). -/
def State.startSpawned (s : State) (core k id : Nat) : Option State :=
  let g := s.wg k
  match g.tasks.find? (fun t => t.id == id) with
  | none => none
  | some t =>
    let n := field t.record 39 1
    let nums := (s.freeNums core k).take n
    if nums.length < n ∨ s.freeSlots core < n ∨ g.halting then none
    else
      let s := s.takeTask core (.spawned k id)
      let s := s.modWg k (fun g => { g with tasks := g.tasks.map (fun x => if x.id = id then { x with started := true } else x) })
      some (nums.foldl (fun s j =>
        s.placeWarp core { startWarp k j (field t.record 40 1 + 1) (fieldW t.record 0 8) (fieldW t.record 8 8) [0] with task := some id } .ready .ready) s)

/-- A task is served before another (02 R20). -/
def ReadyTask.before (a b : ReadyTask) : Bool := decide (a.prio > b.prio) || (a.prio == b.prio && decide (a.order < b.order))
def insertTask (t : ReadyTask) : List ReadyTask → List ReadyTask
  | [] => [t]
  | x :: r => if t.before x then t :: x :: r else x :: insertTask t r
/-- The ready queue in the order in which it is served. -/
def Core.served (k : Core) : List ReadyTask := k.ready.foldl (fun l t => insertTask t l) []

/-- A core has room for a task. -/
def State.roomFor (s : State) (core : Nat) : Task → Bool
  | .workgroup lid lin => (s.admitRun core lid lin).isSome
  | .spawned k id => (s.startSpawned core k id).isSome

def Task.inUnit (ms : List Nat) (lid : Nat) : Task → Bool
  | .workgroup i j => i == lid && ms.contains j
  | .spawned _ _ => false

/-- Nothing comes before a workgroup task of a SPAN run on its core: no upcall that a team is free for, and no task served earlier,
but for those of the run, that the core has room for (02 R20, R43). -/
def State.comesFirst (s : State) (core lid lin : Nat) : Bool :=
  let ms := (s.launch lid).unitOf lin
  (s.nextUpcall core).isNone &&
    ((s.core core).served.takeWhile (fun x => x.task != .workgroup lid lin)).all (fun x => x.task.inUnit ms lid || !s.roomFor core x.task)

/-- A workgroup task started, with the others of its SPAN run, each of which its own core serves next (02 R20, R43). -/
def State.startWg (s : State) (core lid lin : Nat) : Option State :=
  if (s.unitTasks lid lin).all (fun (c, j) => s.comesFirst c lid j) then s.admitRun core lid lin else none

def State.startTask (s : State) (core : Nat) : Task → Option State
  | .workgroup lid lin => s.startWg core lid lin
  | .spawned k id => s.startSpawned core k id

/-- The first task in order of service that the core can start, with the state in which it is started (DEDUCED, log 33). -/
def State.startFirst (s : State) (core : Nat) : Option (Task × State) :=
  (s.core core).served.findSome? (fun t => (s.startTask core t.task).map (fun u => (t.task, u)))

def Task.isWg : Task → Bool
  | .workgroup _ _ => true
  | .spawned _ _ => false

/-- WORKGROUP_ADMISSION: the core admits a workgroup, where that is what its ready queue serves next: no upcall that a team is
free for, and no other task that can start, comes before it (02 R20). -/
def execWorkgroupAdmission (core : Nat) (s : State) : Out :=
  match s.nextUpcall core, s.startFirst core with
  | none, some (t, u) => .next (if t.isWg then u else s)
  | _, _ => .next s

/-- TASK_START: an upcall that a team is free for comes first, then the other tasks. -/
def execTaskStart (core : Nat) (s : State) : Out :=
  match s.nextUpcall core with
  | some (u, t) => .next (s.deliver core u t)
  | none =>
    match s.startFirst core with
    | some (_, u) => .next u
    | none => .next s

end Sys2Proof.Machine
end

