-- ==== Sys2Proof/Machine/Contexts.lean ====
section
/-! DEFINITION. Contexts, turns and the ladder of requests (14 R261-R273; 02 R41-R43; 06 R108; 17 R324): soft requests, forced
halts, saves, restores, kills, turns, rotation, the dispatcher, the release of frozen warps. An event whose condition does
not hold leaves the state. -/
namespace Sys2Proof.Machine

/-- A microsecond of wall time (DEDUCED, log 6). -/
def usec (n : Nat) : Nat := n * 56306250

/-- The resident workgroups of a function, and of a partition, by key. -/
def State.funcWgs (s : State) (f : Nat) : List Nat := (s.wgs.filter (fun (_, g) => g.live && s.wgFunc g == f)).map Prod.fst
def State.partWgs (s : State) (p : Nat) : List Nat := (s.wgs.filter (fun (_, g) => g.live && s.wgPart g == p)).map Prod.fst

/-! ### Requests (14 R263, R264) -/

/-- A walk that is to halt is suspended at its K-step boundary (12 R241). -/
def Walk.halt (w : Walk) : Walk :=
  if w.state = .done then w
  else { w with haltPending := true, state := if w.active && !w.multiplying then .suspended else w.state }

/-- The warps of a workgroup that are at a boundary are held there; with `all`, every warp stops. -/
def State.holdWarps (s : State) (k : Nat) (all : Bool) : State :=
  let c := (s.wg k).core
  (s.wgSlots c k).foldl (fun s i => s.modWarp c i (fun w =>
    if all || w.state.boundary then { w with sched := { w.sched with held := true } } else w)) s

/-- A workgroup receives a soft request; one on the ladder already is not affected. -/
def State.askWg (s : State) (k : Nat) (rotating : Bool) : State :=
  let g := s.wg k
  if g.request.isSome then s
  else
    let s := s.modWg k (fun g => { g with request := some s.wall, timers := (s.part (s.wgPart g)).timers, rotating := rotating })
    let s := s.modCore g.core (fun c => { c with walks := c.walks.map (fun w => if w.wg = k then w.halt else w) })
    s.holdWarps k false

/-- Some workgroup of the context is being restored. -/
def State.anyRestoring (s : State) (f : Nat) : Bool := (s.funcWgs f).any (fun k => (s.wg k).restoring)

/-- A context receives a soft request, and each of its workgroups does; one on the ladder already is not affected, and one that
is being restored receives it when the restore ends (14 R263). -/
def State.askContext (s : State) (f : Nat) : State :=
  if (s.func f).ctx.request.isSome then s
  else if s.anyRestoring f then s.modFunc f (fun x => { x with ctx := { x.ctx with asked := true } })
  else
    let s := s.modFunc f (fun x => { x with ctx := { x.ctx with request := some s.wall, asked := false } })
    (s.funcWgs f).foldl (fun s k => s.askWg k false) s

/-- The forced stage: every warp stops, and the save begins (14 R263, R265). -/
def State.forceWg (s : State) (k : Nat) : State :=
  let s := s.askWg k false
  (s.modWg k (fun g => { g with forced := true, saving := true, haltDue := false })).holdWarps k true

/-- A context receives a forced halt; one that is being restored does when its restore ends (14 R263). -/
def State.haltContext (s : State) (f : Nat) : State :=
  let t := s.askContext f
  if s.anyRestoring f then (s.funcWgs f).foldl (fun s k => s.modWg k (fun g => { g with haltDue := true })) t
  else (s.funcWgs f).foldl (fun s k => s.forceWg k) t

/-- A request that waited for the context's restore takes its course when that ends, a forced halt after it (14 R263). -/
def State.askLate (s : State) (f : Nat) : State :=
  if (s.func f).ctx.asked ∧ !s.anyRestoring f then
    (s.funcWgs f).foldl (fun s k => if (s.wg k).haltDue then s.forceWg k else s) (s.askContext f)
  else s

/-- The resident context's last workgroup has left under a request: its turn ends (14 R263, R269). -/
def State.endTurnOf (s : State) (p : Nat) : State :=
  match (s.part p).turn with
  | none => s
  | some f =>
    let s := s.askLate f
    if (s.func f).ctx.request.isSome ∧ s.funcWgs f = [] then
      let s := s.charge f
      let s := s.modFunc f (fun x => { x with ctx := { x.ctx with request := none } })
      s.modPart p (fun x => { x with turn := none })
    else s

/-- The charged cycles of the resident context, if it has work, reach its deficit while another context has work. -/
def State.quantumOver (s : State) (p : Nat) : Option Nat :=
  match (s.part p).turn with
  | none => none
  | some f =>
    let x := (s.func f).ctx
    if (s.contexts p).length ≥ 2 ∧ x.request.isNone ∧ !x.asked ∧ s.hasContext f ∧ x.charging ∧ x.deficit ≤ ((s.now - x.turnSince : Nat) : Int) then some f else none

/-- DEFICIT_QUANTUM_EXPIRY: that context receives a soft request. -/
def execDeficitQuantumExpiry (part : Nat) (s : State) : Out :=
  match s.quantumOver part with
  | none => .next s
  | some f => .next ((s.askContext f).endTurnOf part)

/-! ### Saves (14 R264, R265, R267) -/

/-- The groups that a member of the workgroup belongs to. -/
def State.groupsOf (s : State) (k : Nat) : List Nat :=
  let c := (s.wg k).core
  ((s.wgSlots c k).flatMap (fun i => (s.warp c i).grps)).eraseDups
/-- A barrier of the group is partly arrived. -/
def State.partly (s : State) (k g : Nat) : Bool := (s.instanceWgs k g).any (fun j => get 0 (s.wg j).arrived g != 0)
def State.heldByBarrier (s : State) (k : Nat) : Bool := (s.groupsOf k).any (fun g => s.partly k g)

/-- The workgroup's walks are at a K-step boundary. -/
def State.walksStopped (s : State) (k : Nat) : Bool :=
  (s.core (s.wg k).core).walks.all (fun w => w.wg != k || (!w.active && !w.multiplying))
/-- Every warp of the workgroup is at a boundary and is held there. -/
def State.allHeld (s : State) (k : Nat) : Bool :=
  let c := (s.wg k).core
  (s.wgSlots c k).all (fun i => (s.warp c i).sched.held)

/-- A workgroup under a soft request is soft-saved: R264's conditions hold. -/
def State.softReady (s : State) (k : Nat) : Bool :=
  let g := s.wg k
  g.live && g.request.isSome && !g.saving && s.allHeld k && !s.heldByBarrier k && s.walksStopped k

/-- SOFT_SAVE: the save of a workgroup under a soft request begins. -/
def execSoftSave (wg : Nat) (s : State) : Out :=
  if s.softReady wg then .next (s.modWg wg (fun g => { g with saving := true })) else .next s

/-- The warps that have not reached a boundary are members of a partly arrived barrier at which they have not arrived, and
the walks have stopped: the workgroup waits for nothing else (DEDUCED, log 34). -/
def State.onlyBarrier (s : State) (k : Nat) : Bool :=
  let c := (s.wg k).core
  s.heldByBarrier k && s.walksStopped k && (s.wgSlots c k).all (fun i =>
    let w := s.warp c i
    w.sched.held || w.grps.any (fun g => s.partly k g && !s.hasArrived k g i))

/-- BARDEFER' has passed for a workgroup that only a partly arrived barrier holds. -/
def State.barrierOver (s : State) (k : Nat) : Bool :=
  let g := s.wg k
  match g.request with
  | none => false
  | some t => g.live && !g.saving && decide (t + usec (min g.timers.bardefer g.timers.grace) ≤ s.wall) && s.onlyBarrier k

/-- BARDEFER_EXPIRY: the workgroup is force-saved with its masks (14 R263, R264). -/
def execBardeferExpiry (wg : Nat) (s : State) : Out := if s.barrierOver wg then .next (s.forceWg wg) else .next s

/-- GRACE has passed for a workgroup that is not being saved. -/
def State.graceOver (s : State) (k : Nat) : Bool :=
  let g := s.wg k
  match g.request with
  | some t => !g.saving && decide (t + usec g.timers.grace ≤ s.wall)
  | none => false

/-- GRACE_EXPIRY: the workgroups whose request is GRACE old and that are not being saved receive a forced halt. -/
def execGraceExpiry (part : Nat) (s : State) : Out :=
  .next ((s.partWgs part).foldl (fun s k => if s.graceOver k then s.forceWg k else s) s)

/-- Issued words have completed, mass instructions and K-steps too: sweeps stop between elements (14 R265). -/
def State.settled (s : State) (k : Nat) : Bool :=
  let c := (s.wg k).core
  (s.wgSlots c k).all (fun i => (s.warp c i).flights.all (fun f => f.kind == .sweep)) &&
    (s.core c).walks.all (fun w => w.wg != k || !w.multiplying) && !((s.core c).massQ.any (fun o => (s.warp c o.slot).wg == k))

/-- A warp as its record holds it. -/
def Warp.saved (w : Warp) : Warp :=
  { w with state := if w.state = .issuing then .ready else w.state
           sched := { w.sched with held := false, waited := 0, promoted := none, yieldFor := [], wakeable := false, victim := false, gapUntil := 0 } }

/-- The image of a workgroup (14 R267) (DESIGN CHOICE, log 76). Its KVSEAL commands stay with the engine that has them (14 R265). -/
def State.imageOf (s : State) (k : Nat) : SavedWg :=
  let g := s.wg k
  let c := s.core g.core
  let mine (w : Nat) : Bool := c.walks.any (fun x => x.wid == w && x.wg == k)
  { key := k
    wg := { g with
      request := none, forced := false, saving := false, restoring := false, haltDue := false, rotating := false, corr := 0, uncorr := 0 }
    warps := (s.wgSlots g.core k).map (fun i => (i, (s.warp g.core i).saved))
    walks := c.walks.filter (fun w => w.wg == k)
    upcalls := c.upcalls.filter (fun u => u.wg == k)
    copies := c.copies.filter (fun x => x.by_.wg == k)
    sweeps := c.scheds.flatMap (fun (i, x) => (x.sweeps.filter (fun y => y.by_.wg == k)).map (fun y => (i, y)))
    consumeDue := c.consumeDue.filter (fun (w, _) => mine w)
    ready := c.ready.filter (fun t => match t.task with
      | .spawned j _ => j == k
      | .workgroup _ _ => false)
    stamp := (s.part (s.wgPart g)).nextOrder }

/-- Everything of a workgroup leaves its core (DEDUCED, logs 75 and 77). -/
def State.leaveCore (s : State) (k : Nat) : State :=
  let g := s.wg k
  let s := s.modCore g.core (fun c => { c with massQ := c.massQ.filter (fun o => (get noWarp c.warps o.slot).wg != k) })
  let s := (s.wgSlots g.core k).foldl (fun s i => (s.leaveIssue g.core i .retired).setWarp g.core i noWarp) s
  let mine (c : Core) (w : Nat) : Bool := c.walks.any (fun x => x.wid == w && x.wg == k)
  let s := s.modCore g.core (fun c => { c with
    walks := c.walks.filter (fun w => w.wg != k)
    upcalls := c.upcalls.filter (fun u => u.wg != k)
    consumeDue := c.consumeDue.filter (fun (w, _) => !mine c w)
    copies := c.copies.filter (fun x => x.by_.wg != k)
    scheds := c.scheds.map (fun ((i, x) : Nat × Scheduler) => (i, { x with sweeps := x.sweeps.filter (fun y => y.by_.wg != k) }))
    ready := c.ready.filter (fun t => match t.task with
      | .spawned j _ => j != k
      | .workgroup _ _ => true) })
  s.dropWg k

/-- The keys of the workgroups that are placed and sliced together with one, itself among them (02 R43). -/
def State.runOf (s : State) (k : Nat) : List Nat := ((s.launch (k / 2 ^ 32)).unitOf (k % 2 ^ 32)).map (fun j => wgKey (k / 2 ^ 32) j)

/-- SAVE_COMPLETE: the image is written; a rotated workgroup joins its launch's waiting ones, together with its SPAN run, and the
last of a context's workgroups ends its turn (14 R263, R267, R271). -/
def execSaveComplete (wg : Nat) (s : State) : Out :=
  let g := s.wg wg
  if g.live ∧ g.saving ∧ s.settled wg then
    let f := s.wgFunc g
    let p := s.wgPart g
    let v := s.imageOf wg
    let rotate := g.rotating ∧ ((s.func f).ctx.request.isNone ∨ (s.runOf wg).any (fun j => (s.launch g.lid).rotated.contains j))
    let s := ((s.leaveCore wg).saveImage v).modFunc f (fun x => { x with ctx := { x.ctx with saved := x.ctx.saved ++ [v] } })
    let s := if rotate then s.modLaunch g.lid (fun l => { l with rotated := l.rotated ++ [wg] }) else s
    .next (s.endTurnOf p)
  else .next s

/-! ### Restores (14 R268; 06 R108; 02 R22) -/

/-- Whole banks that hold a footprint. -/
def minRegs (v : SavedWg) : Nat := ((v.warps.foldl (fun n (_, w) => max n w.nregs) 0) * 512 + 32767) / 32768

/-- The partition word in effect on a core with so many free banks (06 R108). -/
def SavedWg.fitWord (v : SavedWg) (free : Nat) : Option PartWord :=
  let fixed := v.spad + v.wg.full.acc
  if fixed + minRegs v > free then none
  else
    let regs := min v.wg.full.regs (free - fixed)
    let swap := min v.wg.full.swap (free - fixed - regs)
    some { alloc := fixed + regs + swap, swap := swap, acc := v.wg.full.acc, regs := regs }

/-- Resident workgroups of a core. -/
def State.coreWgs (s : State) (c : Nat) : Nat := (s.wgs.filter (fun (_, g) => g.live && g.core == c)).length

/-- A core that qualifies for a restore, with the word in effect there. -/
def State.qualifies (s : State) (v : SavedWg) (c : Nat) : Option PartWord :=
  if s.freeSlots c ≥ v.warps.length ∧ s.freeMass c ≥ v.wg.massOwned then v.fitWord (s.freeBanks c) else none

/-- Cores put in ascending count of resident workgroups, then in ascending number. -/
def State.insertCore (s : State) (c : Nat) : List Nat → List Nat
  | [] => [c]
  | x :: r => if s.coreWgs c < s.coreWgs x then c :: x :: r else x :: State.insertCore s c r
def State.byLoad (s : State) (cs : List Nat) : List Nat := cs.foldl (fun l c => s.insertCore c l) []

/-- The order in which cores are tried: its own, then those of its die, then the others. -/
def State.restoreOrder (s : State) (p : Nat) (v : SavedWg) : List Nat :=
  let cs := (s.part p).coreList
  cs.filter (fun c => c == v.wg.core) ++ s.byLoad (cs.filter (fun c => c != v.wg.core && c / 64 == v.wg.core / 64)) ++
    s.byLoad (cs.filter (fun c => c / 64 != v.wg.core / 64))

/-- Slots by their old numbers. -/
def slotOf (m : List (Nat × Nat)) (old : Nat) : Nat := ((m.find? (fun (o, _) => o == old)).map Prod.snd).getD old

/-- The warp's registers stood in the register region. -/
def Warp.inRegion (w : Warp) : Bool :=
  w.res == .resident && (match w.state with
    | .swapped _ => false
    | _ => true)

/-- A warp placed afresh: in the register region where it stood there and there is room, else swapped (02 R22; 06 R108). -/
def State.replaceWarp (s : State) (core k : Nat) (w : Warp) : State × Nat :=
  match s.pickSlot core with
  | none => (s, 0)
  | some slot =>
    let n := (s.core core).nextAdmit
    let s := s.modCore core (fun c => { c with nextAdmit := n + 1 })
    let store (s : State) : Residency := if w.res = .fresh then .fresh else if s.swapRoom core k w.nregs then .swapRegion else .saveArea
    let sched : Sched := { w.sched with order := n, held := true, readySince := s.now, residentSince := s.now }
    if w.inRegion ∧ s.regRoom core k w.nregs then (s.setWarp core slot { w with res := .resident, sched := sched }, slot)
    else
      let state : WState := match w.state with
        | .frozen b => .frozen b
        | _ => .swapped w.base
      let s := s.setWarp core slot { w with state := state, res := store s, sched := sched }
      (if state = .swapped .ready then s.markWakeable core slot else s, slot)

/-- The arrival masks with the slots' new numbers. -/
def remapMask (m : List (Nat × Nat)) (x : BitVec 64) : BitVec 64 :=
  BitVec.ofNat 64 ((List.range 64).foldl (fun acc i => if x.getLsbD i then Nat.lor acc (2 ^ slotOf m i) else acc) 0)

/-- Places for the upcalls in the queue of a core: their own where free (DEDUCED, log 82). -/
def upcallPlaces (used : List Nat) : List Upcall → List (Nat × Nat)
  | [] => []
  | u :: r =>
    let p := if used.contains u.place then ((List.range 4096).find? (fun i => !used.contains i && !(r.any (fun x => x.place == i)))).getD 0 else u.place
    (u.place, p) :: upcallPlaces (p :: used) r

def Issued.remap (b : Issued) (m : List (Nat × Nat)) : Issued := { b with slot := slotOf m b.slot }

/-- The parts of an image taken up by a core (12 R241; 14 R265). -/
def Core.takeImage (c : Core) (v : SavedWg) (m places : List (Nat × Nat)) : Core :=
  { c with
    walks := c.walks ++ v.walks.map (fun (w : Walk) => { w with
      slot := slotOf m w.slot, haltPending := false
      state := if w.state = .suspended ∧ (w.promoted = [] ∨ w.inBlock) then .stalled else w.state })
    upcalls := c.upcalls ++ v.upcalls.map (fun (u : Upcall) => { u with place := slotOf places u.place })
    consumeDue := c.consumeDue ++ v.consumeDue
    copies := c.copies ++ v.copies.map (fun (x : CopyCmd) => { x with by_ := x.by_.remap m }) }

/-- Commands of a workgroup that a KV engine still has name their warps by the new slots. -/
def State.remapKvs (s : State) (k : Nat) (m : List (Nat × Nat)) : State :=
  s.coreNums.foldl (fun s c => s.modCore c (fun x => { x with kvs := x.kvs.map (fun (y : KvCmd) =>
    if y.by_.wg = k then { y with by_ := y.by_.remap m } else y) })) s

/-- A saved workgroup restored on a core; its warps are placed in the order of their old slots (DESIGN CHOICE, log 100). -/
def State.restoreOn (s : State) (core f : Nat) (v : SavedWg) (pw : PartWord) : State :=
  let k := v.key
  let places := upcallPlaces ((s.core core).upcalls.map Upcall.place) v.upcalls
  let s := s.modFunc f (fun x => { x with ctx := { x.ctx with saved := x.ctx.saved.filter (fun y => y.key != k) } })
  let s := s.setWg k { v.wg with core := core, part := pw, restoring := true, runSince := s.now
                                 mass := v.wg.mass.map (fun ((i, r) : Nat × MassReg) => (i, { r with rebuilding := r.conf })) }
  let (s, m) := v.warps.foldl (fun (acc : State × List (Nat × Nat)) ((old, w) : Nat × Warp) =>
    let w := { w with uparg := w.uparg.map (slotOf places) }
    let (s, slot) := acc.1.replaceWarp core k w
    (s, acc.2 ++ [(old, slot)])) (s, [])
  let s := s.modWg k (fun g => { g with
    arrived := g.arrived.map (fun ((i, x) : Nat × BitVec 64) => (i, remapMask m x))
    teams := g.teams.map (fun (t : Team) => { t with slots := t.slots.map (slotOf m), upcall := t.upcall.map (slotOf places) }) })
  let s := (s.modCore core (fun c => c.takeImage v m places)).remapKvs k m
  let s := v.sweeps.foldl (fun (s : State) ((_, x) : Nat × SweepCmd) =>
    let x := { x with by_ := x.by_.remap m }
    s.modCore core (fun c => c.modSched (x.by_.slot / 16) (fun y => { y with sweeps := y.sweeps ++ [x] }))) s
  v.ready.foldl (fun s t => s.pushReady core t.task t.prio) s

/-- The saved workgroup with a key. -/
def State.savedWg (s : State) (f k : Nat) : Option SavedWg := (s.func f).ctx.saved.find? (fun v => v.key == k)

/-- No core qualifies: PLACE is reported, once for a workgroup (14 R268). -/
def State.placeFails (s : State) (p f : Nat) (v : SavedWg) : State :=
  let s := if v.wg.placeReported then s
    else s.report { cause := 0x17, agent := 8, part := p, func := f, launch := v.wg.lid % 2 ^ 32, wgx := v.wg.x, wgy := v.wg.y, wgz := v.wg.z }
  s.modFunc f (fun x => { x with ctx := { x.ctx with
    placeRetries := x.ctx.placeRetries + 1
    saved := x.ctx.saved.map (fun (y : SavedWg) => if y.key = v.key then { y with wg := { y.wg with placeReported := true } } else y) } })

/-- Saved workgroups restored together, each on the first core that qualifies, or none (14 R268; 02 R43). -/
def State.restoreAll (s : State) (p f : Nat) : List Nat → Option State
  | [] => some s
  | k :: r =>
    match s.savedWg f k with
    | none => State.restoreAll s p f r
    | some v =>
      match (s.restoreOrder p v).findSome? (fun c => (s.qualifies v c).map (fun pw => (c, pw))) with
      | some (c, pw) => State.restoreAll (s.restoreOn c f v pw) p f r
      | none => none

/-- A saved workgroup restored with its SPAN run, or kept saved. -/
def State.restoreWg (s : State) (p f : Nat) (v : SavedWg) : State :=
  if (s.savedWg f v.key).isNone then s
  else
    match s.restoreAll p f (v.key :: (s.runOf v.key).filter (fun j => j != v.key)) with
    | some t => t
    | none => s.placeFails p f v

/-- A flush that a fault paused goes on (10 R199). -/
def State.retryFlush (s : State) (k : Nat) : State :=
  match (s.wg k).flushWait with
  | some (some g, _) => s.completeBarrier k g
  | some (none, _) => s.retireWg k
  | none => s

/-- RESTORE_COMPLETE: the workgroup's warps may issue; barriers that completed meanwhile and paused flushes take their course, and with the
last of the context's workgroups the request, or forced halt, that came during its restore (14 R263, R265). -/
def execRestoreComplete (wg : Nat) (s : State) : Out :=
  let g := s.wg wg
  if g.live ∧ g.restoring then
    let s := s.modWg wg (fun g => { g with restoring := false, runSince := s.now })
    let s := (s.wgSlots g.core wg).foldl (fun s i => s.modWarp g.core i (fun w => { w with sched := { w.sched with held := false, readySince := s.now } })) s
    let s := (s.groupsOf wg).foldl (fun s i => s.completeBarrier wg i) s
    let s := s.retryFlush wg
    let s := s.refreshSlots g.core wg
    .next (s.askLate (s.wgFunc g))
  else .next s

/-! ### Turns (14 R269, R271) -/

/-- The context whose turn comes next: the first of the run queue that has work and is not held after DIVERGE. -/
def State.nextContext (s : State) (p : Nat) : Option Nat := (s.contexts p).find? (fun f => !(s.func f).ctx.diverged)

/-- The turn of a context with no work left is over. -/
def State.closeTurn (s : State) (p : Nat) : State :=
  match (s.part p).turn with
  | none => s
  | some f =>
    if s.hasContext f then s
    else
      let s := (s.charge f).modFunc f (fun x => { x with ctx := { x.ctx with deficit := min x.ctx.deficit 0, request := none, asked := false } })
      s.modPart p (fun x => { x with turn := none, runq := x.runq.filter (fun g => g != f) })

/-- The saved workgroups that a turn brings back: those that do not wait as rotated ones. -/
def State.comingBack (s : State) (f : Nat) : List SavedWg :=
  (s.func f).ctx.saved.filter (fun (v : SavedWg) => !((s.launch v.wg.lid).rotated.contains v.key))

/-- A context becomes resident: its saved workgroups are restored. -/
def State.giveTurn (s : State) (p f : Nat) : State :=
  (s.comingBack f).foldl (fun s v => s.restoreWg p f v)
    ((s.modPart p (fun x => { x with turn := some f, resume := none, wgqNow := x.wgq })).modFunc f (fun x => { x with ctx := { x.ctx with
      charging := decide ((s.contexts p).length ≥ 2), turnSince := s.now } }))

/-- The context that a recovery halted, if it still has work (18 R338). -/
def State.resumed (s : State) (p : Nat) : Option Nat :=
  match (s.part p).resume with
  | some f => if s.hasContext f ∧ !(s.func f).ctx.diverged then some f else none
  | none => none

/-- TURN: the next context receives WEIGHT times QBASE; with a deficit above 0 it is restored and runs, else it passes. -/
def execTurn (part : Nat) (s : State) : Out :=
  let s := (s.endTurnOf part).closeTurn part
  let p := s.part part
  if p.turn.isSome ∨ s.hot ∨ !p.en then .next s
  else
    match s.resumed part, s.nextContext part with
    | some f, _ => .next (s.giveTurn part f)
    | none, none => .next s
    | none, some f =>
      let d := (s.func f).ctx.deficit + (((s.func f).weight * p.qbase : Nat) : Int)
      let s := s.modFunc f (fun x => { x with ctx := { x.ctx with deficit := d } })
      let s := s.modPart part (fun x => { x with runq := x.runq.filter (fun g => g != f) ++ [f] })
      if d ≤ 0 then .next s
      else .next (s.giveTurn part f)

/-- Workgroups of the launch wait to be created. -/
def Launch.uncreated (l : Launch) : Bool := l.state == .dispatching && decide (l.next < l.total)

/-- Workgroup tasks of a function that their cores cannot start now. -/
def State.stuckTasks (s : State) (f : Nat) : Bool :=
  s.cores.any (fun (c, k) => k.ready.any (fun t => match t.task with
    | .workgroup i _ => (s.launch i).live && (s.launch i).func == f && (s.startTask c t.task).isNone
    | .spawned _ _ => false))

/-- Workgroups of the context wait, of the launch itself or of another, that can be made resident by slicing alone: not yet created,
rotated out, or created on a core that has no room for them (02 R41) (DEDUCED, log 101). -/
def State.othersWait (s : State) (l : Launch) : Bool :=
  s.launches.any (fun (_, x) => x.live && x.func == l.func && (x.uncreated || x.rotated != [])) || s.stuckTasks l.func

/-- A workgroup of a partition of 64 cores or fewer has run WGQ cycles while others wait, and no workgroup of its context is being
restored (14 R263, R271; 02 R41, R43). -/
def State.sliceOver (s : State) (k : Nat) : Bool :=
  let g := s.wg k
  let l := s.launch g.lid
  let p := s.part l.part
  g.live && decide (g.runSince + p.wgqNow ≤ s.now) && g.request.isNone && (s.func l.func).ctx.request.isNone && s.residentNow l.part l.func &&
    decide (p.coreList.length ≤ 64) && !s.anyRestoring l.func && s.othersWait l

/-- WG_SLICE_EXPIRY: the workgroup receives a soft request, with the workgroups of its SPAN runs (14 R271; 02 R43). -/
def execWgSliceExpiry (wg : Nat) (s : State) : Out :=
  if s.sliceOver wg then .next ((s.runOf wg).foldl (fun s j => if (s.wg j).live then s.askWg j true else s) s) else .next s

/-! ### Dispatch (13 R257) -/

/-- What queued workgroup tasks of the resident function take on a core: slots, banks, mass registers. -/
def State.queuedOn (s : State) (f core : Nat) : Nat × Nat × Nat :=
  (s.core core).ready.foldl (fun (a, b, m) t => match t.task with
    | .workgroup lid _ =>
      let l := s.launch lid
      if l.live ∧ l.func = f then (a + l.warps, b + l.allocOn (s.core core), m + l.massField) else (a, b, m)
    | .spawned _ _ => (a, b, m)) (0, 0, 0)

/-- A core can admit a further workgroup beside those queued (DEDUCED, log 35). -/
def State.canTake (s : State) (core : Nat) (l : Launch) : Bool :=
  let (a, b, m) := s.queuedOn l.func core
  decide (s.freeSlots core ≥ a + l.warps) && decide (s.freeMass core ≥ m + l.massField) &&
    (if l.allocField = 0 then s.coreEmpty core && b == 0 && decide (l.pwSum ≤ (s.core core).banks) && decide ((s.core core).banks ≠ 0)
     else decide (s.freeBanks core ≥ b + l.allocField))

/-- Resident workgroups of a launch on a core. -/
def State.launchLoad (s : State) (lid core : Nat) : Nat :=
  (s.wgs.filter (fun (_, g) => g.live && g.lid == lid && g.core == core)).length

/-- The core for the next workgroup: of those that can take it the one with the fewest of its launch, then the lowest. -/
def State.dispatchCore (s : State) (lid : Nat) : Option Nat :=
  let l := s.launch lid
  leastBy (fun c => s.launchLoad lid c) ((s.part l.part).coreList.filter (fun c => s.canTake c l))

/-- Workgroups created one after another, or none. -/
def State.createAll (s : State) (lid : Nat) : List Nat → Option State
  | [] => some s
  | lin :: r =>
    match s.dispatchCore lid with
    | none => none
    | some c => State.createAll (s.pushReady c (.workgroup lid lin) (s.launch lid).prio) lid r

/-- Workgroups of a launch have been created: with the last it is RUNNING, and it leaves the launch queue (12 R223; 13 R252). -/
def State.created (s : State) (lid n : Nat) : State :=
  let l := s.launch lid
  let last := decide (l.next + n ≥ l.total)
  let s := s.setLaunch lid { l with next := l.next + n, state := if last then .running else .dispatching }
  if last then s.modPart l.part (fun p => { p with queue := p.queue.filter (fun i => i != lid) }) else s

/-- The next workgroup of a dispatching launch created, with those that are placed together with it. -/
def State.createNext (s : State) (lid : Nat) : Option State :=
  let ws := (s.launch lid).unit (s.launch lid).next
  (s.createAll lid ws).map (fun t => t.created lid ws.length)

/-- The workgroups rotated out of the launches of a context, oldest first (14 R271). -/
def State.rotatedOf (s : State) (f : Nat) : List SavedWg :=
  (s.func f).ctx.saved.filter (fun (v : SavedWg) => (s.launch v.wg.lid).rotated.contains v.key)

/-- A workgroup rotated out restored with its SPAN run, once all of that is saved (14 R271; 02 R43). -/
def State.restoreNext (s : State) (p f : Nat) (v : SavedWg) : Option State :=
  let mates := s.runOf v.key
  if mates.any (fun j => (s.wg j).live) then none
  else
    let ks := (s.launch v.wg.lid).rotated.filter (fun j => mates.contains j)
    (s.restoreAll p f ks).map (fun s => s.modLaunch v.wg.lid (fun l => { l with rotated := l.rotated.filter (fun j => !ks.contains j) }))

/-- A launch served by the dispatcher: its next workgroup, or SPAN run, is created. -/
def State.serve (s : State) (lid : Nat) : Option State := if (s.launch lid).state = .dispatching then s.createNext lid else none

/-- With no workgroup of the context resident, one rotated out that no core can take is reported (14 R268). -/
def State.placeRotated (s : State) (p f : Nat) : Option State :=
  if s.funcWgs f = [] then ((s.rotatedOf f).find? (fun v => !v.wg.placeReported)).map (fun v => s.placeFails p f v) else none

/-- A launch is served before another (13 R257). -/
def State.servedBefore (s : State) (a b : Nat) : Bool :=
  let x := s.launch a
  let y := s.launch b
  decide (x.prio > y.prio) || (x.prio == y.prio && decide (x.order < y.order))
def State.insertLaunch (s : State) (a : Nat) : List Nat → List Nat
  | [] => [a]
  | x :: r => if s.servedBefore a x then a :: x :: r else x :: State.insertLaunch s a r

/-- The launches of a context that wait to be dispatched, in order of service (13 R257). -/
def State.serviceOrder (s : State) (p f : Nat) : List Nat :=
  ((s.part p).queue.filter (fun i => (s.launch i).live && (s.launch i).func == f)).foldl (fun l i => s.insertLaunch i l) []

/-- The first of some launches whose next workgroup fits, served. -/
def State.serveFirst (s : State) (ls : List Nat) : Option State := ls.findSome? (fun i => s.serve i)

/-- The launch became dispatchable before a workgroup was rotated out: its workgroups that wait are older (14 R271). -/
def State.olderThan (s : State) (v : SavedWg) (lid : Nat) : Bool := decide ((s.launch lid).order < v.stamp)

/-- Older workgroups of a context than a rotated one are created and not yet admitted. -/
def State.olderQueued (s : State) (f : Nat) (v : SavedWg) : Bool :=
  s.cores.any (fun (_, k) => k.ready.any (fun t => match t.task with
    | .workgroup i _ => (s.launch i).live && (s.launch i).func == f && s.olderThan v i
    | .spawned _ _ => false))

/-- The oldest waiting workgroup made resident, where one was rotated out and `v` is the first of them: older ones that wait come before
it, and younger ones after it, so that each gets the room that slices free (02 R41; 14 R271). -/
def State.oldestFirst (s : State) (p f : Nat) (v : SavedWg) (ls : List Nat) : Option State :=
  let older := ls.filter (fun i => s.olderThan v i)
  (s.serveFirst older).orElse fun _ =>
    if older.any (fun i => (s.launch i).uncreated) || s.olderQueued f v then none else s.restoreNext p f v

/-- With none of a context resident, any waiting workgroup that fits is made resident. -/
def State.anyFirst (s : State) (p f : Nat) (ls : List Nat) : Option State :=
  if s.funcWgs f = [] then
    ((s.rotatedOf f).findSome? (fun v => s.restoreNext p f v)).orElse fun _ => (s.serveFirst ls).orElse fun _ => s.placeRotated p f
  else none

/-- The dispatcher serves the launches of the resident context in order of service; while a workgroup waits that was rotated out, it
makes the oldest waiting workgroup resident (DEDUCED, log 101). -/
def State.dispatch (s : State) (p : Nat) : Option State :=
  match (s.part p).turn with
  | none => none
  | some f =>
    if (s.func f).ctx.request.isSome ∨ (s.func f).ctx.asked then none
    else
      let ls := s.serviceOrder p f
      match s.rotatedOf f with
      | [] => s.serveFirst ls
      | v :: _ => (s.oldestFirst p f v ls).orElse fun _ => s.anyFirst p f ls

/-- DISPATCH_WORKGROUP. -/
def execDispatchWorkgroup (part : Nat) (s : State) : Out := .next ((s.dispatch part).getD s)

/-! ### Kills (14 R266) -/

/-- Everything of a launch that is resident or saved is discarded; no counter of its parts is decremented. -/
def State.discardLaunch (s : State) (lid : Nat) : State :=
  let l := s.launch lid
  let ks := (s.wgs.filter (fun (_, g) => g.live && g.lid == lid)).map Prod.fst
  let s := ks.foldl (fun s k => s.leaveCore k) s
  let mine (j : Nat) : Bool := j / 2 ^ 32 == lid
  let s := s.modPart l.part (fun p => { p with waitingTasks := p.waitingTasks.filter (fun t => !mine t.wg) })
  let s := s.modFunc l.func (fun f => { f with ctx := { f.ctx with saved := f.ctx.saved.filter (fun v => v.wg.lid != lid) } })
  s.coreNums.foldl (fun s c => s.modCore c (fun k => { k with ready := k.ready.filter (fun t => match t.task with
    | .workgroup i _ => i != lid
    | .spawned _ _ => true) })) s

/-- The engine commands of a function are discarded. -/
def Core.dropFunc (k : Core) (f : Nat) : Core :=
  { k with
    copies := k.copies.filter (fun x => x.by_.func != f)
    kvs := k.kvs.filter (fun x => x.by_.func != f)
    scheds := k.scheds.map (fun ((i, x) : Nat × Scheduler) => (i, { x with sweeps := x.sweeps.filter (fun y => y.by_.func != f) })) }

/-- A collective is lost to its other members; one that has not started takes its sequence number first (17 R318). -/
def State.tellLoss (s : State) (p : Nat) (c : Collective) : State :=
  if c.state = .queued then
    match s.groupEntry p (collGroup c.desc) with
    | none => s
    | some e =>
      let (s, q) := s.takeSeq c e
      s.send (.lostFlit p (collGroup c.desc) q c.slice)
  else if c.closes then s
  else s.send (.lostFlit p (collGroup c.desc) c.seq c.slice)

/-- The collectives of a killed context are over at this member, and the others see its loss (14 R266; 17 R318). -/
def State.dropColls (s : State) (p f : Nat) : State :=
  let mine (s : State) : List Collective := (s.part p).colls.filter (fun c => c.by_.func == f)
  let s := (List.range (mine s).length).foldl (fun s k => match (mine s)[k]? with
    | some c => s.tellLoss p c
    | none => s) s
  let s := s.modPart p (fun x => { x with colls := x.colls.filter (fun c => c.by_.func != f) })
  { s with launches := s.launches.map (fun ((i, l) : Nat × Launch) => (i, if l.func = f then { l with coll := none } else l)) }

/-- Every walk of a killed context completes with KILLED (12 R236, R237). -/
def State.killWalks (s : State) (f : Nat) : State :=
  let t := (s.funcWgs f).foldl (fun t k => t.endWalks (t.wg k).core k (s.inFunc f) (fun _ => 0x18)) s
  (s.func f).ctx.saved.foldl (fun t v => t.endSavedWalks v (s.inFunc f) 0x18) t

/-- The context is killed: its walks and launches complete with KILLED, each launch with a record; without a launch there is one
record of the context. -/
def State.killContext (s : State) (f : Nat) : State :=
  let p := (s.func f).part
  let s := s.killWalks f
  let s := s.dropColls p f
  let lids := (s.launches.filter (fun (_, l) => l.open_ && l.func == f)).map Prod.fst
  let s := lids.foldl (fun s i => ((s.discardLaunch i).report { s.launchRecord i 0x18 0 with va := 0 }).endLaunch i 0x18) s
  let s := if lids = [] then s.report { cause := 0x18, agent := 8, part := p, func := f } else s
  let s := s.coreNums.foldl (fun s c => s.modCore c (fun k => k.dropFunc f)) s
  let s := if s.residentNow p f then (s.charge f).modPart p (fun x => { x with turn := none }) else s
  s.modFunc f (fun x => { x with digests := [], ctx := { x.ctx with diverged := false, request := none, asked := false, saved := [] } })

/-- KILL' has passed for a workgroup whose save has not ended. -/
def State.killOver (s : State) (k : Nat) : Bool :=
  match (s.wg k).request with
  | some t => decide (t + usec (max (s.wg k).timers.kill (s.wg k).timers.grace) ≤ s.wall)
  | none => false

/-- KILL_EXPIRY: a context with a workgroup whose request is KILL old, or GRACE where that is longer, is killed. -/
def execKillExpiry (part : Nat) (s : State) : Out :=
  match (s.partWgs part).find? (fun k => s.killOver k) with
  | some k => .next (s.killContext (s.wgFunc (s.wg k)))
  | none => .next s

/-- CONTEXT_KILL by the driver. -/
def execContextKill (func : Nat) (s : State) : Out := if s.hasContext func then .next (s.killContext func) else .next s

/-- CONTEXT_RESUME: a context held after DIVERGE takes its turns again (17 R324). -/
def execContextResume (func : Nat) (s : State) : Out :=
  .next (s.modFunc func (fun x => { x with ctx := { x.ctx with diverged := false } }))

/-! ### Frozen warps (14 R273; 10 R206, R210) -/

/-- A command of a warp, held by a protection violation; a KVSEAL may stand in another core's engine. -/
def heldBy (core : Nat) (s : State) (slot : Nat) (b : Issued) (st : CmdState) : Bool :=
  st == .held && b.slot == slot && b.wg == (s.warp core slot).wg && b.warpNum == (s.warp core slot).num

/-- Held commands of a warp go on where they stand (DEDUCED, log 73). -/
def State.retryHeld (s : State) (core slot : Nat) : State :=
  let t := s.coreNums.foldl (fun s' j => s'.modCore j (fun k => { k with
    kvs := k.kvs.map (fun (c : KvCmd) => if heldBy core s slot c.by_ c.state then { c with state := .queued } else c) })) s
  t.modCore core (fun k => { k with
    copies := k.copies.map (fun (c : CopyCmd) => if heldBy core s slot c.by_ c.state then { c with state := .queued } else c)
    scheds := k.scheds.map (fun ((i, x) : Nat × Scheduler) =>
      (i, { x with sweeps := x.sweeps.map (fun (c : SweepCmd) => if heldBy core s slot c.by_ c.state then { c with state := .queued } else c) })) })

/-- Held commands of a warp are abandoned with PROTECT. -/
def State.skipHeld (s : State) (core slot : Nat) : State :=
  let mine (b : Issued) (st : CmdState) : Bool := heldBy core s slot b st
  let k := s.core core
  let s1 := (k.copies.filter (fun c => mine c.by_ c.state)).foldl (fun t c => t.endCopy core c 9) s
  let s2 := s.coreNums.foldl (fun t j => ((s.core j).kvs.filter (fun c => mine c.by_ c.state)).foldl (fun t c => t.endKv j c 9) t) s1
  k.scheds.foldl (fun t ((i, x) : Nat × Scheduler) => (x.sweeps.filter (fun c => mine c.by_ c.state)).foldl (fun t c => t.endSweep core i c 9) t) s2

/-- A frozen warp is what it otherwise was; one frozen while ISSUING is READY, since its scheduler has gone on (DESIGN CHOICE, log 114). -/
def State.thaw (s : State) (core slot : Nat) : State :=
  let w := s.warp core slot
  match w.state with
  | .frozen b =>
    if w.holdsPlace then
      s.setWarp core slot { w with
        heldCommand := .none
        state := match b with
          | .ready => .ready
          | .parked p => .parked p
          | .dormant => .dormant
        sched := w.sched.reset s.now }
    else
      let s := s.setWarp core slot { w with state := .swapped b, heldCommand := .none }
      if b = .ready then s.markWakeable core slot else s
  | _ => s

def Warp.isFrozen (w : Warp) : Bool :=
  match w.state with
  | .frozen _ => true
  | _ => false

/-- WARP_RELEASE_RETRY: the word issues again, or the held command goes on. -/
def execWarpReleaseRetry (core slot : Nat) (s : State) : Out :=
  if (s.warp core slot).isFrozen then .next ((s.retryHeld core slot).thaw core slot) else .next s

/-- WARP_RELEASE_SKIP: the warp goes on at its next word, or the held command is abandoned. -/
def execWarpReleaseSkip (core slot : Nat) (s : State) : Out :=
  let w := s.warp core slot
  if w.isFrozen then
    let s := s.skipHeld core slot
    let s := if w.heldCommand = .none then
        s.modWarp core slot (fun w => match w.frontier with
          | e :: _ => w.advance s.now e
          | [] => w)
      else s
    .next (s.thaw core slot)
  else .next s

end Sys2Proof.Machine
end

