-- ==== Sys2Proof/Machine/Digest.lean ====
section
/-! DEFINITION. Digest regions (17 R319-R326): the digest instructions and the build of a digest. Upkeep is part of every
write of a line (Machine/Mem.lean). -/
namespace Sys2Proof.Machine

def noSlot : DigestSlot := {}
def State.digest (s : State) (f k : Nat) : DigestSlot := get noSlot (s.func f).digests k
def State.setDigest (s : State) (f k : Nat) (d : DigestSlot) : State :=
  s.modFunc f (fun x => { x with digests := put noSlot x.digests k d })

/-- The slot declares a region. -/
def DigestSlot.declared (d : DigestSlot) : Bool := d.state == .building || d.state == .ready

/-- Two ranges share an address. -/
def rangesMeet (a n b m : Nat) : Bool := decide (a < b + m) && decide (b < a + n)

/-- Base and length of a region are those of R320. -/
def regionOk (base len : Nat) : Bool :=
  decide (base % 65536 = 0) && decide (len % 65536 = 0) && decide (65536 ≤ len) && decide (len ≤ 2 ^ 36)

/-- The slot after a DREG (R326). -/
def State.declare (s : State) (f k base len : Nat) : DigestSlot :=
  let d := s.digest f k
  if d.state ≠ .free then { d with lastErr := 5 }
  else if !regionOk base len then { state := .failed, base := base, len := len, lastErr := 1 }
  else if (s.func f).digests.any (fun (j, x) => j != k && x.declared && rangesMeet base len x.base x.len) then
    { state := .failed, base := base, len := len, lastErr := 2 }
  else { state := .building, base := base, len := len }

def execDreg (h : Hdr) (k : BitVec 6) (a b : Operand) (s : State) : Out :=
  issueWord (.dreg h k a b) (fun c s =>
    if c.act = 0 then .done s []
    else .done (s.setDigest c.func k.toNat (s.declare c.func k.toNat (src64 c a 0).toNat (src64 c b 0).toNat)) []) s

/-- DUNREG returns the slot to FREE and clears LASTERR. -/
def execDunreg (h : Hdr) (k : BitVec 6) (s : State) : Out :=
  issueWord (.dunreg h k) (fun c s => if c.act = 0 then .done s [] else .done (s.setDigest c.func k.toNat noSlot) []) s

def DgState.code : DgState → Nat
  | .free => 0 | .building => 1 | .ready => 2 | .failed => 3

/-- What DGRD reads (R325, R326). -/
def DigestSlot.read (d : DigestSlot) : DgSel → Word
  | .status => BitVec.ofNat 64 (d.lastErr * 2 ^ 32 + d.state.code)
  | .laneA => if d.state = .ready then d.laneA else 0
  | .laneB => if d.state = .ready then d.laneB else 0

def execDgrd (h : Hdr) (k : BitVec 6) (sel : DgSel) (d : Operand) (s : State) : Out :=
  issueWord (.dgrd h k sel d) (fun c s => fly c s (dstWrite c d (fun _ => (s.digest c.func k.toNat).read sel))) s

/-! ### The build (R320) -/

/-- What the translation of a region comes to. -/
inductive Build where
  | pieces (ps : List (Nat × Nat × Nat))
  | pause (flags va : Nat)
  | fail (err va : Nat)
deriving DecidableEq, Repr

/-- The physical pieces of a region, 64 KiB after 64 KiB. -/
def State.buildPieces (s : State) (p f : Nat) : Nat → Nat → Build
  | 0, _ => .pieces []
  | n + 1, va =>
    match s.translateIn p f va {} with
    | .page fl at_ => .pause fl at_
    | .protect => .fail 4 va
    | .ok pg =>
      if pg.tier = 2 then .fail 3 va
      else
        match State.buildPieces s p f n (va + 65536) with
        | .pieces ps => .pieces ((pg.place + (va - pg.va), 65536, va) :: ps)
        | x => x

/-- Both lanes over the lines of a piece. -/
def State.pieceSum (s : State) (p : Nat) (piece : Nat × Nat × Nat) : Word × Word :=
  let (k, n, va) := piece
  (List.range (n / 64)).foldl (fun (acc : Word × Word) i =>
    let pg := s.pageOfPlace (k + 64 * i)
    let line := s.lineBytes p pg (k + 64 * i - pg.place)
    (acc.1 + crcA (va + 64 * i) line, acc.2 + crcB (va + 64 * i) line)) (0, 0)

/-- Pieces share physical lines with each other or with another slot's region. -/
def piecesMeet : List (Nat × Nat × Nat) → List (Nat × Nat × Nat) → Bool
  | [], _ => false
  | (k, n, _) :: r, others => (r ++ others).any (fun (j, m, _) => rangesMeet k n j m) || piecesMeet r others

/-- DIGEST_BUILD_END: the region is translated and summed; it becomes READY, or FAILED, or waits for a REPLAY. -/
def execDigestBuildEnd (func slot : Nat) (s : State) : Out :=
  let d := s.digest func slot
  let p := (s.func func).part
  if d.state ≠ .building ∨ d.pause.isSome then .next s
  else
    match s.buildPieces p func (d.len / 65536) d.base with
    | .pause fl va =>
      .next ((s.reportPage { cause := 8, flags := fl, agent := 7, part := p, func := func, va := va }).setDigest func slot { d with pause := some va })
    | .fail err va =>
      let s := if err = 4 then s.report { cause := 9, agent := 7, part := p, func := func, va := va } else s
      .next (s.setDigest func slot { d with state := .failed, lastErr := err })
    | .pieces ps =>
      let others := ((s.func func).digests.filter (fun (j, x) => j != slot && x.state == .ready)).flatMap (fun (_, x) => x.pages)
      if piecesMeet ps others then .next (s.setDigest func slot { d with state := .failed, lastErr := 2 })
      else
        let (a, b) := ps.foldl (fun (acc : Word × Word) x =>
          let (u, v) := s.pieceSum p x
          (acc.1 + u, acc.2 + v)) (0, 0)
        .next (s.setDigest func slot { d with state := .ready, laneA := a, laneB := b, pages := ps })

/-! ### Event counters (18 R327, R328) -/

/-- A configuration word with a reserved EVENT or a reserved bit. -/
def pmBad (x : Word) : Bool := decide (x.toNat ≥ 2 ^ 9) || decide (bits x 0 8 > 0x0B)

/-- PMCFG: the counter is configured and cleared (18 R328; DEDUCED, log 86). -/
def execPmcfg (h : Hdr) (k : BitVec 2) (a : Operand) (s : State) : Out :=
  issueWord (.pmcfg h k a) (fun c s =>
    let x := src64 c a 0
    if c.act = 0 then .done s []
    else if pmBad x then .stop s 1 0
    else .done (s.modIssuer c.who (fun w => { w with events := put noEvent w.events k.toNat { en := x.getLsbD 8, event := bits x 0 8, count := 0 } })) []) s

/-- PMRD reads the count of every earlier word and cycle (R329). -/
def execPmrd (h : Hdr) (k : BitVec 2) (d : Operand) (s : State) : Out :=
  issueWord (.pmrd h k d) (fun c s =>
    .done (s.modIssuer c.who (fun w => writeDst c w d (fun _ => (get noEvent w.events k.toNat).count))) []) s

end Sys2Proof.Machine
end

