-- ==== Sys2Proof/Machine/Collect.lean ====
section
/-! DEFINITION. Collectives (17 R308-R318, R322-R324): COLL, the checks at the start, the ring and the switch, completion, loss
and votes. An event whose condition does not hold leaves the state. -/
namespace Sys2Proof.Machine

/-! ### COLL (R310) -/

def collBody (i : Instr) (a : Operand) (c : Ctx) (s : State) : Res :=
  let at_ := src64 c a 0
  if c.act = 0 then .done s []
  else if at_.toNat % 64 ≠ 0 then .trap s 7 c.act at_
  else if s.roomFull c.core c.slot .coll then .wait s (.room .coll)
  else
    match loadRecord c s (encode i) false at_.toNat 64 with
    | .error r => r
    | .ok (s2, d) => .done (s2.accepted.modPart c.part (fun p => { p with colls := p.colls ++ [{ by_ := issuedBy c s2 i, core := 0xFFFF, desc := d }] })) []

def execColl (h : Hdr) (a : Operand) (s : State) : Out := issueWord (.coll h a) (collBody (.coll h a) a) s

/-! ### Elements -/

/-- Units that the collective as a whole cuts: elements, or for t8 lines of 64 (R312). -/
def collUnits (d : List Byte) : Nat := if collT8 d then collCount d / 64 else collCount d
/-- First unit and number of units of this collective: a slice's, or all (R315). -/
def Collective.range (c : Collective) : Nat × Nat :=
  let n := collUnits c.desc
  match c.slice with
  | none => (0, n)
  | some w => if c.nwg = 0 then (0, 0) else (w * n / c.nwg, (w + 1) * n / c.nwg - w * n / c.nwg)
/-- First unit and number of units of chunk k of N. -/
def Collective.chunk (c : Collective) (k : Nat) : Nat × Nat :=
  let (_, n) := c.range
  let m := entrySize c.entry
  (k * n / m, (k + 1) * n / m - k * n / m)

/-- Bytes of SRC (and RES) per unit, and of DST. -/
def unitSrc (d : List Byte) : Nat := if collT8 d then 256 else collElem d
def unitDst (d : List Byte) : Nat := if collT8 d then 64 else collElem d

def collLen : CollData → Nat
  | .f32 xs => xs.length
  | .bf16 xs => xs.length
  | .t8 xs => xs.length
def collSlice (lo n : Nat) : CollData → CollData
  | .f32 xs => .f32 ((xs.drop lo).take n)
  | .bf16 xs => .bf16 ((xs.drop lo).take n)
  | .t8 xs => .t8 ((xs.drop lo).take n)
def collAppend : CollData → CollData → CollData
  | .f32 xs, .f32 ys => .f32 (xs ++ ys)
  | .bf16 xs, .bf16 ys => .bf16 (xs ++ ys)
  | .t8 xs, .t8 ys => .t8 (xs ++ ys)
  | x, _ => x
/-- The data is of the collective's type. -/
def collIsType : CollData → Nat → Bool
  | .f32 _, t => t == 0
  | .bf16 _, t => t == 1
  | .t8 _, t => t == 2
/-- The bytes as DST receives them. -/
def collBytes : CollData → List Byte
  | .f32 xs => xs.flatMap (fun x => bytesLE 4 x.toNat)
  | .bf16 xs => xs.flatMap (fun x => bytesLE 2 x.toNat)
  | .t8 xs => xs.flatMap Prod.snd

/-- Two FP elements combined in a format (R312). -/
def combineFp (f : Fmt) (op x y : Nat) : Nat :=
  match op with
  | 0 => (fpAdd f .rn false (unpack f x) (unpack f y)).1
  | 1 => (fpMinMax f false true (unpack f x) (unpack f y)).1
  | _ => (fpMinMax f false false (unpack f x) (unpack f y)).1

/-- The values of a coded line; one with a reserved FMT or a bad mask counts as a line of no elements (DESIGN CHOICE, log 109). -/
def lineValues (h : BitVec 16) (bs : List Byte) : List FVal := (engineLine h.toNat bs).elim [] (fun r => r.map (fun x => x.getD plusZero))

/-- Two coded lines combined: element-wise to FP32, then quantised (R312). -/
def combineT8 (x y : BitVec 16 × List Byte) : BitVec 16 × List Byte :=
  let (h, bs) := quantised false (((lineValues x.1 x.2).zip (lineValues y.1 y.2)).map (fun (u, v) => (fpAdd fmtF32 .rn false u v).1))
  (BitVec.ofNat 16 h, bs)

/-- Combine(P, y), element by element. -/
def collCombine (op : Nat) : CollData → CollData → CollData
  | .f32 xs, .f32 ys => .f32 ((xs.zip ys).map (fun (x, y) => BitVec.ofNat 32 (combineFp fmtF32 op x.toNat y.toNat)))
  | .bf16 xs, .bf16 ys => .bf16 ((xs.zip ys).map (fun (x, y) => BitVec.ofNat 16 (combineFp fmtBF16 op x.toNat y.toNat)))
  | .t8 xs, .t8 ys => .t8 ((xs.zip ys).map (fun (x, y) => combineT8 x y))
  | x, _ => x

/-! ### Reading the contribution (R313, R316; 05 R96) -/

/-- Bytes read piece after piece. -/
def collLoad (b : Issued) : List (Nat × Nat) → State → Except EngFault (State × List Byte)
  | [], s => .ok (s, [])
  | (a, n) :: r, s =>
    match s.engLoad 0xFFFF 4 b a n with
    | .error f => .error f
    | .ok (s, bs, _) =>
      match collLoad b r s with
      | .error f => .error f
      | .ok (s, more) => .ok (s, bs ++ more)

/-- Bytes written piece after piece; the headers, where given, are those of the pieces' lines. -/
def collStore (b : Issued) (data : List Byte) (hdr : Option (List Nat)) : Nat → List (Nat × Nat) → State → Except EngFault State
  | _, [], s => .ok s
  | off, (a, n) :: r, s =>
    match s.engStore 0xFFFF 4 b a ((data.drop off).take n) with
    | .error f => .error f
    | .ok (s, ps) =>
      let s := match hdr, ps with
        | some hs, (pg, o) :: _ => if s.linkDown b.part pg then s else s.setHeader b.part pg (o / 64 * 64) (hs.getD (off / 64) 0)
        | _, _ => s
      collStore b data hdr (off + n) r s

/-- Lines of 64 elements quantised with their residuals: the coded lines and the new residuals. -/
def codeLines (xs rs : List Nat) (n : Nat) : List (BitVec 16 × List Byte) × List Byte :=
  (List.range n).foldl (fun (acc : List (BitVec 16 × List Byte) × List Byte) i =>
    let (sc, codes, news) := residualLine 8 ((xs.drop (64 * i)).take 64) ((rs.drop (64 * i)).take 64)
    let h := (BitVec.ofInt 8 sc).toNat * 256 + 1
    (acc.1 ++ [(BitVec.ofNat 16 h, encodeDense .t8 codes)], acc.2 ++ news.flatMap (fun r => bytesLE 4 r))) ([], [])

/-- SRC read, and for t8 RES: the contribution and the new residuals. -/
def Collective.readMine (c : Collective) (s : State) : Except EngFault (State × CollData × List Byte) :=
  let (lo, n) := c.range
  let u := unitSrc c.desc
  match collLoad c.by_ (pieces (collSrc c.desc + lo * u) (n * u)) s with
  | .error f => .error f
  | .ok (s, bs) =>
    match collType c.desc with
    | 0 => .ok (s, .f32 ((f32s bs).map (fun x => BitVec.ofNat 32 x)), [])
    | 1 => .ok (s, .bf16 ((List.range n).map (fun i => BitVec.ofNat 16 (numLE ((bs.drop (2 * i)).take 2)))), [])
    | _ =>
      match collLoad c.by_ (pieces (collRes c.desc + lo * 256) (n * 256)) s with
      | .error f => .error f
      | .ok (s, rs) =>
        let (lines, news) := codeLines (f32s bs) (f32s rs) n
        .ok (s, .t8 lines, news)

/-! ### The start (R311, R314, R317) -/

/-- RES meets a declared digest region of the function. -/
def State.resDeclared (s : State) (c : Collective) : Bool :=
  let d := c.desc
  collRes d != 0 && (s.func c.by_.func).digests.any (fun (_, x) => x.declared &&
    (rangesMeet (collRes d) (4 * collCount d) x.base x.len ||
      (pieces (collRes d) (4 * collCount d)).any (fun (a, n) => match s.translateIn c.by_.part c.by_.func a {} with
        | .ok pg => x.pages.any (fun (k, m, _) => rangesMeet (pg.place + (a - pg.va)) n k m)
        | _ => false)))

/-- LOST set in the group's entry. -/
def State.markLost (s : State) (p g : Nat) : State :=
  match s.groupEntry p g with
  | none => s
  | some e =>
    if (s.part p).cgtbase.getLsbD 0 then s.hbmStore p (s.groupAddr p g) [BitVec.ofNat 8 (Nat.lor (entryFlags e) 2)] else s

/-- The entry names a port that the manifest in force has not enabled (01 R12). -/
def State.portMissing (s : State) (e : List Byte) : Bool :=
  let ports := BitVec.ofNat 128 (field e 16 16)
  entryFlags e % 2 == 1 && decide (entrySize e > 1) &&
    (if entryFlags e / 4 % 2 = 1 then (ports.setWidth 4) &&& ~~~s.booted.eth != 0 else ports &&& ~~~s.booted.links != 0)

/-- The entry as the start finds it: a port that is not enabled is a port that is down, which loses a member (R318; DESIGN CHOICE,
log 121). -/
def State.startEntry (s : State) (e : List Byte) : List Byte :=
  if s.portMissing e then BitVec.ofNat 8 (Nat.lor (entryFlags e) 2) :: e.drop 1 else e

/-- The checks of R311, in order: the status of the first that fails. -/
def State.collBad (s : State) (c : Collective) (e : List Byte) : Nat :=
  let d := c.desc
  let fl := collFlags d
  let en := (s.part c.by_.part).cgtbase.getLsbD 0
  if c.status ≠ 0 then c.status
  else if (d.drop 48).any (fun b => b != 0) || field d 12 4 != 0 || decide (fl ≥ 64) || decide (collOp d > 2) || decide (collType d > 2) ||
      decide (field d 3 1 > 1) || decide (fl / 8 % 8 > 6) || !en || entryFlags e % 2 == 0 ||
      decide (collSrc d % collElem d ≠ 0) || (collT8 d && decide (collDst d % 64 ≠ 0)) then 1
  else if (collT8 d && (collOp d != 0 || collRes d == 0 || collCount d % 64 != 0)) || (!collT8 d && collRes d != 0) || s.resDeclared c then 1
  else if (collVote d && (fl / 2 % 2 == 0 || fl / 4 % 2 == 0 || fl / 8 % 8 != 6)) ||
      (collPush d && (entryPush e == 0 || entryFlags e / 4 % 2 == 1)) then 1
  else if entryFlags (s.startEntry e) / 2 % 2 = 1 then 0x16
  else 0

def State.collAt (s : State) (p k : Nat) : Option Collective := (s.part p).colls[k]?
def State.setColl (s : State) (p k : Nat) (c : Collective) : State := s.modPart p (fun x => { x with colls := x.colls.set k c })

/-- What the member's messages show of its descriptor (R311). -/
def Collective.info (c : Collective) : CollInfo :=
  { op := collOp c.desc, ty := collType c.desc, method := field c.desc 3 1, count := collCount c.desc, vote := collVote c.desc, slices := c.nwg }
def Collective.hop (c : Collective) (p k : Nat) (ph : RingPhase) (d : CollData) : Sent := .hop p (collGroup c.desc) c.seq c.slice k ph d c.info

/-- Units of a line of a reducing store, and lines of a number of units. -/
def perLine (d : List Byte) : Nat := if collT8 d then 1 else 64 / collElem d
def linesOf (d : List Byte) (n : Nat) : Nat := (n + perLine d - 1) / perLine d
/-- Lines of the slices before this one (DEDUCED, log 37). -/
def Collective.lineBase (c : Collective) : Nat :=
  match c.slice with
  | none => 0
  | some w => (List.range w).foldl (fun n i => n + linesOf c.desc ({ c with slice := some i } : Collective).range.2) 0

/-- The header of a flit of a KIND: 1 REDST, 4 FAIL (R314). -/
def Collective.flit (c : Collective) (kind line : Nat) : BitVec 128 :=
  BitVec.ofNat 128 (kind * 2 ^ 124 + entryRank c.entry % 2 ^ 12 * 2 ^ 112 + (entrySize c.entry - 1) * 2 ^ 100 + collOp c.desc % 4 * 2 ^ 98 +
    collType c.desc % 4 * 2 ^ 96 + entryPush c.entry * 2 ^ 64 + entryEpoch c.entry * 2 ^ 48 + c.seq % 2 ^ 16 * 2 ^ 32 + line % 2 ^ 32)

/-- A line's elements with zeros after the last, where the line is not whole (DEDUCED, log 37). -/
def collPad (n : Nat) : CollData → CollData
  | .f32 xs => .f32 (xs ++ List.replicate (n - xs.length) 0)
  | .bf16 xs => .bf16 (xs ++ List.replicate (n - xs.length) 0)
  | .t8 xs => .t8 xs

/-- A failed check signalled to the other members: by the ring, or by a flit to the switch that carries no line (R311, R314;
DEDUCED, log 37). -/
def Collective.fail (c : Collective) (p : Nat) : Sent :=
  if collPush c.desc then
    .redst (c.flit 4 c.lineBase) (match collType c.desc with
      | 0 => .f32 []
      | 1 => .bf16 []
      | _ => .t8 [])
  else .failFlit p (collGroup c.desc) c.seq c.slice

/-- What a member sends at its start: its chunk around the ring, or all its lines to the switch. -/
def Collective.firstSends (c : Collective) (p : Nat) : List Sent :=
  let (_, n) := c.range
  if collPush c.desc then
    (List.range (linesOf c.desc n)).map (fun i => .redst (c.flit 1 (c.lineBase + i)) (collPad (perLine c.desc) (collSlice (i * perLine c.desc) (perLine c.desc) c.mine)))
  else
    let m := entrySize c.entry
    let k := (entryRank c.entry + m - 1) % m
    let (lo, len) := c.chunk k
    [c.hop p k .reduce (collSlice lo len c.mine)]

/-- A started collective whose checks passed, with its contribution. -/
def State.launchColl (s : State) (p k : Nat) (c : Collective) : State :=
  let (_, n) := c.range
  let s := if c.slice.isSome then s.modLaunch c.by_.lid (fun l => if l.open_ then { l with collRun := true } else l) else s
  if n = 0 then
    let s := if entrySize c.entry > 1 ∧ (collCount c.desc = 0 ∨ c.nwg = 0) then s.send (.header p (collGroup c.desc) c.seq c.slice c.info) else s
    s.setColl p k { c with state := .finishing }
  else if entrySize c.entry = 1 then s.setColl p k { c with state := .finishing, results := [(0, some c.mine)] }
  else { (s.setColl p k { c with state := .running }) with out := s.out ++ c.firstSends p }

/-- Under a journal replay, collectives start in the recorded order (18 R337). -/
def State.collTurn (s : State) (c : Collective) (seq : Nat) : Bool :=
  if (s.func c.by_.func).jrnReplays then
    match s.jrnNext c.by_.func 4 with
    | some (_, e) => field e 16 8 == collGroup c.desc + seq % 2 ^ 32 * 2 ^ 32
    | none => true
  else true

/-- A collective that has not started waits for its recorded turn. -/
def State.awaitsTurn (s : State) (c : Collective) : Bool :=
  c.state == .queued && (match s.groupEntry c.by_.part (collGroup c.desc) with
    | some e => !s.collTurn c (s.takeSeq c e).2
    | none => false)

/-- The collective is the first of the partition's queue that has not started, but for those that wait for their recorded turn. -/
def State.firstQueued (s : State) (p k : Nat) : Bool :=
  ((s.part p).colls.take k).all (fun c => c.state != .queued || s.awaitsTurn c)

/-- The start is recorded, or its record taken (18 R336, R337) (DEDUCED, log 83). -/
def State.collJournal (s : State) (p : Nat) (c : Collective) : State :=
  let f := c.by_.func
  if (s.func f).jrnReplays then
    match s.jrnNext f 4 with
    | some (i, _) => s.jrnTake f 4 i
    | none => s
  else s.journal f 4 (c.by_.lid % 2 ^ 32) (collGroup c.desc + c.seq % 2 ^ 32 * 2 ^ 32) (((s.part p).colls.filter (fun x => x.state != .queued)).length)

/-- The status of a bound collective: the first error in ascending workgroup. -/
def firstError (errs : Sparse Nat) : Nat := ((errs.filter (fun (_, x) => x != 0)).map Prod.snd).headD 0

/-- Collective k leaves the queue. -/
def State.dropColl (s : State) (p k : Nat) : State := s.modPart p (fun x => { x with colls := x.colls.eraseIdx k })

/-- The collective has ended, and leaves the queue when its DONE is decremented (17 R305); a slice leaves at once, and DONE is
decremented after the last of them. -/
def State.endColl (s : State) (p k : Nat) (c : Collective) (status : Nat) : State :=
  let va := fieldW c.desc 40 8
  match c.slice with
  | none =>
    if va = 0 then s.dropColl p k
    else (s.setColl p k { c with state := .closing s.nextCmd, status := status, page := none }).closing { c.by_ with part := p } 0xFFFF 4 va status
  | some w =>
    let s := s.dropColl p k
    let l := s.launch c.by_.lid
    if !l.open_ then s
    else
      let errs := if status = 0 then l.sliceErr else put 0 l.sliceErr w status
      if l.slicesDone + 1 < c.nwg then s.setLaunch c.by_.lid { l with slicesDone := l.slicesDone + 1, sliceErr := errs }
      else
        (s.setLaunch c.by_.lid { l with slicesDone := 0, sliceErr := [], coll := none, collSeq := none, oldRes := [], collRun := false }).complete
          p c.by_.func 0xFFFF 4 c.by_.lid va (firstError errs) (.bound c.by_.serial)

/-- A collective that starts with a status takes its sequence number, tells the other members, and accesses nothing. -/
def State.startFailed (s : State) (part k : Nat) (c : Collective) (e : List Byte) (status : Nat) : State :=
  let (s, q) := s.takeSeq c e
  let c := { c with seq := q, entry := e, status := status, state := .finishing, progress := s.wall }
  ((s.setColl part k c).collJournal part c).send (c.fail part)

/-- COLLECTIVE_START. -/
def execCollectiveStart (part k : Nat) (s : State) : Out :=
  match s.collAt part k with
  | none => .next s
  | some c =>
    if c.state ≠ .queued ∨ c.page.isSome ∨ !s.firstQueued part k then .next s
    else
      match s.groupEntry part (collGroup c.desc) with
      | none =>
        -- the table lies outside the partition's memory, and the matrix forbids the read (15 R286)
        .next ((s.report { recordOf 0xFFFF 4 9 c.by_ with va := s.groupAddr part (collGroup c.desc), flags := 16 }).endColl part k c 9)
      | some e =>
        let bad := s.collBad c e
        if !s.collTurn c (s.takeSeq c e).2 then .next s
        else if bad ≠ 0 then
          .next ((if s.portMissing e then s.markLost part (collGroup c.desc) else s).startFailed part k c (s.startEntry e) bad)
        else
          match ({ c with entry := e } : Collective).readMine s with
          | .ok (s, mine, res) =>
            let (s, q) := s.takeSeq c e
            let c := { c with seq := q, entry := e, mine := mine, residuals := res, progress := s.wall }
            .next ((s.launchColl part k c).collJournal part c)
          | .error (.fault cause fl va) =>
            if cause = 9 then
              .next ((s.reportProtect { recordOf 0xFFFF 4 9 c.by_ with va := va, flags := fl } (s.engOwner c.by_)).startFailed part k c e 9)
            else
              .next ((s.reportPage { recordOf 0xFFFF 4 cause c.by_ with va := faultPage va, flags := fl } (s.engOwner c.by_)).setColl part k { c with page := some (faultPage va) })

/-! ### The ring and the switch (R312-R314) -/

/-- A collective that another member's check, or this one's first exchange, has ended. -/
def State.failColl (s : State) (p k : Nat) (c : Collective) (status : Nat) : State := s.setColl p k { c with state := .finishing, status := status }

/-- A chunk's final value is known. -/
def Collective.got (c : Collective) (key : Nat) (d : CollData) (total wall : Nat) : Collective :=
  let r := put none c.results key (some d)
  { c with results := r, progress := wall, state := if r.length ≥ total then .finishing else c.state }

/-- RING_HOP: a chunk comes from the member before, to be reduced or gathered; a member whose descriptor differs ends the
collective (R311), one with COUNT 0 too, whose header comes so (R317). -/
def execRingHop (part k chunk : Nat) (phase : RingPhase) (msg : CollMsg) (s : State) : Out :=
  let data := msg.data
  match s.collAt part k with
  | none => .next s
  | some c =>
    let m := entrySize c.entry
    let me := entryRank c.entry
    let (lo, len) := c.chunk chunk
    if c.state ≠ .running then .next s
    else if msg.info ≠ c.info then .next ((s.failColl part k c 1).send (c.fail part))
    else if collPush c.desc ∨ chunk ≥ m ∨ c.hops.contains (phase, chunk) then .next s
    else if !collIsType data (collType c.desc) || collLen data != len then .next ((s.failColl part k c 1).send (c.fail part))
    else
      let c := { c with hops := c.hops ++ [(phase, chunk)], progress := s.wall }
      match phase with
      | .reduce =>
        if me = (chunk + 1) % m then .next s
        else
          let x := collCombine (collOp c.desc) data (collSlice lo len c.mine)
          if me = chunk then .next ((s.setColl part k (c.got chunk x m s.wall)).send (c.hop part chunk .gather x))
          else .next ((s.setColl part k c).send (c.hop part chunk .reduce x))
      | .gather =>
        if me = chunk then .next s
        else
          let s := s.setColl part k (c.got chunk data m s.wall)
          .next (if me = (chunk + m - 1) % m then s else s.send (c.hop part chunk .gather data))

/-- RESULT: a line that the switch has combined; a header that shows another descriptor ends the collective (R311). -/
def execResult (part k line : Nat) (msg : CollMsg) (s : State) : Out :=
  let data := msg.data
  match s.collAt part k with
  | none => .next s
  | some c =>
    let n := linesOf c.desc c.range.2
    let i := line - c.lineBase
    let len := min (perLine c.desc) (c.range.2 - i * perLine c.desc)
    if c.state ≠ .running then .next s
    else if msg.info ≠ c.info then .next ((s.failColl part k c 1).send (c.fail part))
    else if !collPush c.desc ∨ line < c.lineBase ∨ i ≥ n ∨ (get none c.results i).isSome then .next s
    else if !collIsType data (collType c.desc) || decide (collLen data < len) then .next ((s.failColl part k c 1).send (c.fail part))
    else .next (s.setColl part k (c.got i (collSlice 0 len data) n s.wall))

/-- FAIL: another member's check failed. -/
def execFail (part k : Nat) (s : State) : Out :=
  match s.collAt part k with
  | none => .next s
  | some c => if c.state = .running then .next (s.failColl part k c 1) else .next s

/-! ### Loss (R318) -/

/-- The collective is one that a lost member ends: it has started, and no other error has ended it. -/
def Collective.open_ (c : Collective) : Bool := c.state == .running || c.state == .voting || (c.state == .finishing && c.status == 0)

/-- The collective ends with MLOST; residuals written before a vote go back. -/
def State.loseColl (s : State) (p k : Nat) (c : Collective) : State :=
  let s := s.markLost p (collGroup c.desc)
  s.setColl p k { c with state := .finishing, status := 0x16, residuals := if c.state = .voting then c.residuals else [] }

/-- The collectives of a partition that are open and that `sel` selects end with MLOST. -/
def State.loseColls (s : State) (p : Nat) (sel : Nat → Collective → Bool) : State :=
  (List.range (s.part p).colls.length).foldl (fun s k =>
    match s.collAt p k with
    | none => s
    | some c => if c.open_ && sel k c then s.loseColl p k c else s) s

/-- Two collectives are slices of one launch's. -/
def Collective.sameBound (c x : Collective) : Bool := c.slice.isSome && x.slice.isSome && c.by_.lid == x.by_.lid

/-- A collective is lost, with every open slice of the same bound collective. -/
def State.loseWhole (s : State) (p k : Nat) (c : Collective) : State := s.loseColls p (fun j x => j == k || c.sameBound x)

/-- LOST from the switch. -/
def execLost (part k : Nat) (s : State) : Out :=
  match s.collAt part k with
  | none => .next s
  | some c => if c.open_ then .next (s.loseWhole part k c) else .next s

/-- MEMBER_LOST: a port of the group is down, or a member's context is killed. -/
def execMemberLost (part group : Nat) (s : State) : Out :=
  .next ((s.markLost part group).loseColls part (fun _ c => collGroup c.desc == group))

/-- COLLECTIVE_TIMEOUT: no progress for TIMEOUT. -/
def execCollectiveTimeout (part k : Nat) (s : State) : Out :=
  match s.collAt part k with
  | none => .next s
  | some c => if c.open_ ∧ c.progress + usec (entryTimeout c.entry) ≤ s.wall then .next (s.loseWhole part k c) else .next s

/-! ### Completion (R315-R317) -/

/-- The last slice of a bound collective, or a collective of its own. -/
def State.lastSlice (s : State) (c : Collective) : Bool :=
  match c.slice with
  | none => true
  | some _ => decide ((s.launch c.by_.lid).slicesDone + 1 ≥ c.nwg)
/-- No slice has failed. -/
def State.slicesOk (s : State) (c : Collective) : Bool :=
  match c.slice with
  | none => true
  | some _ => firstError (s.launch c.by_.lid).sliceErr == 0

/-- A vote is due: VOTE, something carried, more than one member. -/
def State.votes (s : State) (c : Collective) : Bool :=
  collVote c.desc && collCount c.desc != 0 && decide (entrySize c.entry > 1) && c.nwg != 0 && s.lastSlice c && s.slicesOk c

/-- An engine command or a collective of a function accepted before number n. -/
def Issued.before (b : Issued) (f n : Nat) : Bool := b.func == f && decide (b.serial < n)

/-- Some engine command that the function's context accepted before number n is not complete, its decrement included (R305; 11
R211). -/
def State.outstanding (s : State) (f n : Nat) : Bool :=
  s.cores.any (fun (_, k) => k.copies.any (fun x => x.by_.before f n) || k.kvs.any (fun x => x.by_.before f n) ||
    k.scheds.any (fun (_, x) => x.sweeps.any (fun y => y.by_.before f n)) ||
    k.walks.any (fun w => w.state != .done && s.wgFunc (s.wg w.wg) == f && decide (w.serial < n))) ||
  s.parts.any (fun (_, p) => p.colls.any (fun x => x.by_.before f n)) ||
  (s.func f).ctx.saved.any (fun (v : SavedWg) => v.copies.any (fun x => x.by_.before f n) || v.sweeps.any (fun (_, x) => x.by_.before f n) ||
    v.walks.any (fun w => w.state != .done && decide (w.serial < n))) ||
  s.decs.any (fun d => d.func == f && (match d.origin with
    | .walk _ (some k) | .bound k => decide (k < n)
    | _ => false))

/-- The vote may be taken: no slot BUILDING, and every engine command accepted before the collective complete (R322). -/
def State.voteReady (s : State) (c : Collective) : Bool :=
  !((s.func c.by_.func).digests.any (fun (_, d) => d.state == .building)) && !s.outstanding c.by_.func c.by_.serial

/-- A member's vote value (R322). -/
def State.voteValue (s : State) (f : Nat) : List VoteTriple :=
  ((s.func f).digests.filter (fun (_, d) => d.state == .ready)).map (fun (i, d) => { slot := i, laneA := d.laneA, laneB := d.laneB })

/-- The value that more than half of the members hold. -/
def majority (n : Nat) (votes : List (Nat × List VoteTriple)) : Option (List VoteTriple) :=
  (votes.map Prod.snd).find? (fun v => decide (2 * (votes.filter (fun (_, x) => x == v)).length > n))

/-- The lowest slot in which two values differ. -/
def differs (a b : List VoteTriple) : Nat :=
  ((List.range 64).find? (fun i => a.filter (fun t => t.slot == i) != b.filter (fun t => t.slot == i))).getD 0

/-- The context is held saved, halted where it is resident (R324; 14 R263). -/
def State.diverge (s : State) (p f : Nat) : State :=
  let s := s.modFunc f (fun x => { x with ctx := { x.ctx with diverged := true } })
  if s.residentNow p f then (s.haltContext f).endTurnOf p else s

/-- The outcome of a vote whose values are all there (R323, R324). -/
def State.tally (s : State) (p k : Nat) (c : Collective) : State :=
  let me := entryRank c.entry
  let mine := ((c.votes.find? (fun (r, _) => r == me)).map Prod.snd).getD []
  let rec_ (info : Nat) : FaultRec := { recordOf 0xFFFF 4 0x15 c.by_ with info := BitVec.ofNat 64 info }
  match majority (entrySize c.entry) c.votes with
  | some v =>
    if v = mine then
      let s := if c.votes.any (fun (_, x) => x != v) then s.report (rec_ 1) else s
      s.endColl p k c 0
    else (((s.diverge p c.by_.func).report (rec_ (differs mine v * 256))).endColl p k c 0x15)
  | none => (((s.diverge p c.by_.func).report (rec_ (0xFF * 256 + 2))).endColl p k c 0x15)

def State.decideIfAll (s : State) (p k : Nat) : State :=
  match s.collAt p k with
  | some c => if c.state = .voting ∧ c.votes.length ≥ entrySize c.entry then s.tally p k c else s
  | none => s

/-- VOTE_VALUE: another member's value; the last one decides. -/
def execVoteValue (part k rank : Nat) (value : List VoteTriple) (s : State) : Out :=
  match s.collAt part k with
  | none => .next s
  | some c =>
    if c.state = .queued ∨ c.closes ∨ c.status ≠ 0 ∨ rank ≥ entrySize c.entry ∨ rank = entryRank c.entry ∨ c.votes.any (fun (r, _) => r == rank) then .next s
    else .next ((s.setColl part k { c with votes := c.votes ++ [(rank, value)], progress := s.wall }).decideIfAll part k)

/-- The whole result, in order. -/
def Collective.result (c : Collective) : CollData :=
  c.results.foldl (fun acc (_, d) => match d with
    | some x => collAppend acc x
    | none => acc) (match collType c.desc with
    | 0 => .f32 []
    | 1 => .bf16 []
    | _ => .t8 [])

/-- Headers of a result's lines. -/
def collHeaders : CollData → Option (List Nat)
  | .t8 xs => some (xs.map (fun (h, _) => h.toNat))
  | _ => none

/-- DST written. -/
def Collective.writeDst (c : Collective) (s : State) (data : List Byte) (hdr : Option (List Nat)) : Except EngFault State :=
  let (lo, n) := c.range
  let u := unitDst c.desc
  collStore c.by_ data hdr 0 (pieces (collDst c.desc + lo * u) (n * u)) s

/-- RES written with the residuals held. -/
def Collective.writeRes (c : Collective) (s : State) : Except EngFault State :=
  if collT8 c.desc ∧ c.residuals ≠ [] then
    let (lo, n) := c.range
    collStore c.by_ c.residuals none 0 (pieces (collRes c.desc + lo * 256) (n * 256)) s
  else .ok s

/-- The collective as a whole, all slices of a bound one. -/
def Collective.whole (c : Collective) : Collective := { c with slice := none }

/-- DST's undefined bytes after a loss, over its whole range, and for t8 its lines' headers, which are part of what it receives (R312,
R318; 10 R194; DESIGN CHOICE, log 4). -/
def Collective.freeDst (c : Collective) (s : State) : List Byte :=
  (List.range (c.whole.range.2 * unitDst c.desc)).map (fun i => Config.freeByte s.freeCtr i)
def Collective.freeHeaders (c : Collective) (s : State) : Option (List Nat) :=
  if collT8 c.desc then
    some ((List.range c.whole.range.2).map (fun i => numLE ((List.range 2).map (fun j => Config.freeByte (s.freeCtr + 1) (2 * i + j)))))
  else none

/-- RES written with what it held before the slices that have completed (R318). -/
def resBack (b : Issued) : List (Nat × List Byte) → State → Except EngFault State
  | [], s => .ok s
  | (a, bs) :: r, s =>
    match collStore b bs none 0 (pieces a bs.length) s with
    | .error f => .error f
    | .ok s => resBack b r s

/-- What the completed slices of a bound collective have written into RES is kept until the collective is over. -/
def State.keepRes (s : State) (c : Collective) (old : List Byte) : State :=
  if c.slice.isSome ∧ old ≠ [] then
    s.modLaunch c.by_.lid (fun l => if l.open_ then { l with oldRes := (collRes c.desc + c.range.1 * 256, old) :: l.oldRes } else l)
  else s

/-- A fault of a completing collective: it waits for a REPLAY, or ends with PROTECT (DEDUCED, log 80). -/
def State.collFault (s : State) (p k : Nat) (c : Collective) : EngFault → State
  | .fault cause fl va =>
    if cause = 9 then (s.reportProtect { recordOf 0xFFFF 4 9 c.by_ with va := va, flags := fl } (s.engOwner c.by_)).endColl p k c 9
    else (s.reportPage { recordOf 0xFFFF 4 cause c.by_ with va := faultPage va, flags := fl } (s.engOwner c.by_)).setColl p k { c with page := some (faultPage va) }

/-- After DST and RES: the vote, or the end. -/
def State.voteOrEnd (s : State) (p k : Nat) (c : Collective) (old : List Byte) : State :=
  if s.votes c then
    let v := s.voteValue c.by_.func
    let s := s.setColl p k { c with state := .voting, votes := c.votes ++ [(entryRank c.entry, v)], residuals := old, progress := s.wall }
    (s.send (.vote p (collGroup c.desc) c.seq (entryRank c.entry) v)).decideIfAll p k
  else s.endColl p k c 0

/-- What RES held before the collective. -/
def Collective.oldRes (c : Collective) (s : State) : List Byte :=
  if collT8 c.desc then
    let (lo, n) := c.range
    match collLoad c.by_ (pieces (collRes c.desc + lo * 256) (n * 256)) s with
    | .ok (_, bs) => bs
    | .error _ => []
  else []

/-- A member was lost while the collective was in progress: after this one, or another slice of it, had passed the checks of its
start (R318). -/
def State.lostMidway (s : State) (c : Collective) : Bool :=
  c.status == 0x16 && c.progress != 0 && (entryFlags c.entry / 2 % 2 == 0 || (c.slice.isSome && (s.launch c.by_.lid).collRun))

/-- DST after a loss: undefined; a DST that may not be written keeps what it holds, and RES is put back all the same (R318). -/
def State.lossDst (s : State) (c : Collective) : Except EngFault State :=
  match c.whole.writeDst { s with freeCtr := s.freeCtr + 2 } (c.freeDst s) (c.freeHeaders s) with
  | .ok s1 => .ok s1
  | .error (.fault cause fl va) => if cause = 9 then .ok s else .error (.fault cause fl va)

/-- COLLECTIVE_COMPLETE: the result is written, the residuals after it, then the vote or DONE (R316). -/
def execCollectiveComplete (part k : Nat) (s : State) : Out :=
  match s.collAt part k with
  | none => .next s
  | some c =>
    if c.state ≠ .finishing ∨ c.page.isSome then .next s
    else if s.lostMidway c then
      match s.lossDst c with
      | .error f => .next (s.collFault part k c f)
      | .ok s1 =>
        match c.writeRes s1 with
        | .error f => .next (s.collFault part k c f)
        | .ok s2 =>
          match resBack c.by_ (if c.slice.isSome then (s.launch c.by_.lid).oldRes else []) s2 with
          | .error f => .next (s.collFault part k c f)
          | .ok s3 => .next (s3.endColl part k c 0x16)
    else if c.status ≠ 0 then .next (s.endColl part k c c.status)
    else if s.votes c ∧ !s.voteReady c then .next s
    else if c.range.2 = 0 then .next (s.voteOrEnd part k c [])
    else
      let old := c.oldRes s
      match c.writeDst s (collBytes c.result) (collHeaders c.result) with
      | .error f => .next (s.collFault part k c f)
      | .ok s1 =>
        match c.writeRes s1 with
        | .error f => .next (s.collFault part k c f)
        | .ok s2 => .next ((s2.keepRes c old).voteOrEnd part k c old)

end Sys2Proof.Machine
end

