-- ==== Sys2Proof/Machine/IntOps.lean ====
section
/-! DEFINITION. The integer and logic operations on one lane (06 R110-R113). Operands are 64-bit words of which the
type's width is read; results are 64-bit words written whole (06 R98). -/
namespace Sys2Proof.Machine

/-- The shift amount k of 06 R110 is given already: bits [7:0] of a register, or the raw immediate. -/
def shlLane (t : Ty) (x : Word) (k : Nat) : Word :=
  if k ≥ width t then 0 else wordOf t (intOf t x * (2 ^ k : Nat))
def shrLane (t : Ty) (x : Word) (k : Nat) : Word :=
  if k ≥ width t then 0 else narrow t (BitVec.ofNat 64 (bits x 0 (width t) / 2 ^ k))
def sarLane (t : Ty) (x : Word) (k : Nat) : Word :=
  narrow t (BitVec.ofInt 64 (signedNat (width t) x.toNat / (2 ^ (min k (width t)) : Nat)))
def rotLane (t : Ty) (x : Word) (k : Nat) : Word :=
  let w := width t
  let n := bits x 0 w
  let j := k % w
  narrow t (BitVec.ofNat 64 (n * 2 ^ j % 2 ^ w + n / 2 ^ (w - j)))

def iaddLane (t : Ty) (x y : Word) : Word := wordOf t (intOf t x + intOf t y)
def isubLane (t : Ty) (x y : Word) : Word := wordOf t (intOf t x - intOf t y)
def imulLane (t : Ty) (x y : Word) : Word := wordOf t (intOf t x * intOf t y)
/-- Bits [2w-1:w] of the exact product. -/
def imulhLane (t : Ty) (x y : Word) : Word := wordOf t (intOf t x * intOf t y / (2 ^ width t : Nat))
def imadLane (t : Ty) (x y z : Word) : Word := wordOf t (intOf t x * intOf t y + intOf t z)
def inegLane (t : Ty) (x : Word) : Word := wordOf t (-(intOf t x))
def iabsLane (t : Ty) (x : Word) : Word := wordOf t ((intOf t x).natAbs : Int)
def iminLane (t : Ty) (x y : Word) : Word := wordOf t (min (intOf t x) (intOf t y))
def imaxLane (t : Ty) (x y : Word) : Word := wordOf t (max (intOf t x) (intOf t y))
def iaddsLane (t : Ty) (x y : Word) : Word := wordOf t (clampInt t (intOf t x + intOf t y))
def isubsLane (t : Ty) (x y : Word) : Word := wordOf t (clampInt t (intOf t x - intOf t y))
def andLane (t : Ty) (x y : Word) : Word := narrow t (x &&& y)
def orLane (t : Ty) (x y : Word) : Word := narrow t (x ||| y)
def xorLane (t : Ty) (x y : Word) : Word := narrow t (x ^^^ y)
def notLane (t : Ty) (x : Word) : Word := narrow t (~~~x)
def andnLane (t : Ty) (x y : Word) : Word := narrow t (x &&& ~~~y)
def popcLane (t : Ty) (x : Word) : Word := BitVec.ofNat 64 (popcount (width t) x.toNat)
def clzLane (t : Ty) (x : Word) : Word := BitVec.ofNat 64 (leadingZeros (width t) (bits x 0 (width t)))
def ctzLane (t : Ty) (x : Word) : Word := BitVec.ofNat 64 (trailingZeros (width t) x.toNat)
def brevLane (t : Ty) (x : Word) : Word := narrow t (BitVec.ofNat 64 (reverseBits (width t) x.toNat))
def selLane (t : Ty) (x y z : Word) : Word := narrow t ((x &&& z) ||| (y &&& ~~~z))

/-- BFE (06 R111): position and length from all 64 bits of b. -/
def bfeLane (t : Ty) (x b : Word) : Word :=
  let w := width t
  let pos := bits b 0 8
  let len := bits b 8 8
  let top := min (pos + len) w
  if pos ≥ w ∨ len = 0 then 0
  else
    let f := bits x pos (top - pos)
    wordOf t (if signed t then signedNat (top - pos) f else (f : Int))

/-- BFI (06 R111): the field of z replaced by the low bits of a. -/
def bfiLane (t : Ty) (x b z : Word) : Word :=
  let w := width t
  let pos := bits b 0 8
  let len := bits b 8 8
  if pos < w ∧ len > 0 then narrow t (setBits z pos (min (pos + len) w - pos) x.toNat) else narrow t z

/-- The integer conditions of 06 R112. -/
def icmpLane (t : Ty) (cc : ICond) (x y : Word) : Bool :=
  let a := intOf t x
  let b := intOf t y
  match cc with
  | .eq => decide (a = b)
  | .ne => decide (a ≠ b)
  | .lt => decide (a < b)
  | .le => decide (a ≤ b)
  | .gt => decide (a > b)
  | .ge => decide (a ≥ b)

/-- LEA (06 R113): b extended to 64 bits by TYPE, shifted, added to all 64 bits of a. -/
def leaLane (t : Ty) (a b : Word) (sh : Nat) : Word := a + narrow t b * BitVec.ofNat 64 (2 ^ sh)

end Sys2Proof.Machine
end

