-- ==== Sys2Proof/Machine/Integer.lean ====
section
/-! DEFINITION. The integer and logic instructions, majors 0x10-0x2E (06 R109-R113). -/
namespace Sys2Proof.Machine

/-- A short-latency lane operation: the destination is written with one value for each lane (06 R98, R109). -/
def laneBody (d : Operand) (f : Ctx → Nat → Word) (c : Ctx) (s : State) : Res :=
  .done (s.modIssuer c.who (fun w => writeDst c w d (f c))) []

/-- A predicate written in the active lanes (06 R99). -/
def predBody (p : Nat) (f : Ctx → Nat → Bool) (c : Ctx) (s : State) : Res :=
  .done (s.modIssuer c.who (fun w => w.writeP p c.act (maskOf (f c)))) []

/-- Two operands of an integer type. -/
def int3 (op : Ty → Word → Word → Word) (t : Ty) (d a b : Operand) : Ctx → State → Res :=
  laneBody d (fun c l => op t (srcInt c t a l) (srcInt c t b l))
/-- One operand of an integer type. -/
def int2 (op : Ty → Word → Word) (t : Ty) (d a : Operand) : Ctx → State → Res :=
  laneBody d (fun c l => op t (srcInt c t a l))
/-- An operand and a shift amount (06 R110). -/
def intShift (op : Ty → Word → Nat → Word) (t : Ty) (d a b : Operand) : Ctx → State → Res :=
  laneBody d (fun c l => op t (srcInt c t a l) (shiftAmt c b l))
/-- Two operands and the v register that C names. -/
def int4 (op : Ty → Word → Word → Word → Word) (t : Ty) (d a b : Operand) (z : BitVec 8) : Ctx → State → Res :=
  laneBody d (fun c l => op t (srcInt c t a l) (srcInt c t b l) (narrow t (c.w.readV z.toNat l)))

def execIadd (h : Hdr) (t : Ty) (d a b : Operand) (s : State) : Out := issueWord (.iadd h t d a b) (int3 iaddLane t d a b) s
def execIsub (h : Hdr) (t : Ty) (d a b : Operand) (s : State) : Out := issueWord (.isub h t d a b) (int3 isubLane t d a b) s
def execImul (h : Hdr) (t : Ty) (d a b : Operand) (s : State) : Out := issueWord (.imul h t d a b) (int3 imulLane t d a b) s
def execImulh (h : Hdr) (t : Ty) (d a b : Operand) (s : State) : Out := issueWord (.imulh h t d a b) (int3 imulhLane t d a b) s
def execImin (h : Hdr) (t : Ty) (d a b : Operand) (s : State) : Out := issueWord (.imin h t d a b) (int3 iminLane t d a b) s
def execImax (h : Hdr) (t : Ty) (d a b : Operand) (s : State) : Out := issueWord (.imax h t d a b) (int3 imaxLane t d a b) s
def execIadds (h : Hdr) (t : Ty) (d a b : Operand) (s : State) : Out := issueWord (.iadds h t d a b) (int3 iaddsLane t d a b) s
def execIsubs (h : Hdr) (t : Ty) (d a b : Operand) (s : State) : Out := issueWord (.isubs h t d a b) (int3 isubsLane t d a b) s
def execAnd (h : Hdr) (t : Ty) (d a b : Operand) (s : State) : Out := issueWord (.and h t d a b) (int3 andLane t d a b) s
def execOr (h : Hdr) (t : Ty) (d a b : Operand) (s : State) : Out := issueWord (.or h t d a b) (int3 orLane t d a b) s
def execXor (h : Hdr) (t : Ty) (d a b : Operand) (s : State) : Out := issueWord (.xor h t d a b) (int3 xorLane t d a b) s
def execAndn (h : Hdr) (t : Ty) (d a b : Operand) (s : State) : Out := issueWord (.andn h t d a b) (int3 andnLane t d a b) s
def execIneg (h : Hdr) (t : Ty) (d a : Operand) (s : State) : Out := issueWord (.ineg h t d a) (int2 inegLane t d a) s
def execIabs (h : Hdr) (t : Ty) (d a : Operand) (s : State) : Out := issueWord (.iabs h t d a) (int2 iabsLane t d a) s
def execNot (h : Hdr) (t : Ty) (d a : Operand) (s : State) : Out := issueWord (.not h t d a) (int2 notLane t d a) s
def execPopc (h : Hdr) (t : Ty) (d a : Operand) (s : State) : Out := issueWord (.popc h t d a) (int2 popcLane t d a) s
def execClz (h : Hdr) (t : Ty) (d a : Operand) (s : State) : Out := issueWord (.clz h t d a) (int2 clzLane t d a) s
def execCtz (h : Hdr) (t : Ty) (d a : Operand) (s : State) : Out := issueWord (.ctz h t d a) (int2 ctzLane t d a) s
def execBrev (h : Hdr) (t : Ty) (d a : Operand) (s : State) : Out := issueWord (.brev h t d a) (int2 brevLane t d a) s
def execShl (h : Hdr) (t : Ty) (d a b : Operand) (s : State) : Out := issueWord (.shl h t d a b) (intShift shlLane t d a b) s
def execShr (h : Hdr) (t : Ty) (d a b : Operand) (s : State) : Out := issueWord (.shr h t d a b) (intShift shrLane t d a b) s
def execSar (h : Hdr) (t : Ty) (d a b : Operand) (s : State) : Out := issueWord (.sar h t d a b) (intShift sarLane t d a b) s
def execRot (h : Hdr) (t : Ty) (d a b : Operand) (s : State) : Out := issueWord (.rot h t d a b) (intShift rotLane t d a b) s
def execImad (h : Hdr) (t : Ty) (d a b : Operand) (z : BitVec 8) (s : State) : Out :=
  issueWord (.imad h t d a b z) (int4 imadLane t d a b z) s
def execSel (h : Hdr) (t : Ty) (d a b : Operand) (z : BitVec 8) (s : State) : Out :=
  issueWord (.sel h t d a b z) (int4 selLane t d a b z) s

/-- BFE and BFI read position and length from all 64 bits of b (06 R111). -/
def execBfe (h : Hdr) (t : Ty) (d a b : Operand) (s : State) : Out :=
  issueWord (.bfe h t d a b) (laneBody d (fun c l => bfeLane t (srcInt c t a l) (src64 c b l))) s
def execBfi (h : Hdr) (t : Ty) (d a b : Operand) (z : BitVec 8) (s : State) : Out :=
  issueWord (.bfi h t d a b z) (laneBody d (fun c l =>
    bfiLane t (srcInt c t a l) (src64 c b l) (narrow t (c.w.readV z.toNat l)))) s

/-- ICMP (06 R112). -/
def execIcmp (h : Hdr) (t : Ty) (p : BitVec 3) (cc : ICond) (a b : Operand) (s : State) : Out :=
  issueWord (.icmp h t p cc a b) (predBody p.toNat (fun c l => icmpLane t cc (srcInt c t a l) (srcInt c t b l))) s

/-- The value that MOV copies: a float TYPE copies low bits of a register and converts the rest (06 R113). -/
def movValue (c : Ctx) (t : Ty) (a : MovSrc) (l : Nat) : Word :=
  match a with
  | .pred k => if (c.w.readP k.toNat).getLsbD l then 1 else 0
  | .op a => if t.isFloat then BitVec.ofNat 64 (srcFp c t a l) else srcInt c t a l

/-- MOV to a register, a predicate or an index register (06 R99, R113). -/
def movBody (t : Ty) (d : MovDst) (a : MovSrc) (c : Ctx) (s : State) : Res :=
  match d with
  | .reg d => laneBody d (fun c l => movValue c t a l) c s
  | .pred k => predBody k.toNat (fun c l => movValue c t a l != 0) c s
  | .idx i => .done (if c.act = 0 then s else s.modIssuer c.who (fun w => w.writeX i.toNat ((movValue c t a 0).setWidth 16))) []

def execMov (h : Hdr) (t : Ty) (d : MovDst) (a : MovSrc) (s : State) : Out := issueWord (.mov h t d a) (movBody t d a) s

/-- MOVI (06 R113). -/
def moviValue (sub : MoviSub) (imm : BitVec 32) (old : Word) : Word :=
  match sub with
  | .sx => imm.signExtend 64
  | .zx => imm.setWidth 64
  | .hi => imm ++ old.setWidth 32

def execMovi (h : Hdr) (sub : MoviSub) (d : Operand) (imm : BitVec 32) (s : State) : Out :=
  issueWord (.movi h sub d imm) (laneBody d (fun c l => moviValue sub imm (src64 c d l))) s

/-- LEA (06 R113). -/
def execLea (h : Hdr) (t : Ty) (d a b : Operand) (sh : BitVec 3) (s : State) : Out :=
  issueWord (.lea h t d a b sh) (laneBody d (fun c l => leaLane t (src64 c a l) (src64 c b l) sh.toNat)) s

end Sys2Proof.Machine
end

