-- ==== Sys2Proof/Machine/Cross.lean ====
section
/-! DEFINITION. The cross-lane instructions, majors 0x50-0x5C (07 R123-R131). -/
namespace Sys2Proof.Machine

/-- SHFL's offset (07 R124). -/
def shflOffset (c : Ctx) (off : ShflOff) : Nat :=
  match off with
  | .abs (.imm k) => k.toInt.toNat
  | .abs b => (src64 c b 0).toNat
  | .w1 => 32
  | .w2 => 16
  | .w4 => 8
  | .w8 => 4
  | .w16 => 2

/-- The source lane of SHFL; a lane out of range receives its own value. -/
def shflLane (mode : ShflMode) (o l : Nat) : Nat :=
  match mode with
  | .up => if o ≤ l then l - o else l
  | .down => if l + o < 64 then l + o else l
  | .xor => if Nat.xor l o < 64 then Nat.xor l o else l
  | .rot => (l + o) % 64

def execShfl (h : Hdr) (mode : ShflMode) (off : ShflOff) (d a : Operand) (s : State) : Out :=
  issueWord (.shfl h mode off d a) (laneBody d (fun c l => src64 c a (shflLane mode (shflOffset c off) l))) s

/-- SHFLX, BCAST and PERM (07 R125). -/
def execShflx (h : Hdr) (d a b : Operand) (s : State) : Out :=
  issueWord (.shflx h d a b) (laneBody d (fun c l =>
    let q := bits (src64 c b l) 0 8
    src64 c a (if q < 64 then q else l))) s

/-- BCAST's source lane. -/
def bcastLane (c : Ctx) (pick : BcastSel) : Nat :=
  match pick with
  | .lane b => (src64 c b 0).toNat % 64
  | .first => lowestLane c.act

def execBcast (h : Hdr) (pick : BcastSel) (d a : Operand) (s : State) : Out :=
  issueWord (.bcast h pick d a) (laneBody d (fun c _ => src64 c a (bcastLane c pick))) s

def execPerm (h : Hdr) (d a b : Operand) (s : State) : Out :=
  issueWord (.perm h d a b) (laneBody d (fun c l =>
    src64 c a (l / 16 * 16 + bits (src64 c b 0) (4 * (l % 16)) 4))) s

/-- VOTE (07 R127): S is the active lanes whose predicate is 1. -/
def voteBody (d : VoteDst) (p : BitVec 3) (c : Ctx) (s : State) : Res :=
  let v := c.act &&& c.w.readP p.toNat
  match d with
  | .mask d => laneBody d (fun _ _ => v) c s
  | .count d => laneBody d (fun _ _ => BitVec.ofNat 64 (laneCount v)) c s
  | .first d => laneBody d (fun _ _ => if v = 0 then BitVec.allOnes 64 else BitVec.ofNat 64 (lowestLane v)) c s
  | .some q => predBody q.toNat (fun _ _ => v != 0) c s
  | .every q => predBody q.toNat (fun c _ => v == c.act) c s
  | .same q => predBody q.toNat (fun c _ => v == 0 || v == c.act) c s

def execVote (h : Hdr) (d : VoteDst) (p : BitVec 3) (s : State) : Out := issueWord (.vote h d p) (voteBody d p) s

/-! ### RED and SCAN (07 R128-R130) -/

/-- An input of a reduction in its type. -/
def redInput (c : Ctx) (t : Ty) (a : Operand) (l : Nat) : Word :=
  if t.isFloat then BitVec.ofNat 64 (srcFp c t a l) else srcInt c t a l

/-- The write of pE: every lane of the issuing entry (07 R129). -/
def peWrite (c : Ctx) (pe : BitVec 3) : List RegWrite :=
  if pe = 0 then [] else [.p pe.toNat c.e.lanes (if c.act = 0 then 0 else c.e.lanes)]

/-- RED's destination: an s register is written even when no lane is active. -/
def redDst (c : Ctx) (d : Operand) (r : Word) : List RegWrite :=
  match d with
  | .s n => [.s n.toNat r]
  | d => dstWrite c d (fun _ => r)

def redBody (op : RedOp) (t : Ty) (rnd : Rnd) (sat : Bool) (pe : BitVec 3) (d a : Operand) (c : Ctx) (s : State) : Res :=
  let r := redResult op t rnd sat ((lanesOf c.act).map (redInput c t a))
  fly c s (redDst c d r ++ peWrite c pe)

def execRed (h : Hdr) (op : RedOp) (t : Ty) (rnd : Rnd) (sat : Bool) (pe : BitVec 3) (d a : Operand) (s : State) : Out :=
  issueWord (.red h op t rnd sat pe d a) (redBody op t rnd sat pe d a) s

/-- RED.STEP: one exchange of a butterfly (07 R130). -/
def redStepBody (op : RedOp) (t : Ty) (rnd : Rnd) (sat : Bool) (k : BitVec 8) (d a : Operand) (c : Ctx) (s : State) : Res :=
  fly c s (dstWrite c d (fun l =>
    let q := Nat.xor l (2 ^ k.toNat)
    if c.act.getLsbD q then redFold op t rnd sat [redInput c t a l, redInput c t a q] else redInput c t a l))

def execRedStep (h : Hdr) (op : RedOp) (t : Ty) (rnd : Rnd) (sat : Bool) (k : BitVec 8) (d a : Operand) (s : State) : Out :=
  issueWord (.redStep h op t rnd sat k d a) (redStepBody op t rnd sat k d a) s

/-- SCAN: each lane combines the active lanes below it, and itself unless .excl. -/
def scanBody (op : RedOp) (excl : Bool) (t : Ty) (rnd : Rnd) (sat : Bool) (pe : BitVec 3) (d a : Operand) (c : Ctx) (s : State) : Res :=
  fly c s (dstWrite c d (fun l =>
    redResult op t rnd sat (((lanesOf c.act).filter (fun j => decide (j < l) || (!excl && j == l))).map (redInput c t a))) ++
    peWrite c pe)

def execScan (h : Hdr) (op : RedOp) (excl : Bool) (t : Ty) (rnd : Rnd) (sat : Bool) (pe : BitVec 3) (d a : Operand)
    (s : State) : Out :=
  issueWord (.scan h op excl t rnd sat pe d a) (scanBody op excl t rnd sat pe d a) s

/-! ### ZIP and UNZIP (07 R126) -/

/-- Register `rd` of the destination range in lane `ln`: element j of the sequence. -/
def zipElem (k a rd ln : Nat) (c : Ctx) : Word :=
  let j := rd * 64 + ln
  c.w.readV (a + j % k) (j / k)
def unzipElem (k a rd ln : Nat) (c : Ctx) : Word :=
  let j := ln * k + rd
  c.w.readV (a + j / 64) (j % 64)

/-- All sources are read before the range is written. -/
def rangeBody (k : Nat) (d : BitVec 8) (f : Nat → Nat → Ctx → Word) (c : Ctx) (s : State) : Res :=
  .done (s.modIssuer c.who (fun w =>
    (List.range k).foldl (fun w i => w.writeV (d.toNat + i) c.act (fun l => f i l c)) w)) []

def execZip2 (h : Hdr) (d a : BitVec 8) (s : State) : Out :=
  issueWord (.zip2 h d a) (rangeBody 2 d (zipElem 2 a.toNat)) s
def execUnzip2 (h : Hdr) (d a : BitVec 8) (s : State) : Out :=
  issueWord (.unzip2 h d a) (rangeBody 2 d (unzipElem 2 a.toNat)) s
def execZip3 (h : Hdr) (d a : BitVec 8) (s : State) : Out :=
  issueWord (.zip3 h d a) (rangeBody 3 d (zipElem 3 a.toNat)) s
def execUnzip3 (h : Hdr) (d a : BitVec 8) (s : State) : Out :=
  issueWord (.unzip3 h d a) (rangeBody 3 d (unzipElem 3 a.toNat)) s
def execZip4 (h : Hdr) (d a : BitVec 8) (s : State) : Out :=
  issueWord (.zip4 h d a) (rangeBody 4 d (zipElem 4 a.toNat)) s
def execUnzip4 (h : Hdr) (d a : BitVec 8) (s : State) : Out :=
  issueWord (.unzip4 h d a) (rangeBody 4 d (unzipElem 4 a.toNat)) s

end Sys2Proof.Machine
end

