-- ==== Sys2Proof/Machine/Sha.lean ====
section
/-! DEFINITION. SHA-384 (18 R340), as FIPS 180-4 gives it (PRESUMED, log 112). -/
namespace Sys2Proof.Machine

/-- The greatest number whose `k`-th power is at most `x`, bit by bit from bit `n` down. -/
def rootBits (k x : Nat) : Nat → Nat → Nat
  | 0, acc => acc
  | n + 1, acc => rootBits k x n (if (acc + 2 ^ n) ^ k ≤ x then acc + 2 ^ n else acc)

/-- The first 64 bits of the fraction of the `k`-th root of `p`. -/
def rootFraction (k p : Nat) : Word := BitVec.ofNat 64 (rootBits k (p * 2 ^ (64 * k)) 70 0 % 2 ^ 64)

def isPrime (n : Nat) : Bool := decide (2 ≤ n) && (List.range n).all (fun d => decide (d < 2) || n % d != 0)
/-- The first 80 primes. -/
def shaPrimes : List Nat := (List.range 410).filter isPrime
def shaK : List Word := (shaPrimes.take 80).map (rootFraction 3)
/-- The initial value: from the square roots of the ninth to the sixteenth prime. -/
def shaInit : List Word := ((shaPrimes.drop 8).take 8).map (rootFraction 2)

def rotr (x : Word) (n : Nat) : Word := x >>> n ||| x <<< (64 - n)

/-- The message schedule continued by a word: the last sixteen words, newest first. -/
def shaNext (w : List Word) : Word :=
  let a := w.getD 1 0
  let b := w.getD 14 0
  (rotr a 19 ^^^ rotr a 61 ^^^ a >>> 6) + w.getD 6 0 + (rotr b 1 ^^^ rotr b 8 ^^^ b >>> 7) + w.getD 15 0

/-- One round. -/
def shaRound (h : List Word) (k w : Word) : List Word :=
  match h with
  | [a, b, c, d, e, f, g, x] =>
    let t1 := x + (rotr e 14 ^^^ rotr e 18 ^^^ rotr e 41) + ((e &&& f) ^^^ (~~~e &&& g)) + k + w
    let t2 := (rotr a 28 ^^^ rotr a 34 ^^^ rotr a 39) + ((a &&& b) ^^^ (a &&& c) ^^^ (b &&& c))
    [t1 + t2, a, b, c, d + t1, e, f, g]
  | _ => h

/-- The rounds of a block: `w` holds the sixteen words before the one to use, newest first, from round 16 on. -/
def shaRounds : List Word → List Word → List Word → List Word → List Word
  | [], _, _, h => h
  | k :: ks, x :: xs, w, h => shaRounds ks xs (x :: w) (shaRound h k x)
  | k :: ks, [], w, h => shaRounds ks [] (shaNext w :: w) (shaRound h k (shaNext w))

/-- A big-endian word. -/
def wordBE (bs : List Byte) : Word := bs.foldl (fun w b => w <<< 8 ||| b.setWidth 64) 0
def bytesBE (n : Nat) (x : Nat) : List Byte := (List.range n).map (fun i => BitVec.ofNat 8 (x / 2 ^ (8 * (n - 1 - i))))

def shaBlock (h : List Word) (block : List Byte) : List Word :=
  let ws := (List.range 16).map (fun i => wordBE ((block.drop (8 * i)).take 8))
  (h.zip (shaRounds shaK ws [] h)).map (fun (x, y) => x + y)

/-- The message padded to whole blocks of 128 bytes. -/
def shaPad (m : List Byte) : List Byte :=
  m ++ [0x80] ++ List.replicate ((239 - m.length % 128) % 128) 0 ++ bytesBE 16 (8 * m.length)

/-- SHA-384: 48 bytes. -/
def sha384 (m : List Byte) : List Byte :=
  let p := shaPad m
  (((List.range (p.length / 128)).foldl (fun h i => shaBlock h ((p.drop (128 * i)).take 128)) shaInit).take 6).flatMap
    (fun w => bytesBE 8 w.toNat)

end Sys2Proof.Machine
end

