-- ==== Sys2Proof/Machine/Queues.lean ====
section
/-! DEFINITION. The host's queues (13 R258, R259; 15 R280-R282; 17 R307; 18 R337): queue registers, the acceptance of commands,
LAUNCH, SIGNAL and REPLAY commands, fault records written late. An event whose condition does not hold leaves the state. -/
namespace Sys2Proof.Machine

/-! ### Queue registers (13 R258; 15 R282) -/

/-- The device has the function: the physical one and 1,024 virtual ones (01 R10). -/
def funcNumber (f : Nat) : Bool := decide (f ≤ 1024)
/-- A partition: 16 partitions (15 R286). -/
def partNumber (p : Nat) : Bool := decide (p < 16)
/-- The function is up: a link narrower than x8, and recovery mode, leave the physical function alone (01 R13; 18 R339). -/
def State.funcUp (s : State) (f : Nat) : Bool := f == 0 || (funcNumber f && !s.narrow && !s.recovery)

def log2nOk (n : Nat) : Bool := decide (4 ≤ n) && decide (n ≤ 16)

/-- CQCTL written, judged by EN before the write (DEDUCED, log 39). -/
def Func.writeCqctl (x : Func) (v : Word) : Func :=
  if x.cqen ∧ v.getLsbD 0 then x
  else if v.getLsbD 0 ∧ log2nOk (bits v 1 5) then { x with cqlog := bits v 1 5, cqen := true, cqhead := 0, cqtail := 0 }
  else { x with cqlog := bits v 1 5, cqen := false }

/-- CQBASE written. -/
def Func.writeCqbase (x : Func) (v : Word) : Func := if x.cqen then x else { x with cqbase := keepBits v 12 45 }

/-- CQNOTIFY.TAIL written: stored, or ignored and counted. -/
def Func.writeTail (x : Func) (t : BitVec 32) : Func :=
  if !x.cqen ∨ (t - x.cqhead).toNat > 2 ^ x.cqlog then { x with ignoredTails := x.ignoredTails + 1 } else { x with cqtail := t }

/-- FQCTL written: OVF is write-1-to-clear, EN and LOG2N follow the rules of CQCTL. -/
def Partition.writeFqctl (x : Partition) (v : Word) : Partition :=
  let x := if v.getLsbD 6 then { x with fqovf := false } else x
  if x.fqen ∧ v.getLsbD 0 then x
  else if v.getLsbD 0 ∧ log2nOk (bits v 1 5) then { x with fqlog := bits v 1 5, fqen := true, fqhead := 0, fqtail := 0 }
  else { x with fqlog := bits v 1 5, fqen := false }

/-- FQBASE written. -/
def Partition.writeFqbase (x : Partition) (v : Word) : Partition := if x.fqen then x else { x with fqbase := keepBits v 12 45 }

/-- FQPTR.HEAD written, where it lies between the old HEAD and TAIL; an empty queue holds no interrupt (DEDUCED, log 36). -/
def Partition.writeHead (x : Partition) (h : BitVec 32) : Partition :=
  if x.fqen ∧ (x.fqtail - h).toNat ≤ (x.fqtail - x.fqhead).toNat then { x with fqhead := h, fqIrq := x.fqIrq && h != x.fqtail } else x

/-- CQNOTIFY_TAIL_WRITE. -/
def execCqnotifyTailWrite (func : Nat) (tail : BitVec 32) (s : State) : Out :=
  if s.funcUp func then .next (s.modFunc func (fun x => x.writeTail tail)) else .next s

/-- CQ_ENABLE: a write to CQCTL with EN set. -/
def execCqEnable (func : Nat) (value : Word) (s : State) : Out :=
  if s.funcUp func ∧ value.getLsbD 0 then .next (s.modFunc func (fun x => x.writeCqctl value)) else .next s

/-- CQ_DISABLE: a write to CQCTL with EN clear. -/
def execCqDisable (func : Nat) (value : Word) (s : State) : Out :=
  if s.funcUp func ∧ !value.getLsbD 0 then .next (s.modFunc func (fun x => x.writeCqctl value)) else .next s

/-- FQ_ENABLE: a write to FQCTL with EN set. -/
def execFqEnable (part : Nat) (value : Word) (s : State) : Out :=
  if value.getLsbD 0 ∧ partNumber part then .next (s.modPart part (fun x => x.writeFqctl value)) else .next s

/-- FQPTR_HEAD_WRITE. -/
def execFqptrHeadWrite (part : Nat) (head : BitVec 32) (s : State) : Out :=
  if partNumber part then .next (s.modPart part (fun x => x.writeHead head)) else .next s

/-- FAULT_RECORD_HELD_WRITE: the first held record is written where there is room. -/
def execFaultRecordHeldWrite (part : Nat) (s : State) : Out :=
  match (s.part part).fqHeld with
  | r :: rest => if (s.part part).fqRoom then .next ((s.writeRecord part r).modPart part (fun x => { x with fqHeld := rest })) else .next s
  | [] => .next s

/-! ### The acceptance of commands (13 R259) -/

def cmdOp (e : List Byte) : Nat := field e 0 1
def cmdAddr (e : List Byte) : Word := fieldW e 8 8
def cmdCount (e : List Byte) : Nat := field e 16 4

/-- A reserved OP, a nonzero reserved field or bit, or a REPLAY whose ADDR has nonzero bits [15:0]. -/
def cmdBad (e : List Byte) : Bool :=
  !([1, 2, 3, 0x10].contains (cmdOp e)) || field e 1 7 != 0 || (e.drop 20).any (fun b => b != 0) ||
    (cmdOp e == 1 && cmdCount e != 0) ||
    (cmdOp e == 2 && (decide (cmdCount e / 2 ^ 24 % 128 ≠ 0) || decide ((cmdAddr e).toNat % 65536 ≠ 0)))

/-- A record of firmware for a function. -/
def State.fwRecord (s : State) (f cause va : Nat) : FaultRec := { cause := cause, agent := 8, part := (s.func f).part, func := f, va := va }
/-- A record of an access abandoned, with FLAGS.SKIP (15 R280) (DEDUCED, log 44). -/
def State.skipRecord (s : State) (f cause flags va : Nat) : State := s.report { s.fwRecord f cause va with flags := flags + 32 }
/-- HEAD passes a command. -/
def State.passCommand (s : State) (f : Nat) : State := s.modFunc f (fun x => { x with cqhead := x.cqhead + 1 })

/-- The function may submit work: VFPART.EN and its partition's EN are set, and firmware runs (DEDUCED, log 46). -/
def State.maySubmit (s : State) (f : Nat) : Bool := (s.func f).vfen && (s.part (s.func f).part).en && s.funcUp f && !s.recovery

/-- The next command of a function: none is accepted, it is skipped, or it is there. -/
inductive Command where
  | none
  | skip (s : State)
  | ready (s : State) (entry : List Byte)
deriving DecidableEq, Repr

def Func.cqEntry (x : Func) : Nat := bits x.cqbase 12 45 * 4096 + 64 * (x.cqhead.toNat % 2 ^ x.cqlog)

def State.command (s : State) (f : Nat) : Command :=
  let x := s.func f
  if !x.cqen ∨ x.cqhead = x.cqtail ∨ !s.maySubmit f ∨ x.jrnReplays then .none
  else
    match s.fwRead (s.fwRecord f 0 0) x.part f x.cqEntry 64 with
    | .fault c fl a => .skip ((s.skipRecord f c fl a).passCommand f)
    | .ok t e => if cmdBad e then .skip ((t.report (t.fwRecord f 1 x.cqEntry)).passCommand f) else .ready t e

/-- A command of one OP runs; a command that is skipped passes whoever looks at it; another waits. -/
def State.runCommand (s : State) (f op : Nat) (run : State → List Byte → Option State) : Out :=
  match s.command f with
  | .none => .next s
  | .skip t => .next t
  | .ready t e =>
    if cmdOp e = op then
      match run t e with
      | some u => .next (u.passCommand f)
      | none => .next s
    else .next s

/-- Bytes that firmware writes. -/
def State.fwWrite (s : State) (r : FaultRec) (p f va : Nat) (data : List Byte) : FwRead :=
  match s.placeAll p f [(0, va)] data.length { write := true } with
  | .fault c fl a => .fault c fl a
  | .ok ps =>
    match s.tryWrites p none { r with cause := 0x14 } 0xFFFF (elemWrites ps (fun _ => data)) with
    | .ok t => .ok t []
    | .error a => .fault 0x12 1 a

/-- Bytes that firmware writes, line after line. -/
def State.fwWriteAll (s : State) (r : FaultRec) (p f : Nat) (data : List Byte) : List (Nat × Nat) → Nat → FwRead
  | [], _ => .ok s []
  | (a, n) :: rest, off =>
    match s.fwWrite r p f a ((data.drop off).take n) with
    | .ok t _ => State.fwWriteAll t r p f data rest (off + n)
    | x => x

/-! ### LAUNCH (13 R254, R259; 18 R337) -/

/-- The partition's launch storage is full. -/
def State.launchFull (s : State) (f : Nat) : Bool := decide ((s.part (s.func f).part).queue.length ≥ Config.launchStorage + 1)

/-- A launch record read by firmware and accepted, or the skip. -/
def State.fwLaunch (s : State) (f : Nat) (src : Word) : State :=
  let p := (s.func f).part
  match s.fwRead (s.fwRecord f 0 0) p f src.toNat 128 with
  | .fault c fl a => s.skipRecord f c fl a
  | .ok t r => (t.acceptLaunch p f src r).1

/-- The argument window of entry `n` of a function's tenant table (15 R287). -/
def State.tenantEntry (s : State) (f n : Nat) : FwRead :=
  s.fwRead (s.fwRecord f 0 0) (s.func f).part f (bits (s.func f).tlt 6 51 * 64 + 64 * n) 64

/-- The raw argument bytes that follow a KIND 6 entry at position i. -/
def State.jrnArgs (s : State) (f i : Nat) (e : List Byte) : List Byte :=
  ((List.range (rawEntries e)).flatMap (fun j => (s.jrnEntry f (i + 1 + j)).drop 8)).take (field e 24 8)

/-- The KIND 6 entry whose arguments stand just before position i, looked for from a position on. -/
def State.jrnArgsAt (s : State) (f i : Nat) : Nat → Nat → Option (Nat × List Byte)
  | 0, _ => none
  | n + 1, from_ =>
    match s.jrnFind f 6 n from_ with
    | none => none
    | some j =>
      let e := s.jrnEntry f j
      let next := j + 1 + rawEntries e
      if next = i then some (j, e) else if next < i then State.jrnArgsAt s f i n next else none

/-- Packet arguments rewritten from the journal, where the launch at position i came from a packet (18 R337). -/
def State.rewriteArgs (s : State) (f i : Nat) : State :=
  let x := s.func f
  match s.jrnArgsAt f i x.jrnCap (max x.jrnOldest (get 0 x.jrnRead 6)) with
  | none => s
  | some (j, e) =>
      let s := s.jrnTake f 6 j
      match s.tenantEntry f (field e 16 2) with
      | .ok t x =>
        match t.fwWriteAll (t.fwRecord f 0 0) (t.func f).part f (t.jrnArgs f j e) (pieces (field x 8 8) (field e 24 8)) 0 with
        | .ok u _ => u
        | .fault _ _ _ => t
      | .fault _ _ _ => s

/-- The next recorded launch entered; that of a LAUNCH word enters when the replay performs the word again. -/
def State.replayLaunch (s : State) (f : Nat) : State :=
  match s.jrnNext f 1 with
  | none => s
  | some (i, e) => if (s.func f).jrnAwaits i then s else ((s.jrnTake f 1 i).rewriteArgs f i).fwLaunch f (fieldW e 16 8)

/-- LAUNCH_COMMAND. -/
def execLaunchCommand (func : Nat) (s : State) : Out :=
  if (s.func func).jrnReplays then
    if s.maySubmit func ∧ !s.launchFull func then .next (s.replayLaunch func) else .next s
  else s.runCommand func 1 (fun t e => if t.launchFull func then none else some (t.fwLaunch func (cmdAddr e)))

/-! ### SIGNAL (13 R259; 17 R307) -/

def State.signalCounter (s : State) (f : Nat) (va : Word) (n : Nat) : State :=
  let p := (s.func f).part
  match s.counterPlace p f (counterVa va) { write := true } with
  | .fault c fl a => s.skipRecord f c fl a
  | .ok ps =>
    let s := s.findErrors p none (s.fwRecord f 0x14 va.toNat) (placeLines ps)
    let w := s.counterWord p ps
    if n = 0 then s.heatLines p 0xFFFF (placeLines ps)
    else if n > w % 2 ^ 24 then (s.heatLines p 0xFFFF (placeLines ps)).report (s.fwRecord f 0x13 va.toNat)
    else
      match s.tryWrites p none (s.fwRecord f 0x14 va.toNat) 0xFFFF (counterWrites ps (decWord w n 0)) with
      | .ok t => t
      | .error a => s.skipRecord f 0x12 1 a

/-- SIGNAL. -/
def execSignal (func : Nat) (s : State) : Out :=
  s.runCommand func 3 (fun t e => some (t.signalCounter func (cmdAddr e) (cmdCount e)))

/-! ### REPLAY (15 R280, R281; 14 R261; 18 R337) -/

/-- The states of a launch as the summary and the journal number them (DESIGN CHOICE, log 40). -/
def LState.code : LState → Nat
  | .waiting => 0 | .prologue => 1 | .dispatching => 2 | .running => 3 | .complete => 4

/-- An agent's pause on a page, over. -/
def CmdState.resume (ok : Nat → Bool) (st : CmdState) : CmdState :=
  match st with
  | .paused pg => if ok pg then .queued else st
  | x => x
def unpause (ok : Nat → Bool) (pg : Option Nat) : Option Nat :=
  match pg with
  | some x => if ok x then none else pg
  | none => none

/-- Engine commands of a core and a function that wait for a page go on. -/
def Core.resume (k : Core) (f : Nat) (ok : Nat → Bool) : Core :=
  { k with
    copies := k.copies.map (fun (c : CopyCmd) => if c.by_.func = f then { c with state := c.state.resume ok } else c)
    kvs := k.kvs.map (fun (c : KvCmd) => if c.by_.func = f then { c with state := c.state.resume ok } else c)
    scheds := k.scheds.map (fun ((i, x) : Nat × Scheduler) =>
      (i, { x with sweeps := x.sweeps.map (fun (c : SweepCmd) => if c.by_.func = f then { c with state := c.state.resume ok } else c) })) }

def parkedIn (ok : Nat → Bool) (p : Park) : Bool :=
  match p with
  | .replay pg => ok pg
  | _ => false

/-- A saved workgroup's waiters are marked as woken. -/
def SavedWg.resume (v : SavedWg) (ok : Nat → Bool) : SavedWg :=
  { v with
    warps := v.warps.map (fun ((i, w) : Nat × Warp) => (i, w.wakeSaved (parkedIn ok)))
    copies := v.copies.map (fun (c : CopyCmd) => { c with state := c.state.resume ok })
    sweeps := v.sweeps.map (fun ((i, c) : Nat × SweepCmd) => (i, { c with state := c.state.resume ok })) }

/-- Warps, engine commands, the prologue, decrements, collectives and digest builds of a function go on. `ok` tells the core
number of a record and its page. -/
def State.wakeAgents (s : State) (f : Nat) (ok : Nat → Nat → Bool) : State :=
  let p := (s.func f).part
  let s := s.coreNums.foldl (fun s c =>
    ((s.parkedOn c (parkedIn (ok c))).filter (fun i => s.wgFunc (s.wg (s.warp c i).wg) == f)).foldl (fun s i => s.wakeWarp c i)
      (s.modCore c (fun k => k.resume f (ok c)))) s
  let s := s.modPart p (fun x => { x with
    prologue := x.prologue.map (fun r =>
      if (s.launch r.lid).func == f && (match r.warp.parkOn with
        | some q => parkedIn (ok 0xFFFF) q
        | none => false) then { r with warp := { r.warp with state := .ready } } else r)
    colls := x.colls.map (fun (c : Collective) => if c.by_.func = f then { c with page := unpause (ok 0xFFFF) c.page } else c) })
  let s := s.modFunc f (fun x => { x with
    digests := x.digests.map (fun ((i, d) : Nat × DigestSlot) => (i, { d with pause := unpause (ok 0xFFFF) d.pause }))
    ctx := { x.ctx with saved := x.ctx.saved.map (fun (v : SavedWg) => v.resume (ok v.wg.core)) } })
  { s with decs := s.decs.map (fun (d : Dec) => if d.func = f then { d with page := unpause (ok (d.record 0).core) d.page } else d) }

/-- A launch that waits for a page looks again. -/
def State.retryLaunch (s : State) (lid : Nat) : State :=
  let l := s.launch lid
  let s := s.setLaunch lid { l with heldPage := none }
  if l.state = .waiting ∧ !l.ready then s.watchCtr lid else s

/-- Launches and flushes of a function that wait for a page go on. -/
def State.wakeHeld (s : State) (f : Nat) (ok : Nat → Nat → Bool) : State :=
  let ls := (s.launches.filter (fun (_, l) => l.live && l.func == f && (match l.heldPage with
    | some pg => ok 0xFFFF pg
    | none => false))).map Prod.fst
  let s := ls.foldl (fun s i => s.retryLaunch i) s
  let gs := (s.wgs.filter (fun (_, g) => g.live && s.wgFunc g == f && (match g.flushWait with
    | some (_, pg) => ok 0xFFFF pg
    | none => false))).map Prod.fst
  gs.foldl (fun s k => s.retryFlush k) s

/-- Written records of a function that a predicate selects are closed, and their waiters wake. A record that is not yet
written keeps its waiters (DEDUCED, log 85). -/
def State.closeRecords (s : State) (f : Nat) (sel : OpenRec → Bool) : State :=
  let p := (s.func f).part
  let goes (o : OpenRec) : Bool := o.seq.isSome && o.rec_.func == f && sel o
  let cs := (s.part p).opened.filter goes
  let s := cs.foldl (fun s o => s.journal f 3 o.rec_.launch (o.seq.getD 0) (s.launch (launchId p o.rec_.launch)).state.code) s
  let s := s.modPart p (fun x => { x with opened := x.opened.filter (fun o => !goes o) })
  let ok (core page : Nat) : Bool := cs.any (fun o => o.rec_.va == page) &&
    !((s.part p).opened.any (fun o => o.rec_.func == f && o.rec_.core == core && o.rec_.va == page))
  (s.wakeAgents f ok).wakeHeld f ok

/-- Entries of an atomic buffer whose translation an INVAL drops. -/
def dropEntries (lo hi : Nat) (es : List BufEntry) : List BufEntry :=
  es.map (fun (e : BufEntry) => if lo ≤ e.va ∧ e.va < hi then { e with stale := true } else e)

/-- INVAL: cached translations of the range are dropped; digest regions that meet it are built again (17 R321). -/
def State.dropRange (s : State) (f lo hi : Nat) : State :=
  let s := s.dropCached f (fun pg => decide (pg.va < hi) && decide (lo < pg.va + pg.size))
  let s := s.coreNums.foldl (fun s c => s.modCore c (fun k => { k with warps := k.warps.map (fun ((i, w) : Nat × Warp) =>
    (i, if s.wgFunc (s.wg w.wg) = f then { w with abuf := dropEntries lo hi w.abuf } else w)) })) s
  let gone (g : Workgroup) : Workgroup :=
    { g with retiredBuf := g.retiredBuf.map (fun (r : RetiredEntry) =>
        if lo ≤ r.entry.va ∧ r.entry.va < hi then { r with entry := { r.entry with stale := true } } else r) }
  let s := { s with
    wgs := s.wgs.map (fun ((i, g) : Nat × Workgroup) => (i, if s.wgFunc g = f then gone g else g))
    launches := s.launches.map (fun ((i, l) : Nat × Launch) => (i, if l.func = f then
      { l with devParts := l.devParts.map (fun (d : DevPartial) => if lo ≤ d.entry.va ∧ d.entry.va < hi then { d with entry := { d.entry with stale := true } } else d) } else l)) }
  let s := s.modFunc f (fun x => { x with
    digests := x.digests.map (fun ((i, d) : Nat × DigestSlot) =>
      (i, if d.declared ∧ rangesMeet d.base d.len lo (hi - lo) then { d with state := .building, laneA := 0, laneB := 0, pages := [] } else d))
    ctx := { x.ctx with saved := x.ctx.saved.map (fun (v : SavedWg) =>
      { v with wg := gone v.wg, warps := v.warps.map (fun ((i, w) : Nat × Warp) => (i, { w with abuf := dropEntries lo hi w.abuf })) }) } })
  -- waiters on counters of the range are placed again, and those whose counter stands at zero there wake (15 R281)
  let s := s.placeWaiters (fun g _ va => g == f && decide (lo ≤ va) && decide (va < hi))
  ((s.waitedPlaces.eraseDups).filter (fun k => k != noKey && s.countAt k == 0)).foldl (fun s k => s.counterZero k) s

/-- REPLAY of a range. -/
def State.replayRange (s : State) (f lo n : Nat) (inval : Bool) : State :=
  let hi := lo + n * 65536
  let s := if inval then s.dropRange f lo hi else s
  s.closeRecords f (fun o => decide (lo ≤ o.rec_.va) && decide (o.rec_.va < hi))

/-- The next recorded fault wake. -/
def State.replayWake (s : State) (f : Nat) : State :=
  match s.jrnNext f 3 with
  | none => s
  | some (i, e) =>
    if (s.part (s.func f).part).opened.any (fun o => o.rec_.func == f && o.seq == some (field e 16 8)) then
      (s.jrnTake f 3 i).closeRecords f (fun o => o.seq == some (field e 16 8))
    else s

/-- REPLAY: a command, or under a journal's replay the next recorded wake; a COUNT of 0 does nothing. -/
def execReplay (func : Nat) (s : State) : Out :=
  if (s.func func).jrnReplays then .next (s.replayWake func)
  else s.runCommand func 2 (fun t e =>
    some (if cmdCount e % 2 ^ 24 = 0 then t else t.replayRange func (cmdAddr e).toNat (cmdCount e % 2 ^ 24) (decide (cmdCount e ≥ 2 ^ 31))))

end Sys2Proof.Machine
end

