-- ==== Sys2Proof/Machine/Summary.lean ====
section
/-! DEFINITION. The RESYNC summary (18 R334, R335). The places of the fields within a record are the model's where the spec
gives only their list (DESIGN CHOICE, log 41). -/
namespace Sys2Proof.Machine

/-- Numbers of so many bytes each, filled with zeros to the record's size. -/
def fields (size : Nat) (xs : List (Nat × Nat)) : List Byte :=
  let b := xs.flatMap (fun (n, x) => bytesLE n x)
  b ++ List.replicate (size - b.length) 0

def boolNum (b : Bool) : Nat := if b then 1 else 0

/-! ### What a summary covers -/

/-- The partitions, functions and whatever belongs to a function: all for the physical function, its own for another. -/
def covers (f g : Nat) : Bool := f == 0 || f == g
def sumParts (s : State) (f : Nat) : List Nat := if f = 0 then List.range 16 else [(s.func f).part]
def sumFuncs (s : State) (f : Nat) : List Nat := if f = 0 then (List.range 1025).filter (fun g => s.funcUp g) else [f]

/-! ### Records -/

/-- Errors counted for a partition, with those found so far in its resident workgroups. -/
def State.sramErrors (s : State) (p : Nat) (f : Workgroup → Nat) (n : Nat) : Nat :=
  s.wgs.foldl (fun n (_, g) => if g.live && s.wgPart g == p then n + f g else n) n

def partRecord (s : State) (p : Nat) : List Byte :=
  let x := s.part p
  fields 64 [(4, p), (4, boolNum x.en), (4, x.coreList.length), (4, x.channels), (4, x.heatk), (4, x.fqhead.toNat), (4, x.fqtail.toNat),
    (4, boolNum x.fqovf), (4, s.sramErrors p Workgroup.corr x.sramCorr), (4, x.hbmCorr), (4, s.sramErrors p Workgroup.uncorr x.uncorr), (4, (s.contexts p).length)]

def pendingCommands (x : Func) : Nat := if x.cqen then (x.cqtail - x.cqhead).toNat else 0

def funcRecord (s : State) (f : Nat) : List Byte :=
  let x := s.func f
  fields 64 [(4, f), (4, x.part), (4, boolNum x.vfen), (4, x.weight), (8, (BitVec.ofInt 64 x.ctx.deficit).toNat), (4, x.cqhead.toNat),
    (4, x.cqtail.toNat), (4, pendingCommands x), (4, x.ignoredTails), (4, x.dropped), (4, 0), (8, x.lastSeq.toNat)]

/-- 0 resident, 1 saved, 2 held after DIVERGE, 3 on the ladder. -/
def contextState (s : State) (f : Nat) : Nat :=
  let x := (s.func f).ctx
  if x.diverged then 2
  else if x.request.isSome || (s.funcWgs f).any (fun k => (s.wg k).request.isSome) then 3
  else if s.residentNow (s.func f).part f then 0 else 1

def frozenWarps (s : State) (f : Nat) : Nat :=
  ((s.funcWgs f).flatMap (fun k => (s.wgSlots (s.wg k).core k).filter (fun i => (s.warp (s.wg k).core i).isFrozen))).length +
    ((s.func f).ctx.saved.flatMap (fun (v : SavedWg) => v.warps.filter (fun (_, w) => w.isFrozen))).length

def contextRecord (s : State) (f : Nat) : List Byte :=
  let x := (s.func f).ctx
  fields 64 [(4, f), (4, contextState s f), (4, (s.funcWgs f).length), (4, x.saved.length), (4, frozenWarps s f),
    (4, ((s.part (s.func f).part).queue.filter (fun i => (s.launch i).func == f)).length), (4, x.placeRetries)]

/-- A handler-table entry (15 R285). -/
def handlerRecord (h : HandlerRow) : List Byte := fields 16 [(8, h.pc.toNat), (1, h.teams), (1, h.size), (2, h.budget), (1, boolNum h.set)]

def noHandler : HandlerRow := {}
def launchRecordBytes (s : State) (lid : Nat) : List Byte :=
  let l := s.launch lid
  fields 64 [(8, lid), (8, l.state.code), (8, l.next), (8, l.retired), (8, field l.record 24 8)] ++
    (List.range 16).flatMap (fun i => handlerRecord (get noHandler l.handlers i))

/-- Upcalls of a walk that are outstanding (12 R244). -/
def outstanding (ups : List Upcall) (w : Walk) : Nat := (ups.filter (fun u => u.wid == w.wid && u.wg == w.wg)).length

def walkRecord (lid : Nat) (ups : List Upcall) (w : Walk) : List Byte :=
  fields 32 [(8, w.wid), (8, lid), (4, wkCode w.state), (4, w.status), (4, w.depth), (4, outstanding ups w)]

def collCode : CollState → Nat
  | .queued => 0 | .running => 1 | .finishing => 1 | .voting => 2 | .closing _ => 1

def collRecord (s : State) (p : Nat) (c : Collective) : List Byte :=
  let e := ((s.groupEntry p (collGroup c.desc)).getD [])
  let e := if c.state = .queued then e else c.entry
  fields 32 [(4, p), (4, collGroup c.desc), (4, c.seq), (4, entryEpoch e), (4, entryFlags e / 2 % 2), (4, collCode c.state)]

def digestRecord (f slot : Nat) (d : DigestSlot) : List Byte :=
  fields 32 [(2, f), (1, slot), (1, d.state.code), (1, d.lastErr), (3, 0), (8, d.laneA.toNat), (8, d.laneB.toNat)]

/-! ### Sections -/

def sumWalks (s : State) (f : Nat) : List (List Byte) :=
  (s.cores.flatMap (fun (_, k) => (k.walks.filter (fun w => covers f (s.wgFunc (s.wg w.wg)))).map (fun w => walkRecord (s.wg w.wg).lid k.upcalls w))) ++
    ((s.funcs.filter (fun (g, _) => covers f g)).flatMap (fun (_, x) => x.ctx.saved.flatMap (fun (v : SavedWg) =>
      v.walks.map (fun w => walkRecord v.wg.lid v.upcalls w))))

/-- The eight sections, each a list of records; a virtual function's summary has no collectives (18 R334). -/
def summarySections (s : State) (f : Nat) : List (List (List Byte)) :=
  [(sumParts s f).map (partRecord s),
   (sumFuncs s f).map (funcRecord s),
   ((s.funcs.map Prod.fst).filter (fun g => covers f g && s.hasContext g)).map (contextRecord s),
   (s.launches.filter (fun (_, l) => l.live && covers f l.func)).map (fun (i, _) => launchRecordBytes s i),
   s.parts.flatMap (fun (_, p) => (p.opened.filter (fun o => o.seq.isSome && covers f o.rec_.func)).map (fun o => o.rec_.bytes (o.seq.getD 0))),
   sumWalks s f,
   if f = 0 then s.parts.flatMap (fun (i, p) => p.colls.map (collRecord s i)) else [],
   (s.funcs.filter (fun (g, _) => covers f g)).flatMap (fun (g, x) => x.digests.map (fun (i, d) => digestRecord g i d))]

/-- Whole records, one after another, that fit in a number of bytes. -/
def fitRecords : Nat → List (List Byte) → List (List Byte)
  | _, [] => []
  | room, r :: rest => if r.length ≤ room then r :: fitRecords (room - r.length) rest else []

/-- The header of 64 bytes. -/
def summaryHeader (s : State) (total : Nat) (trunc : Bool) (counts : List Nat) : List Byte :=
  fields 64 ([(4, 1), (4, total), (1, boolNum trunc + 2 * boolNum s.narrow + 4 * boolNum s.hot), (1, s.step), (2, s.power), (4, s.recov),
    (8, s.now)] ++ counts.map (fun n => (2, n)))

/-- The summary for a function, as much of it as a buffer of `n` bytes holds. -/
def summaryBytes (s : State) (f n : Nat) : List Byte :=
  let secs := summarySections s f
  let all := secs.flatten
  let total := 64 + (all.map List.length).sum
  let h := summaryHeader s total (decide (n < total)) (secs.map List.length)
  if n < 64 then h.take n else h ++ (fitRecords (n - 64) all).flatten

/-- RESYNC (13 R259; 18 R334): the summary is written before HEAD passes, or the command is skipped. -/
def State.writeSummary (s : State) (f : Nat) (va : Word) (n : Nat) : State :=
  let bs := summaryBytes s f n
  match s.fwWriteAll (s.fwRecord f 0 0) (s.func f).part f bs (pieces va.toNat bs.length) 0 with
  | .ok t _ => t
  | .fault c fl a => s.skipRecord f c fl a

/-- RESYNC. -/
def execResync (func : Nat) (s : State) : Out :=
  s.runCommand func 0x10 (fun t e => some (t.writeSummary func (cmdAddr e) (cmdCount e)))

end Sys2Proof.Machine
end

