-- ==== Sys2Proof/Machine/Device.lean ====
section
/-! DEFINITION. Registers of the functions (00 R5, R6; 14 R262; 15 R275, R282, R286-R288; 17 R308; 18 R331, R336), partitions, the
journal, launch packets (13 R260; 15 R287), links, power (18 R330-R332), recovery (18 R338), reset (18 R339), attestation
(18 R340), host accesses (11 R222). An event whose condition does not hold leaves the state. -/
namespace Sys2Proof.Machine

/-! ### Partitions (15 R286) -/

/-- Two masks share a core or a channel. -/
def masksMeet (a b : Sparse Word) : Bool := a.any (fun (i, w) => w &&& get 0 b i != 0)
def maskEmpty (a : Sparse Word) : Bool := a.all (fun (_, w) => w == 0)

/-- The partition has no core or no channel, or one of its cores, channels or ports is another enabled partition's. -/
def State.enableRefused (s : State) (p : Nat) (x : Partition) : Bool :=
  maskEmpty x.cores || maskEmpty x.chans || s.parts.any (fun (q, y) =>
    q != p && y.en && (masksMeet x.cores y.cores || masksMeet x.chans y.chans || x.cxl &&& y.cxl != 0))

/-- A function whose VFPART.PART names the partition has a context. -/
def State.inUse (s : State) (p : Nat) : Bool := s.funcs.any (fun (f, x) => x.part == p && s.hasContext f)

def heatkStored (k : Nat) : Nat := if 8 ≤ k ∧ k ≤ 16 then k else 12

/-- PARTCTL written (DEDUCED, log 45). -/
def State.writePartctl (s : State) (p : Nat) (v : Word) : State :=
  let x := s.part p
  let y : Partition := { x with err := x.err && !v.getLsbD 1, heatk := heatkStored (bits v 16 5)
                                cxl := if x.en then x.cxl else v.extractLsb' 21 4 }
  if v.getLsbD 0 == x.en then s.setPart p y
  else
    let refused := if x.en then s.inUse p else s.enableRefused p y
    s.setPart p (if refused then { y with err := true } else { y with en := !x.en, err := false })

/-- PARTITION_ENABLE: a write to PARTCTL with EN set. -/
def execPartitionEnable (part : Nat) (value : Word) (s : State) : Out :=
  if value.getLsbD 0 ∧ partNumber part then .next (s.writePartctl part value) else .next s

/-- PARTITION_DISABLE: a write to PARTCTL with EN clear. -/
def execPartitionDisable (part : Nat) (value : Word) (s : State) : Out :=
  if !value.getLsbD 0 ∧ partNumber part then .next (s.writePartctl part value) else .next s

/-- VFPART written: ignored while the function has a context. -/
def State.writeVfpart (s : State) (f : Nat) (v : Word) : State :=
  if s.hasContext f then s else (s.modFunc f (fun x => { x with vfen := v.getLsbD 4, part := bits v 0 4 })).dropCached f (fun _ => true)

/-- VFPART_WRITE. -/
def execVfpartWrite (func : Nat) (value : Word) (s : State) : Out := if funcNumber func then .next (s.writeVfpart func value) else .next s

/-! ### The journal's register (18 R336, R337) -/

/-- JRNCTL written: a recording starts at position 0 (DESIGN CHOICE, log 129), a replay at the oldest entry (DESIGN CHOICE, log 42). -/
def Func.writeJrnctl (x : Func) (v : Word) : Func :=
  let kept := if x.jrnOn then keepBits x.jrn 7 50 else keepBits v 12 45 ||| keepBits v 7 5
  let y : Func := { x with
    jrn := kept ||| keepBits v 0 2
    jrnPos := if v.getLsbD 0 && !x.jrnOn then 0 else x.jrnPos
    jrnWords := if v.getLsbD 0 && !x.jrnOn then [] else x.jrnWords }
  if v.getLsbD 1 && !x.jrnReplays then { y with
    jrnRead := (List.range 7).foldl (fun m k => put 0 m k y.jrnOldest) [], jrnWords := y.jrnWords.map (fun (i, a, _) => (i, a, false)) } else y

/-- JOURNAL_ENABLE: a write to JRNCTL with EN set. -/
def execJournalEnable (func : Nat) (value : Word) (s : State) : Out :=
  if value.getLsbD 0 ∧ funcNumber func then .next (s.modFunc func (fun x => x.writeJrnctl value)) else .next s

/-- JOURNAL_REPLAY: a write to JRNCTL with REPLAY set. -/
def execJournalReplay (func : Nat) (value : Word) (s : State) : Out :=
  if value.getLsbD 1 ∧ funcNumber func then .next (s.modFunc func (fun x => x.writeJrnctl value)) else .next s

/-! ### The register map -/

/-- The registers of BAR0, with the partition or function and the index that an offset names. -/
inductive HostReg where
  | cqbase | cqctl | cqnotify | tlt
  | pstimers (p : Nat) | psquanta (p : Nat) | vfweight (f : Nat) | vftroot (f : Nat)
  | fqbase (p : Nat) | fqctl (p : Nat) | fqptr (p : Nat)
  | partctl (p : Nat) | partcore (p d : Nat) | partchan (p j : Nat) | partheat (p : Nat)
  | vfpart (f : Nat) | cgtbase (p : Nat) | pwrcap | pwrstat | jrnctl (f : Nat)
deriving DecidableEq, Repr

/-- A register of a partition's block of 256 bytes. -/
def partReg (off : Nat) (pick : Nat → Nat → Option HostReg) : Option HostReg :=
  if off / 256 < 16 then pick (off / 256) (off % 256) else none
/-- A register of a function's 8 bytes. -/
def funcReg (off : Nat) (pick : Nat → HostReg) : Option HostReg := if off % 8 = 0 ∧ off / 8 ≤ 1024 then some (pick (off / 8)) else none

/-- The register at an offset of a function's BAR0: queue registers and TLT in each, the others in the physical function's. -/
def hostReg (func off : Nat) : Option HostReg :=
  if off < 0x10000 then
    match off with
    | 0x0000 => some .cqbase
    | 0x0008 => some .cqctl
    | 0x0010 => some .cqnotify
    | 0x0020 => some .tlt
    | _ => none
  else if func ≠ 0 then none
  else
    let o := off % 0x10000
    match off / 0x10000 with
    | 1 => partReg o (fun p r => match r with | 0 => some (.pstimers p) | 8 => some (.psquanta p) | _ => none)
    | 2 => funcReg o .vfweight
    | 3 => funcReg o .vftroot
    | 4 => partReg o (fun p r => match r with | 0 => some (.fqbase p) | 8 => some (.fqctl p) | 16 => some (.fqptr p) | _ => none)
    | 5 => partReg o (fun p r =>
        if r = 0 then some (.partctl p)
        else if r % 8 = 0 ∧ 8 ≤ r ∧ r < 0x28 then some (.partcore p (r / 8 - 1))
        else if r % 8 = 0 ∧ 0x28 ≤ r ∧ r < 0x58 then some (.partchan p (r / 8 - 5))
        else if r = 0x60 then some (.partheat p) else none)
    | 6 => funcReg o .vfpart
    | 7 => partReg o (fun p r => match r with | 0 => some (.cgtbase p) | _ => none)
    | 8 => match o with | 0 => some .pwrcap | 8 => some .pwrstat | _ => none
    | 9 => funcReg o .jrnctl
    | _ => none

/-- A register written, field by field as its access codes give. -/
def State.writeReg (s : State) (func : Nat) (r : HostReg) (v : Word) : State :=
  match r with
  | .cqbase => s.modFunc func (fun x => x.writeCqbase v)
  | .cqctl => s.modFunc func (fun x => x.writeCqctl v)
  | .cqnotify => s.modFunc func (fun x => x.writeTail (v.setWidth 32))
  | .tlt => s.modFunc func (fun x => { x with tlt := keepBits v 0 57 })
  | .pstimers p => s.modPart p (fun x => { x with timers := { kill := bits v 32 32, bardefer := bits v 16 16, grace := bits v 0 16 } })
  | .psquanta p => s.modPart p (fun x => { x with wgq := bits v 32 32, qbase := bits v 0 32 })
  | .vfweight f => s.modFunc f (fun x => { x with weight := max 1 (bits v 0 8) })
  | .vftroot f => (s.modFunc f (fun x => { x with vftroot := keepBits v 0 41 ||| keepBits v 43 21 })).dropCached f (fun _ => true)
  | .fqbase p => s.modPart p (fun x => x.writeFqbase v)
  | .fqctl p => s.modPart p (fun x => x.writeFqctl v)
  | .fqptr p => s.modPart p (fun x => x.writeHead (v.setWidth 32))
  | .partctl p => s.writePartctl p v
  | .partcore p d => s.modPart p (fun x => if x.en then x else { x with cores := put 0 x.cores d v })
  | .partchan p j => s.modPart p (fun x => if x.en then x else { x with chans := put 0 x.chans j v })
  | .partheat p => s.modPart p (fun x => { x with heatBase := keepBits v 16 36 })
  | .vfpart f => s.writeVfpart f v
  | .cgtbase p => s.modPart p (fun x => { x with cgtbase := keepBits v 14 43 ||| keepBits v 0 1 })
  | .pwrcap => { s with watts := min 2800 (max 1000 (bits v 0 12)) }
  | .pwrstat => s
  | .jrnctl f => s.modFunc f (fun x => x.writeJrnctl v)

/-- What a read of a register returns: reserved and write-only fields are zero. -/
def State.readReg (s : State) (func : Nat) (r : HostReg) : Nat :=
  match r with
  | .cqbase => (s.func func).cqbase.toNat
  | .cqctl => (s.func func).cqlog * 2 + boolNum (s.func func).cqen
  | .cqnotify => (s.func func).cqhead.toNat * 2 ^ 32
  | .tlt => (s.func func).tlt.toNat
  | .pstimers p => (s.part p).timers.kill * 2 ^ 32 + (s.part p).timers.bardefer * 2 ^ 16 + (s.part p).timers.grace
  | .psquanta p => (s.part p).wgq * 2 ^ 32 + (s.part p).qbase
  | .vfweight f => (s.func f).weight
  | .vftroot f => (s.func f).vftroot.toNat
  | .fqbase p => (s.part p).fqbase.toNat
  | .fqctl p => boolNum (s.part p).fqovf * 64 + (s.part p).fqlog * 2 + boolNum (s.part p).fqen
  | .fqptr p => (s.part p).fqtail.toNat * 2 ^ 32 + (s.part p).fqhead.toNat
  | .partctl p => (s.part p).cxl.toNat * 2 ^ 21 + (s.part p).heatk * 2 ^ 16 + boolNum (s.part p).err * 2 + boolNum (s.part p).en
  | .partcore p d => (get 0 (s.part p).cores d).toNat
  | .partchan p j => (get 0 (s.part p).chans j).toNat
  | .partheat p => (s.part p).heatBase.toNat
  | .vfpart f => boolNum (s.func f).vfen * 16 + (s.func f).part
  | .cgtbase p => (s.part p).cgtbase.toNat
  | .pwrcap => s.watts
  | .pwrstat => s.power * 2 ^ 32 + s.temp * 2 ^ 8 + s.step
  | .jrnctl f => (s.func f).jrn.toNat

/-- REGISTER_WRITE: the register at an offset of a function's BAR0; a write where none stands is ignored. -/
def execRegisterWrite (func offset : Nat) (value : Word) (s : State) : Out :=
  if s.funcUp func then
    match hostReg func offset with
    | some r => .next (s.writeReg func r value)
    | none => .next s
  else .next s

/-! ### Launch packets (13 R260; 15 R287; 18 R336) -/

/-- The packet passes the interface's checks against the tenant's entry. -/
def packetOk (e : List Byte) (seq : Word) (srcdev : BitVec 32) (alen : Nat) : Bool :=
  field e 28 1 % 2 == 1 && decide (field e 20 4 ≤ srcdev.toNat) && decide (srcdev.toNat ≤ field e 24 4) &&
    decide (fieldW e 32 8 < seq) && decide (alen ≤ min 4096 (field e 16 4))

/-- A raw journal entry of argument bytes (DESIGN CHOICE, log 42). -/
def rawEntry (args : List Byte) (j : Nat) : List Byte :=
  let b := (args.drop (24 * j)).take 24
  List.replicate 8 0 ++ b ++ List.replicate (24 - b.length) 0

/-- The packet's arguments recorded. -/
def State.journalPacket (s : State) (f entry : Nat) (seq : Word) (args : List Byte) (lid : Nat) : State :=
  (List.range ((args.length + 23) / 24)).foldl (fun s j => s.journalRaw f (rawEntry args j))
    (s.journal f 6 (lid % 2 ^ 32) (entry + seq.toNat % 2 ^ 48 * 2 ^ 16) args.length)

def State.dropPacket (s : State) (f : Nat) : State := s.modFunc f (fun x => { x with dropped := x.dropped + 1 })

/-- An accepted packet: arguments, LASTSEQ, and the launch of the entry's record. -/
def State.acceptPacket (s : State) (f entry : Nat) (e : List Byte) (seq : Word) (args : List Byte) : State :=
  let p := (s.func f).part
  let r := s.fwRecord f 0 0
  match s.fwWriteAll r p f args (pieces (field e 8 8) args.length) 0 with
  | .fault _ _ _ => s.dropPacket f
  | .ok t _ =>
    match t.fwWrite r p f (bits (t.func f).tlt 6 51 * 64 + 64 * entry + 32) (bytesLE 8 seq.toNat) with
    | .fault _ _ _ => s.dropPacket f
    | .ok u _ =>
      let u := u.modFunc f (fun x => { x with lastSeq := seq })
      match u.fwRead (u.fwRecord f 0 0) p f (field e 0 8) 128 with
      | .fault c fl a => u.skipRecord f c fl a
      | .ok v rec_ => ((v.journalPacket f entry seq args (v.part p).nextLaunch).acceptLaunch p f (fieldW e 0 8) rec_).1

/-- A launch packet for the function can arrive: the function exists (01 R10), and an Ethernet port is enabled (01 R12) (DESIGN
CHOICE, log 121). -/
def State.packetHeard (s : State) (tenant : Nat) : Bool := funcNumber tenant && s.booted.eth != 0

/-- LAUNCH_PACKET: accepted, or dropped and counted; it waits while launch storage is full, or a replay takes the
function's launches from its journal (18 R337) (DEDUCED, log 47). -/
def execLaunchPacket (tenant entry : Nat) (seq : Word) (srcdev : BitVec 32) (args : List Byte) (s : State) : Out :=
  let x := s.func tenant
  if !s.packetHeard tenant then .next s
  else if !s.maySubmit tenant ∨ !x.tlt.getLsbD 5 ∨ entry ≥ 2 ^ min 12 (bits x.tlt 0 5) then .next (s.dropPacket tenant)
  else if s.launchFull tenant ∨ x.jrnReplays then .next s
  else
    match s.tenantEntry tenant entry with
    | .fault _ _ _ => .next (s.dropPacket tenant)
    | .ok t e => if packetOk e seq srcdev args.length then .next (t.acceptPacket tenant entry e seq args) else .next (t.dropPacket tenant)

/-! ### Links (01 R13; 09 R178) -/

/-- CXL_LINK_DOWN: a port of the partition is down; accesses through it fail as R178 gives. -/
def execCxlLinkDown (part port : Nat) (s : State) : Out :=
  if (s.part part).cxl.getLsbD port then .next { s with cxlDown := s.cxlDown ||| (1 <<< port) } else .next s

/-- LINK_TRAINING: a host link narrower than x8 brings up the physical function only. -/
def execLinkTraining (width : Nat) (s : State) : Out := .next { s with narrow := decide (width < 8) }

/-! ### Power and recovery (18 R330-R332, R338) -/

/-- The resident context of a partition receives a forced halt. -/
def State.haltPart (s : State) (p : Nat) : State :=
  match (s.part p).turn with
  | none => s
  | some f =>
    (s.haltContext f).endTurnOf p

def State.haltAll (s : State) : State := (s.parts.map Prod.fst).foldl (fun s p => s.haltPart p) s

/-- A new step of the clock, recorded in every journal. -/
def State.setStep (s : State) (k : Nat) : State :=
  (s.funcs.map Prod.fst).foldl (fun s f => s.journal f 5 0 k 0) { s with step := k }

/-- A window that counts towards a raise. -/
def State.coolNow (s : State) : Bool := decide (100 * s.power ≤ 95 * s.watts) && decide (s.temp ≤ 90)

/-- The first rule of R332 that holds, after POWER and TEMP are measured. -/
def State.powerRule (s : State) : State :=
  if s.temp ≥ 105 ∧ s.step = 8 then { s.haltAll with hot := true, coolWindows := 0 }
  else if s.power > s.watts ∨ s.temp ≥ 95 then
    let s := { s with coolWindows := 0 }
    if s.step > 8 then s.setStep (s.step - 1) else s
  else if s.coolNow then
    if s.coolWindows + 1 ≥ 4 then
      if s.step < 16 then State.setStep { s with coolWindows := 0 } (s.step + 1) else { s with coolWindows := 4 }
    else { s with coolWindows := s.coolWindows + 1 }
  else { s with coolWindows := 0 }

/-- POWER_WINDOW: the end of a 1 ms window (DEDUCED, log 49). -/
def execPowerWindow (watts temp : Nat) (s : State) : Out :=
  if s.wall < s.windowEnd + usec 1000 then .next s
  else
    let s := { s with power := watts % 2 ^ 12, temp := temp % 2 ^ 8, windowEnd := s.windowEnd + usec 1000
                      hot := s.hot && decide (temp % 2 ^ 8 > 90) }
    .next s.powerRule

/-- LOCKSTEP_MISMATCH: every resident context is halted and saved, and is resumed first; the ladder's timers restart (DEDUCED, log 48). -/
def execLockstepMismatch (s : State) : Out :=
  let s := { s with parts := s.parts.map (fun ((i, x) : Nat × Partition) =>
    (i, if x.turn.isSome then { x with resume := x.turn } else x)) }
  let s := s.haltAll
  .next { s with
    recov := s.recov + 1
    wgs := s.wgs.map (fun ((i, g) : Nat × Workgroup) => (i, { g with request := g.request.map (fun _ => s.wall) }))
    funcs := s.funcs.map (fun ((i, x) : Nat × Func) => (i, { x with ctx := { x.ctx with request := x.ctx.request.map (fun _ => s.wall) } })) }

/-! ### Reset (18 R339; DESIGN CHOICE, log 3) -/

/-- The device boots from what flash holds: everything verifies, and it is no rollback. -/
def State.boots (s : State) : Bool := s.flash.verifies && decide (s.flashVersion ≤ s.flash.version)

/-- The manifest applied to the cores: their usable banks, which POOLCAP reads (01 R12; 06 R101). -/
def manifestCores (m : FlashImage) : Sparse Core := m.banks.foldl (fun cs (c, n) => put noCore cs c { noCore with banks := min 128 n }) []

/-- DEVICE_RESET: the images verify, and the device boots and applies the manifest, a disabled port having no link; or only the
physical function is enabled, in recovery mode. What is outside the device stays: pooled and host memory, flash, and the
inputs. -/
def execDeviceReset (s : State) : Out :=
  let s2 : State := { State.reset with
    mem := s.mem.filter (fun c => decide (16 * 2 ^ 64 ≤ c.1) && decide (c.1 < 2 ^ 120))
    kvLines := s.kvLines.filter (fun c => decide (2 ^ 62 ≤ c.1) && decide (c.1 < 2 ^ 114))
    flash := s.flash, flashVersion := s.flashVersion, booted := s.booted, narrow := s.narrow
    atsRefused := s.atsRefused, fabric := s.fabric, out := s.out, agenda := s.agenda, freeCtr := s.freeCtr }
  .next (if s.boots then { s2 with booted := s.flash, flashVersion := s.flash.version, cores := manifestCores s.flash, cxlDown := ~~~s.flash.ports }
    else { s2 with recovery := true })

/-- NEW_FLASH_IMAGE: in recovery mode the physical function accepts an image (DESIGN CHOICE, log 50). -/
def execNewFlashImage (image : FlashImage) (s : State) : Out := if s.recovery then .next { s with flash := image } else .next s

/-! ### Attestation (18 R340; DESIGN CHOICE, log 13) -/

/-- A response goes out. -/
def State.respond (s : State) (r : SpdmReply) : State := s.send (.spdm r)

/-- The chain of certificate slot 0, from Foraeda's root to the identity key. -/
def certChain : List Byte := Config.attest 5 []

/-- GET_VERSION: SPDM 1.3. -/
def execGetVersion (s : State) : Out := .next (s.respond (.version 1 3))
/-- GET_CAPABILITIES: no secured sessions. -/
def execGetCapabilities (s : State) : Out := .next (s.respond (.capabilities false))
/-- NEGOTIATE_ALGORITHMS: ECDSA P-384 and SHA-384, bit 7 and bit 1 of their fields (PRESUMED, log 112). -/
def execNegotiateAlgorithms (s : State) : Out := .next (s.respond (.algorithms 0x80 0x02))
/-- GET_DIGESTS: slot 0 alone holds a chain. -/
def execGetDigests (s : State) : Out := .next (s.respond (.digests [(0, sha384 certChain)]))
/-- GET_CERTIFICATE: slot 0 alone holds a chain. -/
def execGetCertificate (slot : Nat) (s : State) : Out := .next (s.respond (if slot = 0 then .certificate 0 certChain else .error))
/-- CHALLENGE: signed with the identity key. -/
def execChallenge (nonce : List Byte) (s : State) : Out := .next (s.respond (.challengeAuth 0 (sha384 certChain) (Config.attest 6 nonce)))

/-- PARTCTL, PARTCORE and PARTCHAN of every partition, then VFPART of every function: what block 5 measures. -/
def State.measured (s : State) : List Byte :=
  (List.range 16).flatMap (fun p =>
    bytesLE 8 (s.readReg 0 (.partctl p)) ++ (List.range 4).flatMap (fun d => bytesLE 8 (s.readReg 0 (.partcore p d))) ++
      (List.range 6).flatMap (fun j => bytesLE 8 (s.readReg 0 (.partchan p j)))) ++
    (List.range 1025).flatMap (fun f => bytesLE 8 (s.readReg 0 (.vfpart f)))

/-- A measurement block: the ROM's digest, or SHA-384 of what the device booted from, or of the partition registers now. -/
def State.measurement (s : State) (index : Nat) : Option (List Byte) :=
  match index with
  | 1 => some (Config.attest 1 [])
  | 2 => some (sha384 s.booted.boot)
  | 3 => some (sha384 s.booted.firmware)
  | 4 => some (sha384 s.booted.manifest)
  | 5 => some (sha384 s.measured)
  | _ => none

/-- GET_MEASUREMENTS: index 0 asks for the number of blocks and 255 for all of them (PRESUMED, log 112). -/
def execGetMeasurements (index : Nat) (s : State) : Out :=
  let block (i : Nat) : List (Nat × List Byte) := (s.measurement i).toList.map (fun d => (i, d))
  .next (s.respond (
    if index = 0 then .measurements 5 []
    else if index = 255 then .measurements 5 ([1, 2, 3, 4, 5].flatMap block)
    else match block index with
      | [] => .error
      | bs => .measurements 5 bs))

/-! ### Host accesses (11 R222; 15 R286) -/

/-- Where the bytes of a host request stand: in the HBM of its partition for the physical function, in its own address space
for another (DESIGN CHOICE, log 43); `none` for a request that completes with an error. -/
def State.hostPlaces (s : State) (f a n : Nat) (write : Bool) : Option (List (Page × Nat)) :=
  let p := (s.func f).part
  if !s.funcUp f ∨ !(s.part p).en then none
  else if f = 0 then
    if a + n ≤ (s.part p).hbmSize then some ((List.range n).map (fun i => (hbmPage p, a + i))) else none
  else
    match s.placeAll p f ((List.range n).map (fun i => (0, a + i))) 1 { write := write } with
    | .ok ps => some (ps.flatMap Prod.snd)
    | _ => none

/-- HOST_AGENT_ACCESS: a read is answered with its bytes, a write is performed. -/
def execHostAgentAccess (func addr : Nat) (req : HostAccess) (s : State) : Out :=
  let p := (s.func func).part
  let r := s.fwRecord func 0x14 0
  match req with
  | .read n =>
    match s.hostPlaces func addr n false with
    | none => .next (s.send .hostError)
    | some ps =>
      let s := (s.findErrors p none r (placeLines ps)).heatLines p 0xFFFF (placeLines ps)
      .next (s.send (.hostData (ps.map (fun (pg, off) => s.readByte p pg off))))
  | .write bs =>
    match s.hostPlaces func addr bs.length true with
    | none => .next (s.send .hostError)
    | some ps =>
      match s.tryWrites p none r 0xFFFF ((ps.zip bs).map (fun ((pg, off), b) => ByteWrite.mk pg off b)) with
      | .ok t => .next t
      | .error a => .next ((s.skipRecord func 0x12 1 a).send .hostError)

/-! ### Heat, storage errors, KVTAB (09 R182-R184; 16 R290) -/

/-- HEAT_TURN_SKIP: 2^k accesses have passed while the port is armed. -/
def execHeatTurnSkip (part port : Nat) (s : State) : Out :=
  let x := s.part part
  .next { s with heat := put noPort s.heat (portKey part port) ((get noPort s.heat (portKey part port)).skip (2 ^ x.heatk) x.coreList.length) }

/-- HEAT_SAMPLE_FORWARD: the first of a partition's samples from position k on arrives at its owner. -/
def execHeatSampleForward (part k : Nat) (s : State) : Out :=
  match s.samples[k]? with
  | none => .next s
  | some x => if x.owner / 512 = part then .next (State.recordHeat { s with samples := s.samples.eraseIdx k } part x.unit (x.owner % 512)) else .next s

/-- HEAT_HALVING: every counter that the port owns becomes half. -/
def execHeatHalving (part port : Nat) (s : State) : Out := .next (s.halveHeat part port)

/-- ERRSTAT_CLEAR: KINDS bits cleared; the last one clears COUNT, FIRST and LOC. -/
def execErrstatClear (wg : Nat) (ones : BitVec 5) (s : State) : Out :=
  if (s.wg wg).live then .next (s.modWg wg (fun g => { g with err := g.err.clear ones })) else .next s

/-- KVTAB_LOAD: KVTAB written with EN by a warp; the descriptor is loaded, or the warp faults. -/
def execKvtabLoad (core slot : Nat) (value : Word) (s : State) : Out :=
  match (s.warp core slot).frontier with
  | [] => .next s
  | e :: _ =>
    if !value.getLsbD 0 then .next s
    else
      match writeKvtab (s.ctxAt (.warp core slot) (s.warp core slot) e (hdrOf (.illegal 0))) s 0 value with
      | .ok t => .next t
      | .error (.over t) => .next t
      | .error _ => .next s

end Sys2Proof.Machine
end

