-- ==== Sys2Proof/Machine/Float.lean ====
section
/-! DEFINITION. The floating-point, packed, special-function and conversion instructions, majors 0x30-0x4A (06 R114-R122),
and the pair word (03 R54-R56). -/
namespace Sys2Proof.Machine

/-! ### Flags, traps and results -/

/-- TRAPINFO of an FPTRAP: the dst field, the enabled exceptions raised, the pair half (06 R117). -/
def fpInfo (dst raised half : Nat) : Word := BitVec.ofNat 64 (dst + raised * 1024 + half * 65536)

/-- The FPX masks with the flags of each lane. -/
def recordFlags (c : Ctx) (s : State) (fl : List (Nat × FpFlags)) : State :=
  s.modIssuer c.who (fun w => { w with fpx := w.fpx.recordAll fl })

/-- A short floating-point word: flags recorded, then a trap or the writes (06 R117). -/
def fpShort (dst : Nat) (fl : List (Nat × FpFlags)) (wr : Warp → Warp) (c : Ctx) (s : State) : Res :=
  let s2 := recordFlags c s fl
  let en := c.w.trap.en.toNat
  let bad := trapLanes en fl
  if bad ≠ 0 then .trap s2 5 bad (fpInfo dst (trapRaised en fl) 0) else .done (s2.modIssuer c.who wr) []

/-- A long-latency floating-point word: its results stand at issue; with a trap enabled it holds the warp, and an enabled
exception traps when it completes (06 R117). -/
def fpLong (dst : Nat) (fl : List (Nat × FpFlags)) (writes : List RegWrite) (c : Ctx) (s : State) : Res :=
  let s2 := recordFlags c s fl
  let en := c.w.trap.en.toNat
  let bad := trapLanes en fl
  let regs := writeRegs writes
  if en = 0 then fly c s2 writes
  else if bad ≠ 0 then
    .stay (launchFlight c s2 .timed regs [] (.trap 5 bad (fpInfo dst (trapRaised en fl) 0)) true false) regs
  else if writes = [] then .done s2 []
  else .done (launchFlight c s2 .timed regs writes .none true false) regs

/-- Results of the lanes that an operation computes, each with its flags. -/
def laneResults (c : Ctx) (d : Operand) (f : Nat → Nat × FpFlags) : List (Nat × Nat × FpFlags) :=
  (opLanes c d).map (fun l => (l, f l))
def resultFlags (rs : List (Nat × Nat × FpFlags)) : List (Nat × FpFlags) := rs.map (fun (l, _, fl) => (l, fl))
def resultAt (rs : List (Nat × Nat × FpFlags)) (l : Nat) : Word :=
  match rs.find? (fun (j, _, _) => j == l) with
  | some (_, x, _) => BitVec.ofNat 64 x
  | none => 0

/-- A short lane operation with flags. -/
def fpBody (d : Operand) (f : Ctx → Nat → Nat × FpFlags) (c : Ctx) (s : State) : Res :=
  let rs := laneResults c d (f c)
  fpShort (encOp d).toNat (resultFlags rs) (fun w => writeDst c w d (resultAt rs)) c s

/-- A long lane operation with flags. -/
def fpLongBody (d : Operand) (f : Ctx → Nat → Nat × FpFlags) (c : Ctx) (s : State) : Res :=
  let rs := laneResults c d (f c)
  fpLong (encOp d).toNat (resultFlags rs) (dstWrite c d (resultAt rs)) c s

/-- An operand read in a floating-point type, subnormals flushed under FTZ (05 R78; 06 R114). -/
def fpSrc (c : Ctx) (t : Ty) (o : Operand) (l : Nat) : FVal := readFp (fmtOf t) c.w.ftz (srcFp c t o l)
/-- The register that C names, likewise. -/
def fpReg (c : Ctx) (t : Ty) (z : BitVec 8) (l : Nat) : FVal := fpSrc c t (.v z) l

/-- The clamp of .sat, after the flags (06 R114). -/
def clampSat (f : Fmt) (sat : Bool) (r : Nat × FpFlags) : Nat × FpFlags := if sat then (satBits f r.1, r.2) else r

/-- Two operands, rounded. -/
def fp3 (op : Fmt → Rnd → Bool → FVal → FVal → Nat × FpFlags) (t : Ty) (rnd : Rnd) (sat : Bool) (a b : Operand)
    (c : Ctx) (l : Nat) : Nat × FpFlags :=
  clampSat (fmtOf t) sat (op (fmtOf t) rnd c.w.ftz (fpSrc c t a l) (fpSrc c t b l))

def execFadd (h : Hdr) (t : Ty) (rnd : Rnd) (sat : Bool) (d a b : Operand) (s : State) : Out :=
  issueWord (.fadd h t rnd sat d a b) (fpBody d (fp3 fpAdd t rnd sat a b)) s
def execFsub (h : Hdr) (t : Ty) (rnd : Rnd) (sat : Bool) (d a b : Operand) (s : State) : Out :=
  issueWord (.fsub h t rnd sat d a b) (fpBody d (fp3 fpSub t rnd sat a b)) s
def execFmul (h : Hdr) (t : Ty) (rnd : Rnd) (sat : Bool) (d a b : Operand) (s : State) : Out :=
  issueWord (.fmul h t rnd sat d a b) (fpBody d (fp3 fpMul t rnd sat a b)) s

/-- FMAC: the product and the sum rounded once (06 R114). -/
def execFmac (h : Hdr) (t : Ty) (rnd : Rnd) (sat : Bool) (d a b : Operand) (z : BitVec 8) (s : State) : Out :=
  issueWord (.fmac h t rnd sat d a b z) (fpBody d (fun c l =>
    clampSat (fmtOf t) sat (fpFma (fmtOf t) rnd c.w.ftz (fpSrc c t a l) (fpSrc c t b l) (fpReg c t z l)))) s

/-- FMIN and FMAX (05 R81). -/
def execFmin (h : Hdr) (t : Ty) (d a b : Operand) (s : State) : Out :=
  issueWord (.fmin h t d a b) (fpBody d (fun c l => fpMinMax (fmtOf t) c.w.ftz false (fpSrc c t a l) (fpSrc c t b l))) s
def execFmax (h : Hdr) (t : Ty) (d a b : Operand) (s : State) : Out :=
  issueWord (.fmax h t d a b) (fpBody d (fun c l => fpMinMax (fmtOf t) c.w.ftz true (fpSrc c t a l) (fpSrc c t b l))) s
def execFabs (h : Hdr) (t : Ty) (d a : Operand) (s : State) : Out :=
  issueWord (.fabs h t d a) (fpBody d (fun c l => fpAbs (fmtOf t) c.w.ftz (fpSrc c t a l))) s
def execFneg (h : Hdr) (t : Ty) (d a : Operand) (s : State) : Out :=
  issueWord (.fneg h t d a) (fpBody d (fun c l => fpNeg (fmtOf t) c.w.ftz (fpSrc c t a l))) s
def execFrnd (h : Hdr) (t : Ty) (rnd : Rnd) (d a : Operand) (s : State) : Out :=
  issueWord (.frnd h t rnd d a) (fpBody d (fun c l => fpRound (fmtOf t) rnd c.w.ftz (fpSrc c t a l))) s

/-- FCLASS ignores FTZ and sets no flag (06 R115). -/
def execFclass (h : Hdr) (t : Ty) (d a : Operand) (s : State) : Out :=
  issueWord (.fclass h t d a) (laneBody d (fun c l => BitVec.ofNat 64 (2 ^ fpClass (fmtOf t) (srcFp c t a l)))) s

/-- FCMP (06 R115): the predicate in each active lane, FPXI for a signalling NaN; its destination is no s register, so it is
no scalar-unit word (03 R50; 06 R109). -/
def fcmpBody (t : Ty) (p : BitVec 3) (cc : FCond) (a b : Operand) (c : Ctx) (s : State) : Res :=
  let r (l : Nat) : Bool × FpFlags := fpCompare cc (fpSrc c t a l) (fpSrc c t b l)
  fpShort p.toNat ((lanesOf c.act).map (fun l => (l, (r l).2))) (fun w => w.writeP p.toNat c.act (maskOf (fun l => (r l).1))) c s
def execFcmp (h : Hdr) (t : Ty) (p : BitVec 3) (cc : FCond) (a b : Operand) (s : State) : Out :=
  issueWord (.fcmp h t p cc a b) (fcmpBody t p cc a b) s

/-! ### Long latency (06 R114, R116) -/

def execFdiv (h : Hdr) (t : Ty) (rnd : Rnd) (d a b : Operand) (s : State) : Out :=
  issueWord (.fdiv h t rnd d a b) (fpLongBody d (fun c l => fpDiv (fmtOf t) rnd c.w.ftz (fpSrc c t a l) (fpSrc c t b l))) s
def execFsqrt (h : Hdr) (t : Ty) (rnd : Rnd) (d a : Operand) (s : State) : Out :=
  issueWord (.fsqrt h t rnd d a) (fpLongBody d (fun c l => fpSqrt (fmtOf t) rnd c.w.ftz (fpSrc c t a l))) s

def execFrcp (h : Hdr) (t : Ty) (d a : Operand) (s : State) : Out :=
  issueWord (.frcp h t d a) (fpLongBody d (fun c l => fpRcp t c.w.ftz (srcFp c t a l))) s
def execFrsq (h : Hdr) (t : Ty) (d a : Operand) (s : State) : Out :=
  issueWord (.frsq h t d a) (fpLongBody d (fun c l => fpRsq t c.w.ftz (srcFp c t a l))) s
def execFexp2 (h : Hdr) (t : Ty) (d a : Operand) (s : State) : Out :=
  issueWord (.fexp2 h t d a) (fpLongBody d (fun c l => fpExp2 t c.w.ftz (srcFp c t a l))) s
def execFlog2 (h : Hdr) (t : Ty) (d a : Operand) (s : State) : Out :=
  issueWord (.flog2 h t d a) (fpLongBody d (fun c l => fpLog2 t c.w.ftz (srcFp c t a l))) s
def execFsin (h : Hdr) (t : Ty) (d a : Operand) (s : State) : Out :=
  issueWord (.fsin h t d a) (fpLongBody d (fun c l => fpSinCos false t c.w.ftz (srcFp c t a l))) s
def execFcos (h : Hdr) (t : Ty) (d a : Operand) (s : State) : Out :=
  issueWord (.fcos h t d a) (fpLongBody d (fun c l => fpSinCos true t c.w.ftz (srcFp c t a l))) s
def execFtanh (h : Hdr) (t : Ty) (d a : Operand) (s : State) : Out :=
  issueWord (.ftanh h t d a) (fpLongBody d (fun c l => fpTanh t c.w.ftz (srcFp c t a l))) s

/-! ### Packed halves (06 R118) -/

/-- One half of an operand: 16 bits of a register, or the converted value in both halves. -/
def halfSrc (c : Ctx) (t : Ty) (o : Operand) (k l : Nat) : FVal :=
  readFp (fmtOf t) c.w.ftz (match o with
    | .imm _ | .sp _ => srcFp c t o l
    | o => bits (src64 c o l) (16 * k) 16)

/-- Both halves, the flags united, the upper word zero. -/
def packed (f : Nat → Nat × FpFlags) : Nat × FpFlags := ((f 0).1 + (f 1).1 * 65536, (f 0).2.or (f 1).2)

def packed3 (op : Fmt → Rnd → Bool → FVal → FVal → Nat × FpFlags) (t : Ty) (rnd : Rnd) (sat : Bool) (a b : Operand)
    (c : Ctx) (l : Nat) : Nat × FpFlags :=
  packed (fun k => clampSat (fmtOf t) sat (op (fmtOf t) rnd c.w.ftz (halfSrc c t a k l) (halfSrc c t b k l)))

def execHadd2 (h : Hdr) (t : Ty) (rnd : Rnd) (sat : Bool) (d a b : Operand) (s : State) : Out :=
  issueWord (.hadd2 h t rnd sat d a b) (fpBody d (packed3 fpAdd t rnd sat a b)) s
def execHmul2 (h : Hdr) (t : Ty) (rnd : Rnd) (sat : Bool) (d a b : Operand) (s : State) : Out :=
  issueWord (.hmul2 h t rnd sat d a b) (fpBody d (packed3 fpMul t rnd sat a b)) s
def execHmac2 (h : Hdr) (t : Ty) (rnd : Rnd) (sat : Bool) (d a b : Operand) (z : BitVec 8) (s : State) : Out :=
  issueWord (.hmac2 h t rnd sat d a b z) (fpBody d (fun c l => packed (fun k => clampSat (fmtOf t) sat
    (fpFma (fmtOf t) rnd c.w.ftz (halfSrc c t a k l) (halfSrc c t b k l) (halfSrc c t (.v z) k l))))) s

/-! ### Conversions (06 R119-R121) -/

/-- CVT of one lane. -/
def cvtLane (dt st : Ty) (rnd : Rnd) (sat : Bool) (a : Operand) (c : Ctx) (l : Nat) : Nat × FpFlags :=
  if st.isInt then
    let x := intOf st (srcInt c st a l)
    if dt.isInt then ((wordOf dt (if sat then clampInt dt x else x)).toNat, .none) else fpOfInt (fmtOf dt) rnd x
  else
    let x := fpSrc c st a l
    if dt.isInt then
      let (y, fl) := fpToInt dt rnd x
      ((wordOf dt y).toNat, fl)
    else clampSat (fmtOf dt) sat (packVal (fmtOf dt) rnd c.w.ftz x)

def execCvt (h : Hdr) (dt st : Ty) (rnd : Rnd) (sat : Bool) (d a : Operand) (s : State) : Out :=
  issueWord (.cvt h dt st rnd sat d a) (fpBody d (cvtLane dt st rnd sat a)) s

/-- The bits of a narrow format. -/
def narrowBits (t6 : Bool) : Nat := if t6 then 6 else 8

/-- A scale and a code in the form of a lane's narrow value (06 R120). -/
def narrowLane (sc : Int) (code : Nat) : Nat := (sc % 256).toNat * 256 + code

/-- CVTN: the scale is given, or that of the line which the active lanes form; it sets no flag. -/
def cvtnBody (t6 : Bool) (b : Option Operand) (d a : Operand) (c : Ctx) (s : State) : Res :=
  let n := narrowBits t6
  let auto := lineScale ((opLanes c d).map (fun l => fpSrc c .f32 a l))
  let sc (l : Nat) : Int := match b with
    | some b => max (-127) (min 127 (src64 c b l).toInt)
    | none => auto
  fly c s (dstWrite c d (fun l => BitVec.ofNat 64 (narrowLane (sc l) (encodeTaper n ((fpSrc c .f32 a l).scale (-(sc l)))))))
def execCvtn (h : Hdr) (t6 : Bool) (b : Option Operand) (d a : Operand) (s : State) : Out :=
  issueWord (.cvtn h t6 b d a) (cvtnBody t6 b d a) s

/-- CVTW of one lane: scale byte 0x80 and NaR give the canonical NaN; an immediate is its code with scale 0 (03 R53), and a special
operand's value is taken as scale and code, unconverted (03 R51) (DEDUCED, log 97). -/
def cvtwLane (t : Ty) (t6 : Bool) (rnd : Rnd) (a : Operand) (c : Ctx) (l : Nat) : Nat × FpFlags :=
  let x : Word := match a with
    | .imm k => BitVec.ofNat 64 (encodeTaper (narrowBits t6) (.fin (decide (k.toInt < 0)) k.toInt.natAbs 0))
    | a => src64 c a l
  let n := narrowBits t6
  let v : FVal := if bits x 8 8 = 0x80 then .nan false else (taperDecode n (bits x 0 n)).scale (signedNat 8 (bits x 8 8))
  packVal (fmtOf t) rnd c.w.ftz v
def execCvtw (h : Hdr) (t : Ty) (t6 : Bool) (rnd : Rnd) (d a : Operand) (s : State) : Out :=
  issueWord (.cvtw h t t6 rnd d a) (fpLongBody d (cvtwLane t t6 rnd a)) s

/-- QRES (06 R121): the residual carry over the line of the active lanes. -/
def qresBody (t6 : Bool) (d a : Operand) (rho : BitVec 8) (c : Ctx) (s : State) : Res :=
  let n := narrowBits t6
  let ls := lanesOf c.act
  let ys := ls.map (fun l => (l, fpAdd fmtF32 .rn c.w.ftz (fpSrc c .f32 a l) (fpReg c .f32 rho l)))
  let sc := lineScale (ys.map (fun (_, y, _) => unpack fmtF32 y))
  let out := ys.map (fun (l, y, f1) =>
    let code := encodeTaper n ((unpack fmtF32 y).scale (-sc))
    let next : Nat × FpFlags := match unpack fmtF32 y with
      | .fin sg m e => fpSub fmtF32 .rn c.w.ftz (.fin sg m e) ((taperDecode n code).scale sc)
      | _ => (0, .none)
    (l, narrowLane sc code, next.1, f1.or next.2))
  let at_ (f : Nat × Nat → Nat) (l : Nat) : Word := match out.find? (fun (j, _) => j == l) with
    | some (_, x, y, _) => BitVec.ofNat 64 (f (x, y))
    | none => 0
  let writes := dstWrite c d (at_ Prod.fst) ++ dstWrite c (.v rho) (at_ Prod.snd)
  fpLong (encOp d).toNat (out.map (fun (l, _, _, f) => (l, f))) (if c.act = 0 then [] else writes) c s
def execQres (h : Hdr) (t6 : Bool) (d a : Operand) (rho : BitVec 8) (s : State) : Out :=
  issueWord (.qres h t6 d a rho) (qresBody t6 d a rho) s

/-! ### The pair word (03 R54-R56) -/

/-- One half's result in a lane: d op b, with the rounding of FPMODE; MOV gives b (03 R55). -/
def halfLane (c : Ctx) (x : Half) (l : Nat) : Nat × FpFlags :=
  let d : Operand := .v x.d
  let t := x.ty
  let int (op : Ty → Word → Word → Word) : Nat × FpFlags := ((op t (srcInt c t d l) (srcInt c t x.b l)).toNat, .none)
  let shift (op : Ty → Word → Nat → Word) : Nat × FpFlags := ((op t (srcInt c t d l) (shiftAmt c x.b l)).toNat, .none)
  match x.op with
  | .iadd => int iaddLane
  | .isub => int isubLane
  | .imul => int imulLane
  | .imin => int iminLane
  | .imax => int imaxLane
  | .and => int andLane
  | .or => int orLane
  | .xor => int xorLane
  | .andn => int andnLane
  | .shl => shift shlLane
  | .shr => shift shrLane
  | .sar => shift sarLane
  | .rot => shift rotLane
  | .mov => ((srcInt c t x.b l).toNat, .none)
  | .fadd => fp3 fpAdd t c.w.rm false d x.b c l
  | .fsub => fp3 fpSub t c.w.rm false d x.b c l
  | .fmul => fp3 fpMul t c.w.rm false d x.b c l
  | .fmin => fpMinMax (fmtOf t) c.w.ftz false (fpSrc c t d l) (fpSrc c t x.b l)
  | .fmax => fpMinMax (fmtOf t) c.w.ftz true (fpSrc c t d l) (fpSrc c t x.b l)
  | .hadd2 => packed3 fpAdd t c.w.rm false d x.b c l
  | .hmul2 => packed3 fpMul t c.w.rm false d x.b c l

/-- The active lanes of a half and its results there. -/
def halfLanes (c : Ctx) (x : Half) : LaneMask := guardLanes c.w c.e x.guard false
def halfResults (c : Ctx) (x : Half) : List (Nat × Nat × FpFlags) := (lanesOf (halfLanes c x)).map (fun l => (l, halfLane c x l))

/-- Both halves read before either writes; with an enabled exception neither does (03 R55, R56; 06 R117). -/
def pairBody (x y : Half) (c : Ctx) (s : State) : Res :=
  let r0 := halfResults c x
  let r1 := halfResults c y
  let en := c.w.trap.en.toNat
  let s2 := recordFlags c s (resultFlags r0 ++ resultFlags r1)
  let b0 := trapLanes en (resultFlags r0)
  let b1 := trapLanes en (resultFlags r1)
  if b0 ≠ 0 then .trap s2 5 b0 (fpInfo x.d.toNat (trapRaised en (resultFlags r0)) 0)
  else if b1 ≠ 0 then .trap s2 5 b1 (fpInfo y.d.toNat (trapRaised en (resultFlags r1)) 1)
  else .done (s2.modIssuer c.who (fun w =>
    (w.writeV x.d.toNat (halfLanes c x) (resultAt r0)).writeV y.d.toNat (halfLanes c y) (resultAt r1))) []

def execPairWord (gap : BitVec 2) (gw : Bool) (h0 h1 : Half) (s : State) : Out :=
  issueWord (.pairWord gap gw h0 h1) (pairBody h0 h1) s

end Sys2Proof.Machine
end

