-- ==== Sys2Proof/Machine/Kv.lean ====
section
/-! DEFINITION. KV block tables: translation by lane, the window edge, sealed blocks and their parity groups (16 R289-R302). -/
namespace Sys2Proof.Machine

/-! ### The loaded descriptor and table entries (16 R290-R293) -/

/-- The workgroup's descriptor, where KV translation is enabled and the descriptor is not bad. -/
def Workgroup.kvOn (g : Workgroup) : Option (List Byte) :=
  if g.kvtab.getLsbD 0 && !g.kvtab.getLsbD 1 then g.kvDesc else none

def kvSeqTab (d : List Byte) : Nat := field d 0 8
def kvNseq (d : List Byte) : Nat := field d 8 4
def kvBp (d : List Byte) : Nat := 2 ^ field d 12 1
def kvRowB (d : List Byte) : Nat := field d 16 4
/-- Bytes of a block. -/
def kvBlkB (d : List Byte) : Nat := kvBp d * kvRowB d

/-- A block entry's reserved bits are clear (R293). -/
def kvEntryClean (e : List Byte) : Bool :=
  decide (bits (fieldW e 0 8) 57 5 = 0) && decide (bits (fieldW e 0 8) 0 6 = 0) && decide (bits (fieldW e 8 8) 57 7 = 0) &&
    decide (bits (fieldW e 8 8) 3 4 = 0)
def kvValid (e : List Byte) : Bool := (fieldW e 0 8).getLsbD 63
def kvSealed (e : List Byte) : Bool := (fieldW e 0 8).getLsbD 62
def kvAddr (e : List Byte) : Nat := bits (fieldW e 0 8) 6 51 * 64
def kvGroup (e : List Byte) : Nat := bits (fieldW e 8 8) 7 50 * 128
def kvSlot (e : List Byte) : Nat := bits (fieldW e 8 8) 0 3

/-! ### KVX (16 R294-R296) -/

/-- What a lane's translation comes to after the sequence entries are read. -/
inductive KvLane where
  | fail (reason : Nat)
  /-- the block entry to read -/
  | entry (at_ pos : Nat)
deriving DecidableEq, Repr

def lanePos (c : Ctx) (a : Operand) (l : Nat) : Nat := bits (src64 c a l) 0 32

/-- The sequence entries that lanes name, each once. -/
def kvSeqs (c : Ctx) (d : List Byte) (b : Operand) (ls : List Nat) : List (Nat × Nat) :=
  ((ls.map (fun l => lanePos c b l)).eraseDups.filter (fun q => decide (q < kvNseq d))).map (fun q => (q, kvSeqTab d + 32 * q))

/-- A lane's checks up to the block entry. -/
def kvLane (d : List Byte) (seqs : List (Nat × List Byte)) (pos q : Nat) : KvLane :=
  if q ≥ kvNseq d then .fail 1
  else
    let e := ((seqs.find? (fun (j, _) => j == q)).map Prod.snd).getD []
    let blk := pos / kvBp d
    if blk ≥ field e 8 4 then .fail 2
    else if (blk + 1) * kvBp d ≤ field e 16 4 then .fail 3
    else .entry (field e 0 8 + 16 * blk) pos

/-- A lane's checks of the block entry, and its address. -/
def kvResult (d : List Byte) (wr : Bool) (blocks : List (Nat × List Byte)) : KvLane → Except Nat Word
  | .fail r => .error r
  | .entry at_ pos =>
    let e := ((blocks.find? (fun (j, _) => j == at_)).map Prod.snd).getD []
    if !kvValid e || !kvEntryClean e then .error 4
    else if wr && kvSealed e then .error 5
    else .ok (BitVec.ofNat 64 (kvAddr e + pos % kvBp d * kvRowB d))

/-- TRAPINFO of KVRANGE (R295). -/
def kvInfo (reason pos q : Nat) : Word := BitVec.ofNat 64 (reason + pos * 2 ^ 16 + q % 2 ^ 16 * 2 ^ 48)

/-- Every lane's outcome: the state after the table reads, or the word's fault, which leaves the state before it (10 R189). -/
def kvLanes (i : Instr) (wr : Bool) (a b : Operand) (ls : List Nat) (c : Ctx) (s : State) :
    Except Res (State × List (Nat × Except Nat Word)) :=
  match c.wg.kvOn with
  | none => .ok (s, ls.map (fun l => (l, .error 6)))
  | some d =>
    match devLoad c s (encode i) (kvSeqs c d b ls) 32 with
    | .error r => .error r
    | .ok (s1, seqs) =>
      let ks := ls.map (fun l => (l, kvLane d seqs (lanePos c a l) (lanePos c b l)))
      let ats := (ks.filterMap (fun (_, k) => match k with | .entry at_ _ => some at_ | .fail _ => none)).eraseDups
      match s1.placeAll c.part c.func (ats.map (fun x => (x, x))) 16 {} with
      | .fault cause fl va => .error (memFault c s (encode i) cause fl va)
      | .ok ps =>
        let (s2, blocks) := readPlaces c s1 ps
        .ok (s2, ks.map (fun (l, k) => (l, kvResult d wr blocks k)))

/-- The reason of a failed lane. -/
def kvReason (r : Except Nat Word) : Option Nat :=
  match r with
  | .error x => some x
  | .ok _ => none

/-- KVX: translations by lane, and KVRANGE where some lane fails (16 R294, R295; DEDUCED, log 72). -/
def kvxBody (i : Instr) (wr : Bool) (d a b : Operand) (c : Ctx) (s : State) : Res :=
  if c.act = 0 then .done s []
  else
    match kvLanes i wr a b (opLanes c d) c s with
    | .error r => r
    | .ok (s, rs) =>
      let val (l : Nat) : Word := match (rs.find? (fun (j, _) => j == l)).map Prod.snd with
        | some (.ok x) => x
        | _ => 0
      let bad := rs.filter (fun (_, r) => (kvReason r).isSome)
      match bad with
      | [] => fly c s (dstWrite c d val)
      | (l, r) :: _ =>
        let failed : LaneMask := if d.isS then c.act else maskOf (fun j => bad.any (fun (k, _) => k == j))
        let s := if d.isS then s else s.modIssuer c.who (fun w => writeDst { c with act := c.act &&& ~~~failed } w d val)
        .trap s 0x10 failed (kvInfo ((kvReason r).getD 0) (lanePos c a l) (lanePos c b l))

def execKvx (h : Hdr) (wr : Bool) (d a b : Operand) (s : State) : Out :=
  issueWord (.kvx h wr d a b) (kvxBody (.kvx h wr d a b) wr d a b) s

/-! ### KVFREE (16 R297, R298) -/

/-- KVFREE: EDGE becomes the greater of itself and the edge position, as one atomic (DEDUCED, log 28 for TRAPINFO's position). -/
def kvfreeBody (i : Instr) (a b : Operand) (c : Ctx) (s : State) : Res :=
  let q := lanePos c a 0
  let edge := lanePos c b 0
  if c.act = 0 then .done s []
  else
    match c.wg.kvOn with
    | none => .trap s 0x10 c.act (kvInfo 6 edge q)
    | some d =>
      if q ≥ kvNseq d then .trap s 0x10 c.act (kvInfo 1 edge q)
      else
        match s.placeAll c.part c.func [(0, kvSeqTab d + 32 * q + 16)] 4 { write := true } with
        | .fault cause fl va => memFault c s (encode i) cause fl va
        | .ok ps =>
          let s1 := ((readPlaces c s ps).1).reportDropped c.part { (recordFor c 0x14 0) with pc := 0 } (placeLines (ps.flatMap Prod.snd))
          match atomDev c (fun _ x => some (max x edge)) 4 s1 ps with
          | .error va => memFault c s (encode i) 0x12 1 va
          | .ok (s2, _) => .done s2 []

def execKvfree (h : Hdr) (a b : Operand) (s : State) : Out := issueWord (.kvfree h a b) (kvfreeBody (.kvfree h a b) a b) s

/-! ### KVSEAL (16 R299-R302) -/

/-- KVSEAL reads its command and joins the core's KV queue (R300) (DEDUCED, log 71). -/
def kvsealBody (i : Instr) (a : Operand) (c : Ctx) (s : State) : Res :=
  let at_ := src64 c a 0
  if c.act = 0 then .done s []
  else if at_.toNat % 32 ≠ 0 then .trap s 7 c.act at_
  else if s.roomFull c.core c.slot .kvseal then .wait s (.room .kvseal)
  else
    match loadRecord c s (encode i) false at_.toNat 32 with
    | .error r => r
    | .ok (s2, bytes) =>
      let blkb := match c.wg.kvDesc with
        | some d => kvBlkB d
        | none => 0
      .done (s2.accepted.modCore c.core (fun k => { k with kvs := k.kvs ++ [{ by_ := issuedBy c s2 i, bytes := bytes, blkb := blkb }] })) []

def execKvseal (h : Hdr) (a : Operand) (s : State) : Out := issueWord (.kvseal h a) (kvsealBody (.kvseal h a) a) s

def kvCtrl (b : List Byte) : Nat := field b 24 4
def kvIsRebuild (b : List Byte) : Bool := kvCtrl b / 32 % 2 == 1
/-- No reserved bit or value. -/
def kvCmdOk (b : List Byte) : Bool := decide (kvCtrl b < 64) && decide (kvCtrl b / 4 % 8 ≠ 7) && decide (field b 28 4 = 0)

/-- A line with its header, and whether it is poisoned, as the KV engine reads it. -/
structure KvLine where
  num : Nat
  hdr : Nat
  bad : Bool
deriving DecidableEq, Repr

def State.kvRead (s : State) (core : Nat) (b : Issued) (va : Nat) : Except EngFault (State × KvLine) :=
  match s.engLoad core 5 b va 64 with
  | .error f => .error f
  | .ok (s, bytes, ps) =>
    let (pg, off) := lineOf ps
    .ok (s, { num := numLE bytes, hdr := s.header b.part pg off, bad := get false s.poison (lineId pg off) })

/-- A whole line with its header written; a bad one is poisoned. -/
def State.kvWrite (s : State) (core : Nat) (b : Issued) (va : Nat) (x : KvLine) : Except EngFault State :=
  match s.engStore core 5 b va (bytesLE 64 x.num) with
  | .error f => .error f
  | .ok (s, ps) =>
    let (pg, off) := lineOf ps
    .ok (if s.linkDown b.part pg then s
         else { s.setHeader b.part pg off x.hdr with poison := if x.bad then put false s.poison (lineId pg off) true else s.poison })

def KvLine.xor (x y : KvLine) : KvLine := { num := Nat.xor x.num y.num, hdr := Nat.xor x.hdr y.hdr, bad := x.bad || y.bad }

def State.setKv (s : State) (core : Nat) (c : KvCmd) : State := s.modCore core (fun k => { k with kvs := c :: k.kvs.tail })

/-- The core's first command `c` stopped by a fault: paused or held where it stands, as `c2`, or abandoned with PROTECT (DEDUCED, log
25). -/
def State.stopKv (s : State) (core : Nat) (c c2 : KvCmd) (f : EngFault) : State :=
  let (s, st) := s.engineFault core 5 c.by_ .kvseal f
  match st with
  | some x => s.setKv core { c2 with state := x }
  | none => s.endKv core c 9

/-- The place of the group record that a command names, 0 for none. -/
def State.kvGroupPlace (s : State) (c : KvCmd) : Nat :=
  let va := field c.bytes 8 8
  if va = 0 then 0
  else match s.translateIn c.by_.part c.by_.func va {} with
    | .ok pg => pg.place + (va - pg.va)
    | _ => 0

/-- The command has started, and has not ended. -/
def KvCmd.underWay (c : KvCmd) : Bool :=
  match c.state with
  | .closing _ => false
  | _ => c.read.isSome

/-- Another core's command has read the same group's record and not ended: commands of one group are serialised (R302). -/
def State.kvBusy (s : State) (core : Nat) (c : KvCmd) : Bool :=
  let k := s.kvGroupPlace c
  decide (k ≠ 0) && s.coreNums.any (fun j => j != core && (match (s.core j).kvs with
    | x :: _ => x.underWay && x.by_.part == c.by_.part && s.kvGroupPlace x == k
    | [] => false))

/-- The command's reads of the entry and of the group record, made once, before its checks (R300): a fault leaves no trace of them. -/
def State.kvStart (s : State) (core : Nat) (c : KvCmd) : Except EngFault (State × List Byte × List Byte) :=
  match c.read with
  | some (e, g) => .ok (s, e, g)
  | none =>
    match s.engLoad core 5 c.by_ (field c.bytes 0 8) 16 with
    | .error f => .error f
    | .ok (s, e, _) =>
      if field c.bytes 8 8 = 0 then .ok (s, e, [])
      else
        match s.engLoad core 5 c.by_ (field c.bytes 8 8) 128 with
        | .error f => .error f
        | .ok (s, g, _) => .ok (s, e, g)

/-- A value of `n` bytes written into memory by the KV engine. -/
def State.kvPut (s : State) (core : Nat) (b : Issued) (va n x : Nat) : Except EngFault State :=
  match s.engStore core 5 b va (bytesLE n x) with
  | .error f => .error f
  | .ok (s, _) => .ok s

/-- The marks after a write of the KV engine for the group whose record stands at `k`: that group's stay as they were in `old`, because
the write is the group's own (R300, R301). -/
def State.kvKeep (s old : State) (k : Nat) : State :=
  { s with kvLines := s.kvLines.map (fun (id, ms) => (id, ms.map (fun m =>
      if m.group = k then { m with written := (get [] old.kvLines id).any (fun o => o.group == k && o.written) } else m))) }

/-- Parity lines of the group at `k` folded in from a line on (R300): the state at the fault, with the command's position. -/
def kvFold (core k : Nat) (block parity : Nat) : Nat → KvCmd → State → State × KvCmd × Option EngFault
  | 0, c, s => (s, c, none)
  | n + 1, c, s =>
    match s.kvRead core c.by_ (parity + 64 * c.line) with
    | .error f => (s, c, some f)
    | .ok (s1, p) =>
      match s1.kvRead core c.by_ (block + 64 * c.line) with
      | .error f => (s, c, some f)
      | .ok (s2, x) =>
        match s2.kvWrite core c.by_ (parity + 64 * c.line) { p.xor x with bad := false } with
        | .error f => (s, c, some f)
        | .ok s3 => kvFold core k block parity n { c with line := c.line + 1 } (s3.kvKeep s2 k)

/-- Word 1 of an entry with GRP and SLOT set, and nothing else changed (16 R293, R300). -/
def kvMember (word1 group count : Nat) : Nat := word1 / 2 ^ 57 * 2 ^ 57 + group % 2 ^ 57 / 128 * 128 + word1 % 128 / 8 * 8 + count % 8

/-- After the fold: MEMBER, COUNT, the entry's GRP and SLOT, and SEALED. -/
def kvMarks (core : Nat) (c : KvCmd) (s : State) (e : List Byte) (group count : Nat) : Except EngFault State :=
  let entry := field c.bytes 0 8
  let sealed := field e 0 8 % 2 ^ 62 + 3 * 2 ^ 62
  if group = 0 then s.kvPut core c.by_ entry 8 sealed
  else
    match s.engStore core 5 c.by_ entry (bytesLE 8 sealed ++ bytesLE 8 (kvMember (field e 8 8) group count)) with
    | .error f => .error f
    | .ok (s, _) =>
      match s.kvPut core c.by_ (group + 8 * count) 8 (kvAddr e) with
      | .error f => .error f
      | .ok s => s.kvPut core c.by_ (group + 72) 1 (count + 1)

/-- A seal's check of its entry and group record fails (R300). -/
def kvSealBad (c : KvCmd) (e g : List Byte) : Bool :=
  let group := field c.bytes 8 8
  !kvValid e || kvSealed e || (group != 0 && (decide (field g 72 1 ≥ 8) || field g 76 4 != c.blkb || kvGroup e != 0))

/-- Lines of a block that become part of the group at `k`: each is marked as one that has not been written since (R302). -/
def State.markLines (s : State) (b : Issued) (k block n : Nat) : State :=
  (List.range n).foldl (fun s j =>
    match s.placeAll b.part b.func [(0, block + 64 * j)] 64 {} with
    | .ok [(_, ps)] =>
      let id := lineId (lineOf ps).1 (lineOf ps).2
      let ms := get [] s.kvLines id
      if ms.any (fun m => m.group == k) then s else { s with kvLines := put [] s.kvLines id ({ group := k } :: ms) }
    | _ => s) s

/-- The marks of a group that software has created anew, its COUNT 0, are gone, and its parity block is marked (R299). -/
def State.freshGroup (s : State) (b : Issued) (k parity n : Nat) : State :=
  State.markLines { s with kvLines := (s.kvLines.map (fun (id, ms) => (id, ms.filter (fun m => m.group != k)))).filter (fun (_, ms) => ms != []) } b k parity n

/-- A block sealed into the group at `k`, whose record is `g`. -/
def State.markSealed (s : State) (b : Issued) (k : Nat) (g : List Byte) (block n : Nat) : State :=
  (if field g 72 1 = 0 then s.freshGroup b k (field g 64 8) n else s).markLines b k block n

/-- A seal performed (R300). -/
def kvSealRun (core : Nat) (c : KvCmd) (s : State) : State :=
  let group := field c.bytes 8 8
  match s.kvStart core c with
  | .error f => s.stopKv core c c f
  | .ok (s, e, g) =>
    if !kvCmdOk c.bytes then s.endKv core c 1
    else if kvSealBad c e g then s.endKv core c 0x10
    else
      let n := c.blkb / 64
      let c2 := { c with read := some (e, g) }
      let k := s.kvGroupPlace c
      let (s, c3, f) := if group = 0 then (s, c2, none) else kvFold core k (kvAddr e) (field g 64 8) (n - c.line) c2 s
      match f with
      | some f => s.stopKv core c c3 f
      | none =>
        match kvMarks core c3 s e group (field g 72 1) with
        | .error f => s.stopKv core c c3 f
        | .ok s => (if group = 0 then s else s.markSealed c.by_ k g (kvAddr e) n).endKv core c 0

/-- KVSEAL_COMMAND: the core's first command, where it is a seal. -/
def execKvsealCommand (core : Nat) (s : State) : Out :=
  match (s.core core).kvs with
  | [] => .next s
  | c :: _ => if c.state ≠ .queued ∨ kvIsRebuild c.bytes ∨ s.kvBusy core c then .next s else .next (kvSealRun core c s)

/-! ### Rebuild (16 R301) -/

/-- The parity line with the other members' lines folded in. -/
def kvGather (core : Nat) (b : Issued) (line : Nat) (bases : List Nat) (s : State) (x : KvLine) : Except EngFault (State × KvLine) :=
  match bases with
  | [] => .ok (s, x)
  | a :: r =>
    match s.kvRead core b (a + 64 * line) with
    | .error f => .error f
    | .ok (s, y) => kvGather core b line r s (x.xor y)

/-- A value's low `n` bytes left free (DESIGN CHOICE, log 4). -/
def freeNum (ctr n : Nat) : Nat := numLE ((List.range n).map (Config.freeByte ctr))

/-- The line that a rebuild writes over `old`, the line that memory stores: poisoned where a line read was uncorrectable; free
bytes where a member's line has been written since its seal and the group's parity no longer matches the stored line (R302; DEDUCED,
log 14); else `x`. -/
def kvLineOut (ctr : Nat) (written : Bool) (x old : KvLine) : KvLine :=
  if x.bad then { num := 0, hdr := 0x8000, bad := true }
  else if !written ∨ (x.num = old.num ∧ x.hdr = old.hdr) then x
  else { num := freeNum ctr 64, hdr := freeNum ctr 66 / 2 ^ 512, bad := false }

/-- Where a line stands. -/
def State.kvPlace (s : State) (b : Issued) (va : Nat) : Option (Page × Nat) :=
  match s.placeAll b.part b.func [(0, va)] 64 {} with
  | .ok [(_, ps)] => some (lineOf ps)
  | _ => none

/-- The line that memory stores, poisoned or not, with its stored header. -/
def State.kvStored (s : State) (b : Issued) (va : Nat) : KvLine :=
  match s.kvPlace b va with
  | some (pg, off) =>
    { num := numLE (s.lineBytes b.part pg off)
      hdr := State.header { s with poison := [] } b.part pg off
      bad := get false s.poison (lineId pg off) }
  | none => { num := 0, hdr := 0, bad := true }

/-- The line has been written since its block became part of the group at `k`. -/
def State.kvWritten (s : State) (b : Issued) (k va : Nat) : Bool :=
  match s.kvPlace b va with
  | some (pg, off) => (get [] s.kvLines (lineId pg off)).any (fun m => m.group == k && m.written)
  | none => false

/-- Lines of a member of the group at `k` rewritten from a line on; `others` are the parity block and the other members. The engine's own
writes are none after which the group's parity no longer matches. -/
def kvRewrite (core k : Nat) (member : Nat) (others : List Nat) : Nat → KvCmd → State → State × KvCmd × Option EngFault
  | 0, c, s => (s, c, none)
  | n + 1, c, s =>
    match kvGather core c.by_ c.line others s { num := 0, hdr := 0, bad := false } with
    | .error f => (s, c, some f)
    | .ok (s1, x) =>
      let va := member + 64 * c.line
      let written := (member :: others).any (fun a => s1.kvWritten c.by_ k (a + 64 * c.line))
      match s1.nextFree.kvWrite core c.by_ va (kvLineOut s1.freeCtr written x (s1.kvStored c.by_ va)) with
      | .error f => (s, c, some f)
      | .ok s2 => kvRewrite core k member others n { c with line := c.line + 1, lost := c.lost || x.bad } (s2.kvKeep s1 k)

/-- The members other than the rebuilt one, after the parity block. -/
def kvOthers (g : List Byte) (slot : Nat) : List Nat :=
  field g 64 8 :: ((List.range (field g 72 1)).filter (fun m => m != slot)).map (fun m => field g (8 * m) 8)

/-- A rebuild's check of its entry fails (R301); one that names no group fails it too (DEDUCED, log 110). -/
def kvRebuildBad (c : KvCmd) (e : List Byte) : Bool :=
  let group := field c.bytes 8 8
  !kvSealed e || kvGroup e != group || group == 0

/-- A rebuild performed (R301). -/
def kvRebuildRun (core : Nat) (c : KvCmd) (s : State) : State :=
  match s.kvStart core c with
  | .error f => s.stopKv core c c f
  | .ok (s, e, g) =>
    if !kvCmdOk c.bytes then s.endKv core c 1
    else if kvRebuildBad c e then s.endKv core c 0x10
    else
      let (s, c2, f) := kvRewrite core (s.kvGroupPlace c) (field g (8 * kvSlot e) 8) (kvOthers g (kvSlot e)) (field g 76 4 / 64 - c.line) { c with read := some (e, g) } s
      match f with
      | some f => s.stopKv core c c2 f
      | none => s.endKv core c (if c2.lost then 0x14 else 0)

/-- KV_REBUILD: the core's first command, where it is a rebuild. -/
def execKvRebuild (core : Nat) (s : State) : Out :=
  match (s.core core).kvs with
  | [] => .next s
  | c :: _ => if c.state ≠ .queued ∨ !kvIsRebuild c.bytes ∨ s.kvBusy core c then .next s else .next (kvRebuildRun core c s)

end Sys2Proof.Machine
end

