-- ==== Sys2Proof/Machine/Dispatch.lean ====
section
/-! DEFINITION. The dispatch of every instruction and step to its meaning. -/
namespace Sys2Proof.Machine

def exec (i : Instr) (s : State) : Host.Outcome State Fault Refusal :=
  match i with
  | .nop x1 => Sys2Proof.Machine.execNop x1 s
  | .bra x1 x2 x3 x4 x5 => Sys2Proof.Machine.execBra x1 x2 x3 x4 x5 s
  | .brx x1 x2 x3 x4 => Sys2Proof.Machine.execBrx x1 x2 x3 x4 s
  | .call x1 x2 x3 x4 x5 => Sys2Proof.Machine.execCall x1 x2 x3 x4 x5 s
  | .ret x1 x2 x3 x4 => Sys2Proof.Machine.execRet x1 x2 x3 x4 s
  | .exit x1 => Sys2Proof.Machine.execExit x1 s
  | .parkCtr x1 x2 => Sys2Proof.Machine.execParkCtr x1 x2 s
  | .parkWalk x1 x2 => Sys2Proof.Machine.execParkWalk x1 x2 s
  | .yield x1 => Sys2Proof.Machine.execYield x1 s
  | .bar x1 x2 => Sys2Proof.Machine.execBar x1 x2 s
  | .trap x1 x2 => Sys2Proof.Machine.execTrap x1 x2 s
  | .tretRetry x1 => Sys2Proof.Machine.execTretRetry x1 s
  | .tretSkip x1 => Sys2Proof.Machine.execTretSkip x1 s
  | .bkpt x1 x2 => Sys2Proof.Machine.execBkpt x1 x2 s
  | .csrr x1 x2 x3 => Sys2Proof.Machine.execCsrr x1 x2 x3 s
  | .csrw x1 x2 x3 => Sys2Proof.Machine.execCsrw x1 x2 x3 s
  | .shape x1 x2 x3 => Sys2Proof.Machine.execShape x1 x2 x3 s
  | .iadd x1 x2 x3 x4 x5 => Sys2Proof.Machine.execIadd x1 x2 x3 x4 x5 s
  | .isub x1 x2 x3 x4 x5 => Sys2Proof.Machine.execIsub x1 x2 x3 x4 x5 s
  | .imul x1 x2 x3 x4 x5 => Sys2Proof.Machine.execImul x1 x2 x3 x4 x5 s
  | .imulh x1 x2 x3 x4 x5 => Sys2Proof.Machine.execImulh x1 x2 x3 x4 x5 s
  | .imad x1 x2 x3 x4 x5 x6 => Sys2Proof.Machine.execImad x1 x2 x3 x4 x5 x6 s
  | .ineg x1 x2 x3 x4 => Sys2Proof.Machine.execIneg x1 x2 x3 x4 s
  | .iabs x1 x2 x3 x4 => Sys2Proof.Machine.execIabs x1 x2 x3 x4 s
  | .imin x1 x2 x3 x4 x5 => Sys2Proof.Machine.execImin x1 x2 x3 x4 x5 s
  | .imax x1 x2 x3 x4 x5 => Sys2Proof.Machine.execImax x1 x2 x3 x4 x5 s
  | .iadds x1 x2 x3 x4 x5 => Sys2Proof.Machine.execIadds x1 x2 x3 x4 x5 s
  | .isubs x1 x2 x3 x4 x5 => Sys2Proof.Machine.execIsubs x1 x2 x3 x4 x5 s
  | .and x1 x2 x3 x4 x5 => Sys2Proof.Machine.execAnd x1 x2 x3 x4 x5 s
  | .or x1 x2 x3 x4 x5 => Sys2Proof.Machine.execOr x1 x2 x3 x4 x5 s
  | .xor x1 x2 x3 x4 x5 => Sys2Proof.Machine.execXor x1 x2 x3 x4 x5 s
  | .not x1 x2 x3 x4 => Sys2Proof.Machine.execNot x1 x2 x3 x4 s
  | .andn x1 x2 x3 x4 x5 => Sys2Proof.Machine.execAndn x1 x2 x3 x4 x5 s
  | .shl x1 x2 x3 x4 x5 => Sys2Proof.Machine.execShl x1 x2 x3 x4 x5 s
  | .shr x1 x2 x3 x4 x5 => Sys2Proof.Machine.execShr x1 x2 x3 x4 x5 s
  | .sar x1 x2 x3 x4 x5 => Sys2Proof.Machine.execSar x1 x2 x3 x4 x5 s
  | .rot x1 x2 x3 x4 x5 => Sys2Proof.Machine.execRot x1 x2 x3 x4 x5 s
  | .bfe x1 x2 x3 x4 x5 => Sys2Proof.Machine.execBfe x1 x2 x3 x4 x5 s
  | .bfi x1 x2 x3 x4 x5 x6 => Sys2Proof.Machine.execBfi x1 x2 x3 x4 x5 x6 s
  | .popc x1 x2 x3 x4 => Sys2Proof.Machine.execPopc x1 x2 x3 x4 s
  | .clz x1 x2 x3 x4 => Sys2Proof.Machine.execClz x1 x2 x3 x4 s
  | .ctz x1 x2 x3 x4 => Sys2Proof.Machine.execCtz x1 x2 x3 x4 s
  | .brev x1 x2 x3 x4 => Sys2Proof.Machine.execBrev x1 x2 x3 x4 s
  | .icmp x1 x2 x3 x4 x5 x6 => Sys2Proof.Machine.execIcmp x1 x2 x3 x4 x5 x6 s
  | .sel x1 x2 x3 x4 x5 x6 => Sys2Proof.Machine.execSel x1 x2 x3 x4 x5 x6 s
  | .mov x1 x2 x3 x4 => Sys2Proof.Machine.execMov x1 x2 x3 x4 s
  | .movi x1 x2 x3 x4 => Sys2Proof.Machine.execMovi x1 x2 x3 x4 s
  | .lea x1 x2 x3 x4 x5 x6 => Sys2Proof.Machine.execLea x1 x2 x3 x4 x5 x6 s
  | .fadd x1 x2 x3 x4 x5 x6 x7 => Sys2Proof.Machine.execFadd x1 x2 x3 x4 x5 x6 x7 s
  | .fsub x1 x2 x3 x4 x5 x6 x7 => Sys2Proof.Machine.execFsub x1 x2 x3 x4 x5 x6 x7 s
  | .fmul x1 x2 x3 x4 x5 x6 x7 => Sys2Proof.Machine.execFmul x1 x2 x3 x4 x5 x6 x7 s
  | .fmac x1 x2 x3 x4 x5 x6 x7 x8 => Sys2Proof.Machine.execFmac x1 x2 x3 x4 x5 x6 x7 x8 s
  | .fmin x1 x2 x3 x4 x5 => Sys2Proof.Machine.execFmin x1 x2 x3 x4 x5 s
  | .fmax x1 x2 x3 x4 x5 => Sys2Proof.Machine.execFmax x1 x2 x3 x4 x5 s
  | .fabs x1 x2 x3 x4 => Sys2Proof.Machine.execFabs x1 x2 x3 x4 s
  | .fneg x1 x2 x3 x4 => Sys2Proof.Machine.execFneg x1 x2 x3 x4 s
  | .fcmp x1 x2 x3 x4 x5 x6 => Sys2Proof.Machine.execFcmp x1 x2 x3 x4 x5 x6 s
  | .fclass x1 x2 x3 x4 => Sys2Proof.Machine.execFclass x1 x2 x3 x4 s
  | .frnd x1 x2 x3 x4 x5 => Sys2Proof.Machine.execFrnd x1 x2 x3 x4 x5 s
  | .fdiv x1 x2 x3 x4 x5 x6 => Sys2Proof.Machine.execFdiv x1 x2 x3 x4 x5 x6 s
  | .fsqrt x1 x2 x3 x4 x5 => Sys2Proof.Machine.execFsqrt x1 x2 x3 x4 x5 s
  | .frcp x1 x2 x3 x4 => Sys2Proof.Machine.execFrcp x1 x2 x3 x4 s
  | .frsq x1 x2 x3 x4 => Sys2Proof.Machine.execFrsq x1 x2 x3 x4 s
  | .fexp2 x1 x2 x3 x4 => Sys2Proof.Machine.execFexp2 x1 x2 x3 x4 s
  | .flog2 x1 x2 x3 x4 => Sys2Proof.Machine.execFlog2 x1 x2 x3 x4 s
  | .fsin x1 x2 x3 x4 => Sys2Proof.Machine.execFsin x1 x2 x3 x4 s
  | .fcos x1 x2 x3 x4 => Sys2Proof.Machine.execFcos x1 x2 x3 x4 s
  | .ftanh x1 x2 x3 x4 => Sys2Proof.Machine.execFtanh x1 x2 x3 x4 s
  | .hadd2 x1 x2 x3 x4 x5 x6 x7 => Sys2Proof.Machine.execHadd2 x1 x2 x3 x4 x5 x6 x7 s
  | .hmul2 x1 x2 x3 x4 x5 x6 x7 => Sys2Proof.Machine.execHmul2 x1 x2 x3 x4 x5 x6 x7 s
  | .hmac2 x1 x2 x3 x4 x5 x6 x7 x8 => Sys2Proof.Machine.execHmac2 x1 x2 x3 x4 x5 x6 x7 x8 s
  | .cvt x1 x2 x3 x4 x5 x6 x7 => Sys2Proof.Machine.execCvt x1 x2 x3 x4 x5 x6 x7 s
  | .cvtn x1 x2 x3 x4 x5 => Sys2Proof.Machine.execCvtn x1 x2 x3 x4 x5 s
  | .cvtw x1 x2 x3 x4 x5 x6 => Sys2Proof.Machine.execCvtw x1 x2 x3 x4 x5 x6 s
  | .qres x1 x2 x3 x4 x5 => Sys2Proof.Machine.execQres x1 x2 x3 x4 x5 s
  | .pairWord x1 x2 x3 x4 => Sys2Proof.Machine.execPairWord x1 x2 x3 x4 s
  | .shfl x1 x2 x3 x4 x5 => Sys2Proof.Machine.execShfl x1 x2 x3 x4 x5 s
  | .shflx x1 x2 x3 x4 => Sys2Proof.Machine.execShflx x1 x2 x3 x4 s
  | .bcast x1 x2 x3 x4 => Sys2Proof.Machine.execBcast x1 x2 x3 x4 s
  | .perm x1 x2 x3 x4 => Sys2Proof.Machine.execPerm x1 x2 x3 x4 s
  | .vote x1 x2 x3 => Sys2Proof.Machine.execVote x1 x2 x3 s
  | .red x1 x2 x3 x4 x5 x6 x7 x8 => Sys2Proof.Machine.execRed x1 x2 x3 x4 x5 x6 x7 x8 s
  | .redStep x1 x2 x3 x4 x5 x6 x7 x8 => Sys2Proof.Machine.execRedStep x1 x2 x3 x4 x5 x6 x7 x8 s
  | .scan x1 x2 x3 x4 x5 x6 x7 x8 x9 => Sys2Proof.Machine.execScan x1 x2 x3 x4 x5 x6 x7 x8 x9 s
  | .zip2 x1 x2 x3 => Sys2Proof.Machine.execZip2 x1 x2 x3 s
  | .zip3 x1 x2 x3 => Sys2Proof.Machine.execZip3 x1 x2 x3 s
  | .zip4 x1 x2 x3 => Sys2Proof.Machine.execZip4 x1 x2 x3 s
  | .unzip2 x1 x2 x3 => Sys2Proof.Machine.execUnzip2 x1 x2 x3 s
  | .unzip3 x1 x2 x3 => Sys2Proof.Machine.execUnzip3 x1 x2 x3 s
  | .unzip4 x1 x2 x3 => Sys2Proof.Machine.execUnzip4 x1 x2 x3 s
  | .ld x1 x2 x3 x4 x5 x6 x7 => Sys2Proof.Machine.execLd x1 x2 x3 x4 x5 x6 x7 s
  | .st x1 x2 x3 x4 x5 x6 x7 => Sys2Proof.Machine.execSt x1 x2 x3 x4 x5 x6 x7 s
  | .ldh x1 x2 x3 x4 x5 x6 => Sys2Proof.Machine.execLdh x1 x2 x3 x4 x5 x6 s
  | .sth x1 x2 x3 x4 x5 x6 => Sys2Proof.Machine.execSth x1 x2 x3 x4 x5 x6 s
  | .atom x1 x2 x3 x4 x5 x6 x7 x8 => Sys2Proof.Machine.execAtom x1 x2 x3 x4 x5 x6 x7 x8 s
  | .cas x1 x2 x3 x4 x5 x6 x7 x8 => Sys2Proof.Machine.execCas x1 x2 x3 x4 x5 x6 x7 x8 s
  | .redm x1 x2 x3 x4 x5 x6 => Sys2Proof.Machine.execRedm x1 x2 x3 x4 x5 x6 s
  | .flusha x1 x2 => Sys2Proof.Machine.execFlusha x1 x2 s
  | .fence x1 x2 x3 x4 => Sys2Proof.Machine.execFence x1 x2 x3 x4 s
  | .afence x1 => Sys2Proof.Machine.execAfence x1 s
  | .pref x1 x2 x3 x4 x5 => Sys2Proof.Machine.execPref x1 x2 x3 x4 x5 s
  | .copy x1 x2 x3 => Sys2Proof.Machine.execCopy x1 x2 x3 s
  | .nset x1 x2 x3 x4 => Sys2Proof.Machine.execNset x1 x2 x3 x4 s
  | .nget x1 x2 x3 x4 => Sys2Proof.Machine.execNget x1 x2 x3 x4 s
  | .nrst x1 x2 => Sys2Proof.Machine.execNrst x1 x2 s
  | .tsweep x1 x2 x3 x4 x5 x6 => Sys2Proof.Machine.execTsweep x1 x2 x3 x4 x5 x6 s
  | .mtcfg x1 x2 x3 x4 => Sys2Proof.Machine.execMtcfg x1 x2 x3 x4 s
  | .mtlink x1 x2 x3 x4 => Sys2Proof.Machine.execMtlink x1 x2 x3 x4 s
  | .mtclr x1 x2 x3 => Sys2Proof.Machine.execMtclr x1 x2 x3 s
  | .mtload x1 x2 x3 x4 x5 => Sys2Proof.Machine.execMtload x1 x2 x3 x4 x5 s
  | .mtset x1 x2 x3 x4 x5 => Sys2Proof.Machine.execMtset x1 x2 x3 x4 x5 s
  | .mtadd x1 x2 x3 x4 x5 x6 => Sys2Proof.Machine.execMtadd x1 x2 x3 x4 x5 x6 s
  | .mtget x1 x2 x3 x4 x5 => Sys2Proof.Machine.execMtget x1 x2 x3 x4 x5 s
  | .mtpfx x1 x2 x3 x4 x5 => Sys2Proof.Machine.execMtpfx x1 x2 x3 x4 x5 s
  | .mtfind x1 x2 x3 x4 x5 => Sys2Proof.Machine.execMtfind x1 x2 x3 x4 x5 s
  | .mttot x1 x2 x3 x4 => Sys2Proof.Machine.execMttot x1 x2 x3 x4 s
  | .mtcutIdx x1 x2 x3 x4 x5 => Sys2Proof.Machine.execMtcutIdx x1 x2 x3 x4 x5 s
  | .mtcutMass x1 x2 x3 x4 x5 => Sys2Proof.Machine.execMtcutMass x1 x2 x3 x4 x5 s
  | .walk x1 x2 x3 x4 => Sys2Proof.Machine.execWalk x1 x2 x3 x4 s
  | .wreg x1 x2 x3 x4 x5 => Sys2Proof.Machine.execWreg x1 x2 x3 x4 x5 s
  | .wstat x1 x2 x3 x4 => Sys2Proof.Machine.execWstat x1 x2 x3 x4 s
  | .wcancel x1 x2 => Sys2Proof.Machine.execWcancel x1 x2 s
  | .mfence x1 => Sys2Proof.Machine.execMfence x1 s
  | .harg x1 x2 x3 => Sys2Proof.Machine.execHarg x1 x2 x3 s
  | .hret x1 => Sys2Proof.Machine.execHret x1 s
  | .hretAbort x1 => Sys2Proof.Machine.execHretAbort x1 s
  | .awin x1 x2 x3 => Sys2Proof.Machine.execAwin x1 x2 x3 s
  | .kvx x1 x2 x3 x4 x5 => Sys2Proof.Machine.execKvx x1 x2 x3 x4 x5 s
  | .kvseal x1 x2 => Sys2Proof.Machine.execKvseal x1 x2 s
  | .kvfree x1 x2 x3 => Sys2Proof.Machine.execKvfree x1 x2 x3 s
  | .tspawn x1 x2 x3 => Sys2Proof.Machine.execTspawn x1 x2 x3 s
  | .tdec x1 x2 x3 x4 => Sys2Proof.Machine.execTdec x1 x2 x3 x4 s
  | .launch x1 x2 x3 => Sys2Proof.Machine.execLaunch x1 x2 x3 s
  | .pemit x1 x2 x3 => Sys2Proof.Machine.execPemit x1 x2 x3 s
  | .pcancel x1 => Sys2Proof.Machine.execPcancel x1 s
  | .prepeat x1 x2 x3 => Sys2Proof.Machine.execPrepeat x1 x2 x3 s
  | .coll x1 x2 => Sys2Proof.Machine.execColl x1 x2 s
  | .dreg x1 x2 x3 x4 => Sys2Proof.Machine.execDreg x1 x2 x3 x4 s
  | .dunreg x1 x2 => Sys2Proof.Machine.execDunreg x1 x2 s
  | .dgrd x1 x2 x3 x4 => Sys2Proof.Machine.execDgrd x1 x2 x3 x4 s
  | .pmcfg x1 x2 x3 => Sys2Proof.Machine.execPmcfg x1 x2 x3 s
  | .pmrd x1 x2 x3 => Sys2Proof.Machine.execPmrd x1 x2 x3 s
  | .illegal x1 => Sys2Proof.Machine.execIllegal x1 s
  | .warpSelect x1 x2 => Sys2Proof.Machine.execWarpSelect x1 x2 s
  | .gapExpiry x1 x2 => Sys2Proof.Machine.execGapExpiry x1 x2 s
  | .promotion x1 x2 => Sys2Proof.Machine.execPromotion x1 x2 s
  | .longLatencyWriteback x1 x2 x3 => Sys2Proof.Machine.execLongLatencyWriteback x1 x2 x3 s
  | .massUnitStart x1 => Sys2Proof.Machine.execMassUnitStart x1 s
  | .massRebuildEnd x1 => Sys2Proof.Machine.execMassRebuildEnd x1 s
  | .heatTurnSkip x1 x2 => Sys2Proof.Machine.execHeatTurnSkip x1 x2 s
  | .heatSampleForward x1 x2 => Sys2Proof.Machine.execHeatSampleForward x1 x2 s
  | .heatHalving x1 x2 => Sys2Proof.Machine.execHeatHalving x1 x2 s
  | .errstatClear x1 x2 => Sys2Proof.Machine.execErrstatClear x1 x2 s
  | .kvtabLoad x1 x2 x3 => Sys2Proof.Machine.execKvtabLoad x1 x2 x3 s
  | .dependenceDecrement x1 => Sys2Proof.Machine.execDependenceDecrement x1 s
  | .swapOut x1 x2 => Sys2Proof.Machine.execSwapOut x1 x2 s
  | .swapOutEnd x1 x2 => Sys2Proof.Machine.execSwapOutEnd x1 x2 s
  | .swapInEnd x1 x2 => Sys2Proof.Machine.execSwapInEnd x1 x2 s
  | .parkedVictimTimeout x1 x2 => Sys2Proof.Machine.execParkedVictimTimeout x1 x2 s
  | .wakeableWaitTimeout x1 x2 => Sys2Proof.Machine.execWakeableWaitTimeout x1 x2 s
  | .longParkSwap x1 x2 => Sys2Proof.Machine.execLongParkSwap x1 x2 s
  | .workgroupAdmission x1 => Sys2Proof.Machine.execWorkgroupAdmission x1 s
  | .taskStart x1 => Sys2Proof.Machine.execTaskStart x1 s
  | .upcallDelivery x1 => Sys2Proof.Machine.execUpcallDelivery x1 s
  | .launchStart x1 => Sys2Proof.Machine.execLaunchStart x1 s
  | .prologueWordLimit x1 => Sys2Proof.Machine.execPrologueWordLimit x1 s
  | .prologueRerun x1 => Sys2Proof.Machine.execPrologueRerun x1 s
  | .dispatchWorkgroup x1 => Sys2Proof.Machine.execDispatchWorkgroup x1 s
  | .launchComplete x1 => Sys2Proof.Machine.execLaunchComplete x1 s
  | .walkStart x1 x2 => Sys2Proof.Machine.execWalkStart x1 x2 s
  | .upcallRaise x1 x2 => Sys2Proof.Machine.execUpcallRaise x1 x2 s
  | .kStepBegin x1 x2 => Sys2Proof.Machine.execKStepBegin x1 x2 s
  | .kStepEnd x1 x2 => Sys2Proof.Machine.execKStepEnd x1 x2 s
  | .drainAccept x1 x2 x3 => Sys2Proof.Machine.execDrainAccept x1 x2 x3 s
  | .drainTimeout x1 x2 => Sys2Proof.Machine.execDrainTimeout x1 x2 s
  | .walkDone x1 x2 => Sys2Proof.Machine.execWalkDone x1 x2 s
  | .copyCommandStart x1 => Sys2Proof.Machine.execCopyCommandStart x1 s
  | .copyComplete x1 => Sys2Proof.Machine.execCopyComplete x1 s
  | .sweepStart x1 x2 => Sys2Proof.Machine.execSweepStart x1 x2 s
  | .sweepEnd x1 x2 => Sys2Proof.Machine.execSweepEnd x1 x2 s
  | .kvsealCommand x1 => Sys2Proof.Machine.execKvsealCommand x1 s
  | .kvRebuild x1 => Sys2Proof.Machine.execKvRebuild x1 s
  | .collectiveStart x1 x2 => Sys2Proof.Machine.execCollectiveStart x1 x2 s
  | .ringHop x1 x2 x3 x4 x5 => Sys2Proof.Machine.execRingHop x1 x2 x3 x4 x5 s
  | .result x1 x2 x3 x4 => Sys2Proof.Machine.execResult x1 x2 x3 x4 s
  | .lost x1 x2 => Sys2Proof.Machine.execLost x1 x2 s
  | .fail x1 x2 => Sys2Proof.Machine.execFail x1 x2 s
  | .collectiveComplete x1 x2 => Sys2Proof.Machine.execCollectiveComplete x1 x2 s
  | .memberLost x1 x2 => Sys2Proof.Machine.execMemberLost x1 x2 s
  | .collectiveTimeout x1 x2 => Sys2Proof.Machine.execCollectiveTimeout x1 x2 s
  | .digestBuildEnd x1 x2 => Sys2Proof.Machine.execDigestBuildEnd x1 x2 s
  | .deficitQuantumExpiry x1 => Sys2Proof.Machine.execDeficitQuantumExpiry x1 s
  | .softSave x1 => Sys2Proof.Machine.execSoftSave x1 s
  | .bardeferExpiry x1 => Sys2Proof.Machine.execBardeferExpiry x1 s
  | .graceExpiry x1 => Sys2Proof.Machine.execGraceExpiry x1 s
  | .killExpiry x1 => Sys2Proof.Machine.execKillExpiry x1 s
  | .contextKill x1 => Sys2Proof.Machine.execContextKill x1 s
  | .saveComplete x1 => Sys2Proof.Machine.execSaveComplete x1 s
  | .turn x1 => Sys2Proof.Machine.execTurn x1 s
  | .restoreComplete x1 => Sys2Proof.Machine.execRestoreComplete x1 s
  | .wgSliceExpiry x1 => Sys2Proof.Machine.execWgSliceExpiry x1 s
  | .warpReleaseRetry x1 x2 => Sys2Proof.Machine.execWarpReleaseRetry x1 x2 s
  | .warpReleaseSkip x1 x2 => Sys2Proof.Machine.execWarpReleaseSkip x1 x2 s
  | .launchCommand x1 => Sys2Proof.Machine.execLaunchCommand x1 s
  | .replay x1 => Sys2Proof.Machine.execReplay x1 s
  | .signal x1 => Sys2Proof.Machine.execSignal x1 s
  | .resync x1 => Sys2Proof.Machine.execResync x1 s
  | .cqnotifyTailWrite x1 x2 => Sys2Proof.Machine.execCqnotifyTailWrite x1 x2 s
  | .cqEnable x1 x2 => Sys2Proof.Machine.execCqEnable x1 x2 s
  | .cqDisable x1 x2 => Sys2Proof.Machine.execCqDisable x1 x2 s
  | .fqEnable x1 x2 => Sys2Proof.Machine.execFqEnable x1 x2 s
  | .fqptrHeadWrite x1 x2 => Sys2Proof.Machine.execFqptrHeadWrite x1 x2 s
  | .faultRecordHeldWrite x1 => Sys2Proof.Machine.execFaultRecordHeldWrite x1 s
  | .partitionEnable x1 x2 => Sys2Proof.Machine.execPartitionEnable x1 x2 s
  | .partitionDisable x1 x2 => Sys2Proof.Machine.execPartitionDisable x1 x2 s
  | .vfpartWrite x1 x2 => Sys2Proof.Machine.execVfpartWrite x1 x2 s
  | .journalEnable x1 x2 => Sys2Proof.Machine.execJournalEnable x1 x2 s
  | .journalReplay x1 x2 => Sys2Proof.Machine.execJournalReplay x1 x2 s
  | .registerWrite x1 x2 x3 => Sys2Proof.Machine.execRegisterWrite x1 x2 x3 s
  | .launchPacket x1 x2 x3 x4 x5 => Sys2Proof.Machine.execLaunchPacket x1 x2 x3 x4 x5 s
  | .cxlLinkDown x1 x2 => Sys2Proof.Machine.execCxlLinkDown x1 x2 s
  | .linkTraining x1 => Sys2Proof.Machine.execLinkTraining x1 s
  | .powerWindow x1 x2 => Sys2Proof.Machine.execPowerWindow x1 x2 s
  | .lockstepMismatch => Sys2Proof.Machine.execLockstepMismatch s
  | .deviceReset => Sys2Proof.Machine.execDeviceReset s
  | .getVersion => Sys2Proof.Machine.execGetVersion s
  | .getCapabilities => Sys2Proof.Machine.execGetCapabilities s
  | .negotiateAlgorithms => Sys2Proof.Machine.execNegotiateAlgorithms s
  | .getDigests => Sys2Proof.Machine.execGetDigests s
  | .getCertificate x1 => Sys2Proof.Machine.execGetCertificate x1 s
  | .challenge x1 => Sys2Proof.Machine.execChallenge x1 s
  | .getMeasurements x1 => Sys2Proof.Machine.execGetMeasurements x1 s
  | .hostAgentAccess x1 x2 x3 => Sys2Proof.Machine.execHostAgentAccess x1 x2 x3 s
  | .voteValue x1 x2 x3 x4 => Sys2Proof.Machine.execVoteValue x1 x2 x3 x4 s
  | .contextResume x1 => Sys2Proof.Machine.execContextResume x1 s
  | .newFlashImage x1 => Sys2Proof.Machine.execNewFlashImage x1 s

end Sys2Proof.Machine
end

