-- ==== Sys2Proof/Machine/Fetched.lean ====
section
/-! DEFINITION. How a fetched word runs: as the instruction that it decodes to, and again where it parked on page-fault replay. -/
namespace Sys2Proof.Machine

/-- A fetched word runs as the instruction that it decodes to; where it parks on page-fault replay, as though it had not been
sampled at its fetch (23 R351). -/
def runFetched : Fetched → Host.Outcome State Fault Refusal
  | .run s back w =>
    match exec (decodeWord w) s with
    | .next t => if t.replays s.cur then exec (decodeWord w) back else .next t
    | o => o
  | .halt s => .next s

end Sys2Proof.Machine
end

