-- ==== Sys2Proof/Machine/Policy.lean ====
section
/-! DEFINITION. What moves next (DESIGN CHOICE, log 1): the agenda's turn; with nothing listed, an event of the device's own whose condition
holds, else a word of the next scheduler that can issue one. Where the next word stands, and a state with a given word
there. -/
namespace Sys2Proof.Machine

/-! ### Events of the device's own that are due

Each function names an event whose step changes the state. What comes from outside (the host, links, firmware's measurements,
storage errors, another device) is never among them. -/

/-- The step changes the state. -/
def acts (o : Out) (s : State) : Bool :=
  match o with
  | .next t => t != s
  | _ => true

def State.dueWarp (s : State) (core slot : Nat) : Option Instr :=
  let w := s.warp core slot
  match (List.range w.flights.length).find? (fun k => (w.flights[k]?.map Flight.ready).getD false) with
  | some k => some (.longLatencyWriteback core slot k)
  | none =>
    match w.res, w.state with
    | .movingOut _, _ => some (.swapOutEnd core slot)
    | .movingIn _, .swapped _ => some (.swapInEnd core slot)
    | .movingIn _, .frozen _ => some (.swapInEnd core slot)
    | _, .ready => if w.sched.waited ≥ 4032 ∧ w.sched.promoted.isNone then some (.promotion core slot) else none
    | _, .parked _ =>
      if w.sched.parkedSince + 256 ≤ s.now ∧ !w.sched.victim then some (.parkedVictimTimeout core slot)
      else if w.sched.parkedSince + 65536 ≤ s.now ∧ s.mayLeave core slot ∧ !s.moving core w.wg ∧ s.swapRoom core w.wg w.nregs then
        some (.longParkSwap core slot)
      else none
    | _, _ => none

/-- The move of a context that a wakeable warp of a workgroup is due. -/
def State.dueSwap (s : State) (core k : Nat) : Option Instr :=
  match s.firstWakeable core k with
  | none => none
  | some i =>
    if s.moving core k then none
    else if s.regRoom core k (s.warp core i).nregs then some (.swapOut core i)
    else (s.victim core k i).map (fun j => .swapOut core j)

def State.dueWg (s : State) (k : Nat) : Option Instr :=
  let g := s.wg k
  if !g.live then none
  else if g.restoring then some (.restoreComplete k)
  else if g.saving ∧ s.settled k then some (.saveComplete k)
  else if s.softReady k then some (.softSave k)
  else if s.barrierOver k then some (.bardeferExpiry k)
  else if s.sliceOver k then some (.wgSliceExpiry k)
  else s.dueSwap g.core k

def State.dueWalk (s : State) (core wid : Nat) : Option Instr :=
  if acts (execWalkDone core wid s) s then some (.walkDone core wid)
  else if acts (execWalkStart core wid s) s then some (.walkStart core wid)
  else if acts (execKStepEnd core wid s) s then some (.kStepEnd core wid)
  else if acts (execDrainAccept core wid none s) s then some (.drainAccept core wid none)
  else if acts (execUpcallRaise core wid s) s then some (.upcallRaise core wid)
  else if acts (execKStepBegin core wid s) s then some (.kStepBegin core wid)
  else if acts (execDrainTimeout core wid s) s then some (.drainTimeout core wid)
  else none

def State.dueSched (s : State) (core sched : Nat) : Option Instr :=
  let x := (s.core core).sched sched
  match x.sweeps with
  | c :: _ => if c.state = .queued ∧ !s.engineHalted c.by_ then some (.sweepStart core sched) else if c.state = .finished then some (.sweepEnd core sched) else none
  | [] => none

/-- A scheduler with no warp ISSUING selects one. -/
def State.dueSelect (s : State) (core sched : Nat) : Option Instr :=
  match ((s.core core).sched sched).issuing, s.nextSelected core sched with
  | none, some _ => some (.warpSelect core sched)
  | _, _ => none

def State.dueCopy (s : State) (core : Nat) : Option Instr :=
  match (s.core core).copies with
  | c :: _ => if c.state = .queued ∧ !s.engineHalted c.by_ then some (.copyCommandStart core) else if c.state = .finished then some (.copyComplete core) else none
  | [] => none

def State.dueKv (s : State) (core : Nat) : Option Instr :=
  match (s.core core).kvs with
  | c :: _ =>
    if c.state = .queued ∧ !s.kvBusy core c then some (if kvIsRebuild c.bytes then .kvRebuild core else .kvsealCommand core)
    else none
  | [] => none

def State.dueMass (s : State) (core : Nat) : Option Instr :=
  if (s.rebuilding core).isSome then some (.massRebuildEnd core)
  else
    match (s.core core).massQ with
    | o :: _ => if s.now ≤ o.at_ ∨ s.massBusy core then none else some (.massUnitStart core)
    | [] => none

def State.dueUnits (s : State) (core : Nat) : Option Instr :=
  (s.dueMass core).orElse fun _ => (s.dueCopy core).orElse fun _ => (s.dueKv core).orElse fun _ =>
    ([0, 1, 2, 3].findSome? (fun i => s.dueSched core i)).orElse fun _ =>
      ((s.core core).walks.findSome? (fun w => s.dueWalk core w.wid)).orElse fun _ =>
        if (s.core core).upcalls ≠ [] ∧ (s.nextUpcall core).isSome then some (.upcallDelivery core)
        else if (s.core core).ready ≠ [] ∧ (s.startFirst core).isSome then some (.taskStart core) else none

def State.dueCore (s : State) (core : Nat) : Option Instr :=
  ((s.core core).warps.findSome? (fun (i, _) => s.dueWarp core i)).orElse fun _ =>
    (s.dueUnits core).orElse fun _ => [0, 1, 2, 3].findSome? (fun i => s.dueSelect core i)

def State.dueLaunch (s : State) (lid : Nat) : Option Instr :=
  let l := s.launch lid
  if l.live ∧ l.state = .waiting ∧ l.ready ∧ l.heldPage.isNone ∧ (l.prologueAt = 0 ∨ s.frontFree l) then some (.launchStart lid)
  else if s.launchOver lid then some (.launchComplete lid)
  else none

/-- A turn ends or begins. -/
def State.dueTurn (s : State) (p : Nat) : Bool :=
  match (s.part p).turn with
  | some f => !s.hasContext f || ((s.func f).ctx.request.isSome && s.funcWgs f == []) || ((s.func f).ctx.asked && !s.anyRestoring f)
  | none => (s.part p).en && !s.hot && decide ((s.part p).qbase ≠ 0) && ((s.nextContext p).isSome || (s.resumed p).isSome)

def State.dueColl (s : State) (p k : Nat) : Option Instr :=
  match s.collAt p k with
  | none => none
  | some c =>
    if c.state = .queued then (if acts (execCollectiveStart p k s) s then some (.collectiveStart p k) else none)
    else if c.state = .finishing then (if acts (execCollectiveComplete p k s) s then some (.collectiveComplete p k) else none)
    else if c.closes then none
    else if c.progress + usec (entryTimeout c.entry) ≤ s.wall then some (.collectiveTimeout p k)
    else none

def State.duePart (s : State) (p : Nat) : Option Instr :=
  let x := s.part p
  if x.fqHeld ≠ [] ∧ x.fqRoom then some (.faultRecordHeldWrite p)
  else if (s.prologueOver p).isSome then some (.prologueWordLimit p)
  else if (s.partWgs p).any (fun k => s.killOver k) then some (.killExpiry p)
  else if (s.partWgs p).any (fun k => s.graceOver k) then some (.graceExpiry p)
  else if (s.quantumOver p).isSome then some (.deficitQuantumExpiry p)
  else if s.dueTurn p then some (.turn p)
  else if (s.rerunLaunch p).isSome then some (.prologueRerun p)
  else if (s.dispatch p).isSome then some (.dispatchWorkgroup p)
  else (List.range x.colls.length).findSome? (fun k => s.dueColl p k)

/-- The event that accepts the next command of a function, or takes the next entry of its journal. -/
def State.dueFunc (s : State) (f : Nat) : Option Instr :=
  let build := (s.func f).digests.find? (fun (_, d) => d.state == .building && d.pause.isNone)
  match build with
  | some (k, _) => some (.digestBuildEnd f k)
  | none =>
    if (s.func f).jrnReplays then
      if s.maySubmit f ∧ !s.launchFull f ∧ (s.jrnNext f 1).isSome then some (.launchCommand f)
      else if acts (execReplay f s) s then some (.replay f) else none
    else
      match s.command f with
      | .none => none
      | .skip _ => some (.launchCommand f)
      | .ready _ e =>
        match cmdOp e with
        | 1 => if s.launchFull f then none else some (.launchCommand f)
        | 2 => some (.replay f)
        | 3 => some (.signal f)
        | _ => some (.resync f)

def State.dueHeat (s : State) : Option Instr :=
  match s.samples with
  | x :: _ => some (.heatSampleForward (x.owner / 512) 0)
  | [] => (s.heat.find? (fun (_, h) => h.halve)).map (fun (k, _) => .heatHalving (k / 512) (k % 512))

/-- The first decrement that does not wait for a page. -/
def State.dueDec (s : State) : Option Instr := ((List.range s.decs.length).find? (fun k => (s.decs[k]?.map (fun d => d.page.isNone)).getD false)).map
  (fun k => .dependenceDecrement k)

/-- The first event that is due: decrements, cores, workgroups, launches, partitions, functions, heat. -/
def State.dueEvent (s : State) : Option Instr :=
  s.dueDec.orElse fun _ => (s.cores.findSome? (fun (c, _) => s.dueCore c)).orElse fun _ =>
    (s.wgs.findSome? (fun (k, _) => s.dueWg k)).orElse fun _ => (s.launches.findSome? (fun (i, _) => s.dueLaunch i)).orElse fun _ =>
      (s.parts.findSome? (fun (p, _) => s.duePart p)).orElse fun _ => (s.funcs.findSome? (fun (f, _) => s.dueFunc f)).orElse fun _ => s.dueHeat

/-! ### Whose word is next -/

/-- A scheduler or a prologue, as a number: schedulers by core, then prologues by partition. -/
def Issuer.number : Issuer → Nat
  | .warp core slot => core * 4 + slot / 16
  | .prologue p => 1024 + p

/-- Schedulers and prologues that can issue a word now. -/
def State.canIssue (s : State) : List Issuer :=
  s.cores.flatMap (fun (c, _) => [0, 1, 2, 3].filterMap (fun i => (s.issueSlot c i).map (fun slot => .warp c slot))) ++
    s.parts.filterMap (fun (p, x) => match x.prologue with
      | some r => if r.warp.state = .ready then some (.prologue p) else none
      | none => none)

/-- The next of them after the one that issued last. -/
def State.nextIssuer (s : State) : Option Issuer :=
  let l := s.canIssue
  match l.find? (fun x => decide (x.number > s.cur.number)) with
  | some x => some x
  | none => l.head?

/-- What the step is to run. -/
inductive Next where
  | fetched (f : Fetched)
  | event (s : State) (i : Instr)
deriving DecidableEq, Repr

/-- A word of the next issuer, a cycle later. -/
def State.ownWord (s : State) : Fetched :=
  let s := s.advanceTime 1
  match s.nextIssuer with
  | none => .halt s
  | some (.warp core slot) => s.issueTurn core (slot / 16)
  | some (.prologue p) => State.fetch { s with cur := .prologue p }

/-- The next turn: the agenda's, or the device's own. -/
def State.nextTurn (s : State) : Next :=
  match s.agenda with
  | [] =>
    match s.dueEvent with
    | some i => .event s i
    | none => .fetched s.ownWord
  | t :: r =>
    let s := State.advanceTime { s with agenda := r } t.dt
    match t.what with
    | .issue core sched => .fetched (s.issueTurn core sched)
    | .prologue p => .fetched (State.fetch { s with cur := .prologue p })
    | .event i => if isEvent i then .event s i else .fetched (.halt s)

/-! ### The place of the next word -/

/-- Where the next word stands in memory, if the step fetches one. -/
def State.fetchPlace (s : State) : Option Nat :=
  match s.nextTurn with
  | .fetched (.run t _ _) =>
    (match t.issuer with
      | some (w, e) =>
        let c := t.ctx w e (hdrOf (.illegal 0))
        (match t.translateIn c.part c.func e.pc.toNat { fetch := true } with
          | .ok pg => some (pg.place + (e.pc.toNat - pg.va))
          | _ => none)
      | none => none)
  | _ => none

/-- The page tables of the program that stands for a load from outside (DESIGN CHOICE, log 19): one 1 GiB page, identity mapped. -/
def tableBytes : List (Nat × List Byte) :=
  [(0x10000, bytesLE 8 0x11001), (0x11000, bytesLE 8 0x12001), (0x12000, bytesLE 8 0x0600000000000003)]

/-- A function, a launch with one workgroup and one warp that issues at address 0x20000 (DESIGN CHOICE, log 19). -/
def State.loaded (s : State) : State :=
  let s := tableBytes.foldl (fun s (k, bs) => s.rawStore (hbmPlace 0 k) bs) s
  let s := s.setPart 0 { noPart with en := true, cores := [(0, 1)], chans := [(0, 1)], nextLaunch := 2, runq := [1], turn := some 1 }
  let s := s.setFunc 1 { noFunc with vfen := true, vftroot := 0x21 }
  let s := s.setLaunch 1 { noLaunch with live := true, func := 1, part := 0, state := .running, nx := 1, ny := 1, nz := 1, next := 1 }
  let s := s.setWg (wgKey 1 0) { noWg with live := true, lid := 1, area := some (areaPlace (wgKey 1 0)), part := { alloc := 4, swap := 0, acc := 1, regs := 1 }
                                           full := { alloc := 4, swap := 0, acc := 1, regs := 1 } }
  let s := s.setWarp 0 0 { noWarp with state := .issuing, wg := wgKey 1 0, nregs := 64, grps := [0]
                                       frontier := [{ prio := 0, pc := 0x20000, lanes := BitVec.allOnes 64 }] }
  let s := s.modCore 0 (fun k => k.modSched 0 (fun x => { x with issuing := some 0, promotedTurn := false }))
  { s with agenda := [], cur := .warp 0 0 }

/-- The state with a word where the step fetches its next one; where none is fetched, a loaded program first (DESIGN CHOICE, log 19). -/
def State.withWord (s : State) (w : Nat) : State :=
  match s.fetchPlace with
  | some k => s.rawStore k (bytesLE 8 w)
  | none => s.loaded.rawStore (hbmPlace 0 0x20000) (bytesLE 8 w)

end Sys2Proof.Machine
end

