-- ==== Sys2Proof/Machine/Step.lean ====
section
/-! DEFINITION. One step of the machine: the next turn of the agenda runs one word or one event. -/
namespace Sys2Proof.Machine

def step (s : State) : Host.Outcome State Fault Refusal :=
  match s.nextTurn with
  | .fetched f => runFetched f
  | .event t i => exec i t

/-- The state in which the next step fetches and runs the word `w` (DESIGN CHOICE, log 19). -/
def State.withFetchWord (s : State) (_nbits w : Nat) : State := s.withWord w

end Sys2Proof.Machine
end

