-- ==== Sys2Proof/Safety.lean ====
section
/-! DEFINITION. The terms that statements use: invariants of the machine, when a word passes its checks, and what a word
leaves unchanged. -/
namespace Sys2Proof.Safety
open Sys2Proof.Machine

/-! ### Invariants -/

/-- The clock runs at one of its nine steps (01 R11). -/
def ClockOk (s : State) : Prop := 8 ≤ s.step ∧ s.step ≤ 16

/-- The package power cap lies in its range (18 R331). -/
def CapOk (s : State) : Prop := 1000 ≤ s.watts ∧ s.watts ≤ 2800

/-- Memory is in its canonical form. -/
def MemoryOk (s : State) : Prop := Memory.wf s.mem

/-- A step neither faults nor is refused. -/
def Runs (s : State) : Prop := ∃ t, step s = .next t

/-! ### When a word is performed (03 R65) -/

/-- The word passes every check that comes before its effect: no word in flight that holds the warp, a legal word, a
closed window, no pending register, every register declared, no storage error. -/
structure Passes (i : Instr) (c : Ctx) : Prop where
  free : c.w.heldUp = false
  legal : i.wf = true
  front : c.front = true → prologueOk i = true
  mode : stateIllegal i c = false
  window : lookaheadFault i c.w = none
  ready : blockOf i c.w = none
  declared : indexFault i c.w = none
  sound : usesV i = true → c.wg.badReg = none

/-- A warp or a prologue issues the word `i` at `s` in the context `c`, and it passes its checks. -/
def Issues (i : Instr) (s : State) (c : Ctx) : Prop :=
  (∃ w e, s.issuer = some (w, e) ∧ c = { s.ctx w e (hdrOf i) with word := encode i }) ∧ Passes i c

/-! ### Frames -/

/-- A warp without its place on the scheduler. -/
def unscheduled (w : Warp) : Warp := { w with state := .retired, sched := {} }

/-- Everything outside the issuing warp or prologue is as before, but for the places of warps on the schedulers: memory,
headers, workgroups with their scratchpads and accumulators, launches, functions, partitions, cores' queues, the clock. -/
structure Elsewhere (s t : State) : Prop where
  bytes : ∀ a, get 0 t.mem a = get 0 s.mem a
  rest : { t with cores := [], parts := [] } = { s with cores := [], parts := [] }
  parts : ∀ p, { t.part p with prologue := none } = { s.part p with prologue := none }
  prologues : ∀ p, Issuer.prologue p ≠ s.cur → (t.part p).prologue = (s.part p).prologue
  cores : ∀ k, { t.core k with warps := [], scheds := [] } = { s.core k with warps := [], scheds := [] }
  sweeps : ∀ k i, ((t.core k).sched i).sweeps = ((s.core k).sched i).sweeps
  warps : ∀ k j, Issuer.warp k j ≠ s.cur → unscheduled (t.warp k j) = unscheduled (s.warp k j)

/-- A warp without what every issued word updates: its frontier, its windows, its event counters and its place on the
scheduler. -/
def steady (w : Warp) : Warp :=
  { w with frontier := [], spilled := [], windows := [], events := [], sched := {}, state := .retired }

/-- The issuing entry advances to the next word with its priority (02 R33). -/
def Advanced (s : State) (c : Ctx) (w' : Warp) : Prop :=
  w'.frontier = (c.w.advance s.now c.e).frontier ∧ w'.spilled = (c.w.advance s.now c.e).spilled

/-- The issuing entry is replaced by others, which merge as they come (02 R33). -/
def Branched (s : State) (c : Ctx) (es : List Entry) (w' : Warp) : Prop :=
  w'.frontier = (c.w.replaceEntry s.now c.e es).frontier ∧ w'.spilled = (c.w.replaceEntry s.now c.e es).spilled

/-- A word that acts on the issuing warp alone has been performed: the warp is `g`, and its frontier has advanced. -/
structure Performed (s t : State) (c : Ctx) (g : Warp) : Prop where
  elsewhere : Elsewhere s t
  warp : steady (t.issuerWarp s.cur) = steady g
  front : Advanced s c (t.issuerWarp s.cur)

/-- Only the registers of the warp differ. -/
def RegsOnly (w g : Warp) : Prop := { g with v := [], s := [], p := [], x := [] } = { w with v := [], s := [], p := [], x := [] }

/-- The vector register that a destination names. -/
def vectorOf (c : Ctx) : Operand → Option Nat
  | .v n => some n.toNat
  | .vx i o => some (vxReg c.w i o)
  | _ => none

/-- Registers after a word with a v or s destination whose lanes' values are `f`: the destination in the active lanes, a
scalar destination once where some lane is active; every other register as before (03 R45, R50; 06 R98). -/
structure Wrote (c : Ctx) (d : Operand) (f : Nat → Word) (w' : Warp) : Prop where
  v : ∀ n l, l < 64 → w'.readV n l = if vectorOf c d = some n ∧ c.act.getLsbD l = true then f l else c.w.readV n l
  s : ∀ n : BitVec 6, w'.readS n.toNat = if d = .s n ∧ c.act ≠ 0 then f 0 else c.w.readS n.toNat
  p : ∀ k, w'.readP k = c.w.readP k
  x : ∀ i, w'.readX i = c.w.readX i

/-- Registers after a word that writes a predicate: the active lanes of the predicate, none of p0 (06 R99). -/
structure WroteP (c : Ctx) (k : Nat) (f : Nat → Bool) (w' : Warp) : Prop where
  p : ∀ j l, l < 64 → (w'.readP j).getLsbD l =
    if j = k ∧ k ≠ 0 ∧ c.act.getLsbD l = true then f l else (c.w.readP j).getLsbD l
  v : ∀ n l, w'.readV n l = c.w.readV n l
  s : ∀ n, w'.readS n = c.w.readS n
  x : ∀ i, w'.readX i = c.w.readX i

/-- The word completes: the lanes' values `f` are in its destination, the sticky floating-point masks are `fpx`, and nothing
else has changed. -/
def Writes (i : Instr) (s : State) (c : Ctx) (d : Operand) (f : Nat → Word) (fpx : Fpx) : Prop :=
  ∃ t g, exec i s = .next t ∧ Performed s t c g ∧ Wrote c d f g ∧ RegsOnly { c.w with fpx := fpx } g

/-- The same of a word that writes a predicate. -/
def WritesP (i : Instr) (s : State) (c : Ctx) (k : Nat) (f : Nat → Bool) (fpx : Fpx) : Prop :=
  ∃ t g, exec i s = .next t ∧ Performed s t c g ∧ WroteP c k f g ∧ RegsOnly { c.w with fpx := fpx } g

/-- The word completes with the issuing warp as `g`: nothing else has changed. -/
def Becomes (i : Instr) (s : State) (c : Ctx) (g : Warp) : Prop := ∃ t, exec i s = .next t ∧ Performed s t c g

/-- The word completes and is in flight, its register writes to come (03 R58); a prologue's registers are written at once. -/
def flown (c : Ctx) (kind : FlightKind) (ws : List RegWrite) : Warp :=
  if ws = [] then c.w
  else if c.front then applyWrites c.w ws
  else { c.w with nextFlight := c.w.nextFlight + 1, flights := c.w.flights ++
           [{ id := c.w.nextFlight, kind := kind, pc := c.e.pc, word := c.word, regs := writeRegs ws, writes := ws, late := .none
              holds := false, walkGate := false }] }

/-- The word completes: the state around the issuing warp is that of `u`, and the warp is `g`, its frontier advanced. -/
def Leads (i : Instr) (s : State) (c : Ctx) (u : State) (g : Warp) : Prop := ∃ t, exec i s = .next t ∧ Performed u t c g

/-- The word completes with the issuing entry where it is: the state around the warp is that of `u`, the warp is `g`. -/
def Stays (i : Instr) (s : State) (c : Ctx) (u : State) (g : Warp) : Prop :=
  ∃ t, exec i s = .next t ∧ Elsewhere u t ∧ steady (t.issuerWarp u.cur) = steady g ∧
    (t.issuerWarp u.cur).frontier = c.w.frontier ∧ (t.issuerWarp u.cur).spilled = c.w.spilled

/-- A step of a unit or of the outside world completes, and the state after it meets `P`. -/
def Goes (i : Instr) (s : State) (P : State → Prop) : Prop := ∃ t, exec i s = .next t ∧ P t

/-- A line without a storage error not yet found, its link up (09 R178, R184). -/
def clean (s : State) (p : Nat) (x : Page × Nat) : Prop :=
  get false s.badMem (lineId x.1 x.2) = false ∧ get false s.softMem (lineId x.1 x.2) = false ∧ s.linkDown p x.1 = false

/-- A line on which reading for a function leaves the state as it is: no HEAT page, and the line and those that its translation reads
are clean (09 R178, R182, R185). -/
def quiet (s : State) (p f : Nat) (x : Page × Nat) : Prop :=
  x.1.heat = false ∧ clean s p x ∧ ∀ y ∈ s.tableLines p f x.1.va, clean s p y

/-- Nothing has changed but the translations that are cached (15 R278). -/
def untouched (s t : State) : Prop := { t with tlb := s.tlb } = s

/-- A byte write to plain memory: an uncompressed page that starts a line, its line quiet. -/
def plainWrite (s : State) (p f : Nat) (w : ByteWrite) : Prop :=
  w.page.comp = none ∧ w.page.place % 64 = 0 ∧ quiet s p f (w.page, w.off / 64 * 64)

/-- The place of a byte write. -/
def placeOf (w : ByteWrite) : Nat := w.page.place + w.off

/-- What a byte of memory holds after byte writes in order: the last write to its place, else what it held. -/
def written (s : State) (ws : List ByteWrite) (k : Nat) : Byte :=
  match ws.reverse.find? (fun w => decide (placeOf w = k)) with
  | some w => w.val
  | none => s.byteAt k

end Sys2Proof.Safety
end

