-- ==== Sys2Proof/Certificates/Slice0/Obligations.lean ====
section
/-! DEFINITION. The statements for the provers, with the terms that they share. -/
namespace Sys2Proof.Claims
open Sys2Proof.Machine Sys2Proof.Safety

/-! ### Results of lane operations, from the rules of 06 -/

/-- The integer that an operand represents in a type (06 R98). -/
def val (c : Ctx) (t : Ty) (o : Operand) (l : Nat) : Int := intOf t (src64 c o l)
/-- The same of the v register that C names. -/
def regVal (c : Ctx) (t : Ty) (z : BitVec 8) (l : Nat) : Int := intOf t (c.w.readV z.toNat l)
/-- The low w bits of an operand as a natural number. -/
def raw (c : Ctx) (t : Ty) (o : Operand) (l : Nat) : Nat := bits (src64 c o l) 0 (width t)
/-- The word of a type whose bit i is `f i`, for i below the type's width. -/
def ofBits (t : Ty) (f : Nat → Bool) : Word := narrow t (maskOf (fun i => decide (i < width t) && f i))
/-- Bits 0 to w - 1 of a type, lowest first. -/
def bitOrder (t : Ty) : List Nat := List.range (width t)

/-- Destination and per-lane result of the integer and logic instructions with a register destination (06 R110, R111, R113). -/
def laneEffect : Instr → Option (Operand × (Ctx → Nat → Word))
  | .iadd _ t d a b => some (d, fun c l => wordOf t (val c t a l + val c t b l))
  | .isub _ t d a b => some (d, fun c l => wordOf t (val c t a l - val c t b l))
  | .imul _ t d a b => some (d, fun c l => wordOf t (val c t a l * val c t b l))
  | .imulh _ t d a b => some (d, fun c l => wordOf t (val c t a l * val c t b l / 2 ^ width t))
  | .imad _ t d a b z => some (d, fun c l => wordOf t (val c t a l * val c t b l + regVal c t z l))
  | .ineg _ t d a => some (d, fun c l => wordOf t (-val c t a l))
  | .iabs _ t d a => some (d, fun c l => wordOf t (if val c t a l < 0 then -val c t a l else val c t a l))
  | .imin _ t d a b => some (d, fun c l => wordOf t (if val c t a l ≤ val c t b l then val c t a l else val c t b l))
  | .imax _ t d a b => some (d, fun c l => wordOf t (if val c t a l ≤ val c t b l then val c t b l else val c t a l))
  | .iadds _ t d a b => some (d, fun c l => wordOf t (clampInt t (val c t a l + val c t b l)))
  | .isubs _ t d a b => some (d, fun c l => wordOf t (clampInt t (val c t a l - val c t b l)))
  | .and _ t d a b => some (d, fun c l => narrow t (src64 c a l &&& src64 c b l))
  | .or _ t d a b => some (d, fun c l => narrow t (src64 c a l ||| src64 c b l))
  | .xor _ t d a b => some (d, fun c l => narrow t (src64 c a l ^^^ src64 c b l))
  | .not _ t d a => some (d, fun c l => narrow t (~~~(src64 c a l)))
  | .andn _ t d a b => some (d, fun c l => narrow t (src64 c a l &&& ~~~(src64 c b l)))
  | .shl _ t d a b => some (d, fun c l =>
      if shiftAmt c b l ≥ width t then 0 else wordOf t (val c t a l * 2 ^ shiftAmt c b l))
  | .shr _ t d a b => some (d, fun c l =>
      if shiftAmt c b l ≥ width t then 0 else narrow t (BitVec.ofNat 64 (raw c t a l / 2 ^ shiftAmt c b l)))
  | .sar _ t d a b => some (d, fun c l =>
      ofBits t (fun i => (src64 c a l).getLsbD (min (i + shiftAmt c b l) (width t - 1))))
  | .rot _ t d a b => some (d, fun c l =>
      ofBits t (fun i => (src64 c a l).getLsbD ((i + width t - shiftAmt c b l % width t) % width t)))
  | .bfe _ t d a b => some (d, fun c l =>
      let pos := bits (src64 c b l) 0 8
      let top := min (pos + bits (src64 c b l) 8 8) (width t)
      if pos ≥ width t ∨ bits (src64 c b l) 8 8 = 0 then 0
      else ofBits t (fun i => if i < top - pos then (src64 c a l).getLsbD (pos + i) else signed t && (src64 c a l).getLsbD (top - 1)))
  | .bfi _ t d a b z => some (d, fun c l =>
      let pos := bits (src64 c b l) 0 8
      let top := min (pos + bits (src64 c b l) 8 8) (width t)
      ofBits t (fun i => if pos ≤ i ∧ i < top then (src64 c a l).getLsbD (i - pos) else (c.w.readV z.toNat l).getLsbD i))
  | .popc _ t d a => some (d, fun c l => BitVec.ofNat 64 ((bitOrder t).countP (fun i => (src64 c a l).getLsbD i)))
  | .clz _ t d a => some (d, fun c l =>
      BitVec.ofNat 64 ((bitOrder t).reverse.takeWhile (fun i => !(src64 c a l).getLsbD i)).length)
  | .ctz _ t d a => some (d, fun c l => BitVec.ofNat 64 ((bitOrder t).takeWhile (fun i => !(src64 c a l).getLsbD i)).length)
  | .brev _ t d a => some (d, fun c l => ofBits t (fun i => (src64 c a l).getLsbD (width t - 1 - i)))
  | .sel _ t d a b z => some (d, fun c l =>
      narrow t ((src64 c a l &&& c.w.readV z.toNat l) ||| (src64 c b l &&& ~~~(c.w.readV z.toNat l))))
  | .mov _ t (.reg d) (.op a) => some (d, fun c l => if t.isFloat then BitVec.ofNat 64 (srcFp c t a l) else narrow t (src64 c a l))
  | .mov _ _ (.reg d) (.pred k) => some (d, fun c l => if (c.w.readP k.toNat).getLsbD l then 1 else 0)
  | .movi _ .sx d imm => some (d, fun _ _ => imm.signExtend 64)
  | .movi _ .zx d imm => some (d, fun _ _ => imm.zeroExtend 64)
  | .movi _ .hi d imm => some (d, fun c l => imm ++ (src64 c d l).setWidth 32)
  | .lea _ t d a b sh => some (d, fun c l => src64 c a l + narrow t (src64 c b l) * 2 ^ sh.toNat)
  | _ => none

/-- Whether a lane's value of an operand is a set of bits other than none: the low bits that a type reads (06 R113). -/
def nonzero (c : Ctx) (t : Ty) (o : Operand) (l : Nat) : Bool :=
  if t.isFloat then decide (srcFp c t o l ≠ 0) else decide (raw c t o l ≠ 0)

/-- The active lanes whose predicate is 1, in ascending order. -/
def voters (c : Ctx) (p : BitVec 3) : List Nat :=
  lanes.filter (fun l => c.act.getLsbD l && (c.w.readP p.toNat).getLsbD l)

/-- The predicate and the per-lane truth of the short words that write one, other than FCMP (06 R112, R113; 07 R127). -/
def predEffect : Instr → Option (Nat × (Ctx → Nat → Bool))
  | .icmp _ t p .eq a b => some (p.toNat, fun c l => decide (val c t a l = val c t b l))
  | .icmp _ t p .ne a b => some (p.toNat, fun c l => decide (val c t a l ≠ val c t b l))
  | .icmp _ t p .lt a b => some (p.toNat, fun c l => decide (val c t a l < val c t b l))
  | .icmp _ t p .le a b => some (p.toNat, fun c l => decide (val c t a l ≤ val c t b l))
  | .icmp _ t p .gt a b => some (p.toNat, fun c l => decide (val c t b l < val c t a l))
  | .icmp _ t p .ge a b => some (p.toNat, fun c l => decide (val c t b l ≤ val c t a l))
  | .mov _ t (.pred k) (.op a) => some (k.toNat, fun c l => nonzero c t a l)
  | .mov _ _ (.pred k) (.pred j) => some (k.toNat, fun c l => (c.w.readP j.toNat).getLsbD l)
  | .vote _ (.some q) p => some (q.toNat, fun c _ => decide (voters c p ≠ []))
  | .vote _ (.every q) p => some (q.toNat, fun c _ => decide (voters c p = lanesOf c.act))
  | .vote _ (.same q) p => some (q.toNat, fun c _ => decide (voters c p = []) || decide (voters c p = lanesOf c.act))
  | _ => none

/-! ### Cross-lane words (07 R123-R131) -/

/-- A lane that a shift reaches, or the lane itself where it reaches none (07 R124). -/
def inRange (src l : Int) : Nat := if 0 ≤ src ∧ src < 64 then src.toNat else l.toNat

/-- Destination and per-lane result of the short cross-lane words with a register destination. -/
def crossEffect : Instr → Option (Operand × (Ctx → Nat → Word))
  | .shfl _ .up off d a => some (d, fun c l => src64 c a (inRange (l - shflOffset c off) l))
  | .shfl _ .down off d a => some (d, fun c l => src64 c a (inRange (l + shflOffset c off) l))
  | .shfl _ .xor off d a => some (d, fun c l => src64 c a (inRange (Nat.xor l (shflOffset c off)) l))
  | .shfl _ .rot off d a => some (d, fun c l => src64 c a ((l + shflOffset c off) % 64))
  | .shflx _ d a b => some (d, fun c l => src64 c a (inRange (bits (src64 c b l) 0 8) l))
  | .bcast _ .first d a => some (d, fun c _ => match lanesOf c.act with
      | [] => 0
      | l :: _ => src64 c a l)
  | .bcast _ (.lane b) d a => some (d, fun c _ => src64 c a ((src64 c b 0).toNat % 64))
  | .perm _ d a b => some (d, fun c l => src64 c a (16 * (l / 16) + bits (src64 c b 0) (4 * (l % 16)) 4))
  | .vote _ (.mask d) p => some (d, fun c _ => c.act &&& c.w.readP p.toNat)
  | .vote _ (.count d) p => some (d, fun c _ => BitVec.ofNat 64 (voters c p).length)
  | .vote _ (.first d) p => some (d, fun c _ => match voters c p with
      | [] => BitVec.allOnes 64
      | l :: _ => BitVec.ofNat 64 l)
  | _ => none

/-- First destination register, number of registers, and the value of register `r` of them in lane `l`, of ZIP and UNZIP
(07 R126): the sequence runs through the lanes of one register before the next. -/
def zipEffect : Instr → Option (Nat × Nat × (Ctx → Nat → Nat → Word))
  | .zip2 _ d a => some (d.toNat, 2, fun c r l => c.w.readV (a.toNat + (64 * r + l) % 2) ((64 * r + l) / 2))
  | .zip3 _ d a => some (d.toNat, 3, fun c r l => c.w.readV (a.toNat + (64 * r + l) % 3) ((64 * r + l) / 3))
  | .zip4 _ d a => some (d.toNat, 4, fun c r l => c.w.readV (a.toNat + (64 * r + l) % 4) ((64 * r + l) / 4))
  | .unzip2 _ d a => some (d.toNat, 2, fun c r l => c.w.readV (a.toNat + (2 * l + r) / 64) ((2 * l + r) % 64))
  | .unzip3 _ d a => some (d.toNat, 3, fun c r l => c.w.readV (a.toNat + (3 * l + r) / 64) ((3 * l + r) % 64))
  | .unzip4 _ d a => some (d.toNat, 4, fun c r l => c.w.readV (a.toNat + (4 * l + r) / 64) ((4 * l + r) % 64))
  | _ => none

/-- First destination register, number of registers and first source register of ZIP and UNZIP, and their majors. -/
def zipRange : Instr → Option (Nat × Nat × Nat)
  | .zip2 _ d a | .unzip2 _ d a => some (d.toNat, 2, a.toNat)
  | .zip3 _ d a | .unzip3 _ d a => some (d.toNat, 3, a.toNat)
  | .zip4 _ d a | .unzip4 _ d a => some (d.toNat, 4, a.toNat)
  | _ => none
def zipMajor : Instr → Nat
  | .zip2 .. => 0x57 | .zip3 .. => 0x58 | .zip4 .. => 0x59 | .unzip2 .. => 0x5A | .unzip3 .. => 0x5B | .unzip4 .. => 0x5C
  | _ => 0

/-- The register writes of the long-latency words whose results stand at issue and set no flag: RED, RED.STEP, SCAN and CVTN
(06 R120; 07 R128-R130). -/
def longEffect : Instr → Option (Ctx → List RegWrite)
  | .red _ op t rnd sat pe d a => some (fun c =>
      redDst c d (redResult op t rnd sat ((lanesOf c.act).map (redInput c t a))) ++ peWrite c pe)
  | .redStep _ op t rnd sat k d a => some (fun c => dstWrite c d (fun l =>
      if c.act.getLsbD (Nat.xor l (2 ^ k.toNat)) then
        redFold op t rnd sat [redInput c t a l, redInput c t a (Nat.xor l (2 ^ k.toNat))]
      else redInput c t a l))
  | .scan _ op excl t rnd sat pe d a => some (fun c =>
      dstWrite c d (fun l => redResult op t rnd sat
        (((lanesOf c.act).filter (fun j => if excl then decide (j < l) else decide (j ≤ l))).map (redInput c t a))) ++ peWrite c pe)
  | .cvtn _ t6 b d a => some (fun c => dstWrite c d (fun l =>
      let sc : Int := match b with
        | some b => max (-127) (min 127 (src64 c b l).toInt)
        | none => lineScale ((opLanes c d).map (fun l => fpSrc c .f32 a l))
      BitVec.ofNat 64 (narrowLane sc (encodeTaper (narrowBits t6) ((fpSrc c .f32 a l).scale (-sc))))))
  | _ => none

/-! ### Floating-point words (06 R114-R122) -/

/-- Destination and per-lane result with flags of the short floating-point words with a register destination. -/
def fpEffect : Instr → Option (Operand × (Ctx → Nat → Nat × FpFlags))
  | .fadd _ t r sat d a b => some (d, fun c l => clampSat (fmtOf t) sat (fpAdd (fmtOf t) r c.w.ftz (fpSrc c t a l) (fpSrc c t b l)))
  | .fsub _ t r sat d a b => some (d, fun c l =>
      clampSat (fmtOf t) sat (fpAdd (fmtOf t) r c.w.ftz (fpSrc c t a l) (fpSrc c t b l).neg))
  | .fmul _ t r sat d a b => some (d, fun c l => clampSat (fmtOf t) sat (fpMul (fmtOf t) r c.w.ftz (fpSrc c t a l) (fpSrc c t b l)))
  | .fmac _ t r sat d a b z => some (d, fun c l =>
      clampSat (fmtOf t) sat (fpFma (fmtOf t) r c.w.ftz (fpSrc c t a l) (fpSrc c t b l) (fpSrc c t (.v z) l)))
  | .fmin _ t d a b => some (d, fun c l => fpMinMax (fmtOf t) c.w.ftz false (fpSrc c t a l) (fpSrc c t b l))
  | .fmax _ t d a b => some (d, fun c l => fpMinMax (fmtOf t) c.w.ftz true (fpSrc c t a l) (fpSrc c t b l))
  | .fabs _ t d a => some (d, fun c l => fpAbs (fmtOf t) c.w.ftz (fpSrc c t a l))
  | .fneg _ t d a => some (d, fun c l => fpNeg (fmtOf t) c.w.ftz (fpSrc c t a l))
  | .frnd _ t r d a => some (d, fun c l => fpRound (fmtOf t) r c.w.ftz (fpSrc c t a l))
  | .fclass _ t d a => some (d, fun c l => (2 ^ fpClass (fmtOf t) (srcFp c t a l), FpFlags.none))
  | .hadd2 _ t r sat d a b => some (d, packed3 fpAdd t r sat a b)
  | .hmul2 _ t r sat d a b => some (d, packed3 fpMul t r sat a b)
  | .hmac2 _ t r sat d a b z => some (d, fun c l => packed (fun k => clampSat (fmtOf t) sat
      (fpFma (fmtOf t) r c.w.ftz (halfSrc c t a k l) (halfSrc c t b k l) (halfSrc c t (.v z) k l))))
  | .cvt _ dt st r sat d a => some (d, cvtLane dt st r sat a)
  | _ => none

/-- The same of the long floating-point words, QRES apart. -/
def fpLongEffect : Instr → Option (Operand × (Ctx → Nat → Nat × FpFlags))
  | .fdiv _ t r d a b => some (d, fun c l => fpDiv (fmtOf t) r c.w.ftz (fpSrc c t a l) (fpSrc c t b l))
  | .fsqrt _ t r d a => some (d, fun c l => fpSqrt (fmtOf t) r c.w.ftz (fpSrc c t a l))
  | .frcp _ t d a => some (d, fun c l => fpRcp t c.w.ftz (srcFp c t a l))
  | .frsq _ t d a => some (d, fun c l => fpRsq t c.w.ftz (srcFp c t a l))
  | .fexp2 _ t d a => some (d, fun c l => fpExp2 t c.w.ftz (srcFp c t a l))
  | .flog2 _ t d a => some (d, fun c l => fpLog2 t c.w.ftz (srcFp c t a l))
  | .fsin _ t d a => some (d, fun c l => fpSinCos false t c.w.ftz (srcFp c t a l))
  | .fcos _ t d a => some (d, fun c l => fpSinCos true t c.w.ftz (srcFp c t a l))
  | .ftanh _ t d a => some (d, fun c l => fpTanh t c.w.ftz (srcFp c t a l))
  | .cvtw _ t t6 r d a => some (d, cvtwLane t t6 r a)
  | _ => none

/-- The flags of the lanes that an operation computes. -/
def flagsOf (c : Ctx) (d : Operand) (f : Nat → Nat × FpFlags) : List (Nat × FpFlags) := (opLanes c d).map (fun l => (l, (f l).2))

/-- The active lanes of FCMP with their flags (06 R109, R115). -/
def fcmpFlags (t : Ty) (a b : Operand) (c : Ctx) : List (Nat × FpFlags) :=
  (lanesOf c.act).map (fun l => (l, { i := (fpSrc c t a l).isSnan || (fpSrc c t b l).isSnan }))

/-- The enabled exceptions that a list of flags raises, by lane (06 R117). -/
def raises (c : Ctx) (fl : List (Nat × FpFlags)) (l : Nat) : Bool :=
  fl.any (fun (j, f) => j == l && Nat.land f.code c.w.trap.en.toNat != 0)

/-- The truth of an FCMP condition over two ordered or unordered values (06 R115). -/
def fpHolds (cc : FCond) (x y : FVal) : Bool :=
  let un := x.isNan || y.isNan
  match cc with
  | .eq => !un && decide (fpOrder x y = 0)
  | .ne => un || decide (fpOrder x y ≠ 0)
  | .lt => !un && decide (fpOrder x y < 0)
  | .le => !un && decide (fpOrder x y ≤ 0)
  | .gt => !un && decide (0 < fpOrder x y)
  | .ge => !un && decide (0 ≤ fpOrder x y)
  | .un => un
  | .ord => !un

/-! ### Control words (07 R132-R146) -/

/-- The entries that a branch makes, and the warp that it leaves otherwise (07 R132, R133). -/
def branchEffect : Instr → Option (Ctx → List Entry × Warp)
  | .bra _ kind tp fp off => some (fun c => (braEntries c kind tp fp off, c.w))
  | .call _ kind tp fp off => some (fun c =>
      (braEntries c kind tp fp off, if takers c kind = 0 then c.w else c.w.writeS 63 (c.e.pc + 8)))
  | .brx _ a tp fp => some (fun c => (brxEntries c a tp fp, c.w))
  | .ret _ a tp fp => some (fun c => (brxEntries c a tp fp, c.w))
  | _ => none

/-- A branch's targets are word addresses: those of BRX and RET in every active lane (07 R133). -/
def targetsOk (c : Ctx) : Instr → Prop
  | .brx _ a _ _ => ∀ l, c.act.getLsbD l = true → (src64 c a l).toNat % 8 = 0
  | .ret _ a _ _ => ∀ l, c.act.getLsbD l = true → (src64 c a l).toNat % 8 = 0
  | _ => True

/-- Control words that do nothing where no lane is active (03 R45). -/
def guardedOff : Instr → Bool
  | .exit _ | .parkCtr _ _ | .parkWalk _ _ | .yield _ | .bar _ _ | .flusha _ _ | .trap _ _ | .bkpt _ _ | .tretRetry _
  | .tretSkip _ | .csrw _ _ _ | .shape _ _ _ => true
  | _ => false

/-- The code of a word that raises USER: TRAP's, and BKPT's with bit 17 under the debug flag (07 R146). -/
def userTrap (c : Ctx) : Instr → Option Word
  | .trap _ code => some (code.setWidth 64)
  | .bkpt _ code => if c.launch.debug then some (code.setWidth 64 ||| 0x20000) else none
  | _ => none

/-- A warp without its event counters and its place on its scheduler. -/
def uncounted (w : Warp) : Warp := { unscheduled w with events := [] }

/-- The warp after trap delivery from the entry of a word, its event counters and its place on its scheduler apart (07 R142). -/
def delivered (c : Ctx) (cause : Nat) (lns : LaneMask) (info : Word) : Warp :=
  { uncounted c.w with
    trap := { c.w.trap with pc := c.e.pc, cause := cause, lanes := lns, info := info, intrap := true
                            saved := some { frontier := c.w.frontier, spilled := c.w.spilled, e := c.e } }
    frontier := [{ prio := 255, pc := c.w.trap.vec, lanes := c.e.lanes }]
    spilled := []
    windows := [] }

/-- A warp that can take a trap (07 R142, R144). -/
def canTrap (c : Ctx) : Prop := c.front = false ∧ c.w.trap.intrap = false ∧ c.w.trap.vec ≠ 0

/-- The lanes in which a word acts: of a pair word those of either half (03 R54). -/
def wordLanes (c : Ctx) : Instr → LaneMask
  | .pairWord _ _ x y => guardLanes c.w c.e x.guard false ||| guardLanes c.w c.e y.guard false
  | _ => c.act

/-- The lanes in which the part of a word acts whose specifier is at fault: of a pair word the half, 0 or 1, that bit 16 of the
information names (03 R52). -/
def indexLanes (c : Ctx) (i : Instr) (info : Nat) : LaneMask :=
  match i with
  | .pairWord _ _ x y => guardLanes c.w c.e (if info / 65536 = 0 then x.guard else y.guard) false
  | _ => c.act

/-- TRET of each kind: whether it skips the trapped word. -/
def tretSkips : Instr → Option Bool
  | .tretRetry _ => some false
  | .tretSkip _ => some true
  | _ => none

/-! ### Memory words (10 R186-R210) -/

/-- Elements of an FM word, as lane and address (10 R186). -/
def elements (c : Ctx) (w : Width) (base : BitVec 6) (off : BitVec 20) (d : Operand) : List (Nat × Nat) :=
  fmElems c base off (widthBytes w) d

/-- The state around the issuing warp, and the warp, after a memory word with an active lane that meets no fault: the word's
elements are translated before any is performed (10 R189). -/
def memoryEffect (i : Instr) (c : Ctx) (s : State) : Option (State × Warp) :=
  match i with
  | .ld _ .g _ w base off d =>
    match s.placeAll c.part c.func (elements c w base off d) (widthBytes w) {} with
    | .ok ps =>
      let r := readPlaces c s ps
      let q := if c.front then prologueReads c r.1 (widthBytes w) (elements c w base off d) r.2 else r
      some (q.1, flown c .timed (loadWrites c w d q.2))
    | _ => none
  | .ld _ (.sp .none) _ w base off d =>
    let r := spLoad c s (elements c w base off d) (widthBytes w) 0 false
    some (r.1, flown c .timed (loadWrites c w d r.2))
  | .ld _ (.sp .keep) _ w base off d =>
    if c.wg.allFull (accessGranules c.wg (elements c w base off d) (widthBytes w)) then
      let r := spLoad c s (elements c w base off d) (widthBytes w) 0 false
      some (r.1, flown c .timed (loadWrites c w d r.2))
    else none
  | .ld _ (.sp .take) _ w base off d =>
    if c.wg.allFull (accessGranules c.wg (elements c w base off d) (widthBytes w)) then
      let r := spLoad c s (elements c w base off d) (widthBytes w) 0 true
      some (r.1, flown c .timed (loadWrites c w d r.2))
    else none
  | .ld _ (.acc hi) _ w base off d =>
    let es := accElems c base off hi
    match accOutside c es with
    | some _ => none
    | none =>
      let g := es.foldl (fun (g : Workgroup) (_, r, _) => g.accFind r) (s.wg c.wgk)
      some (s.setWg c.wgk g, flown c .timed (loadWrites c w d (es.map (fun (l, r, col) => (l, bytesLE 4 (g.accAt r col).toNat)))))
  | .st _ .g _ w base off d =>
    match s.placeAll c.part c.func (elements c w base off d) (widthBytes w) { write := true } with
    | .ok ps =>
      match warpWrites c s (elemWrites ps (storeData c w d)) with
      | .ok u => some (u, c.w)
      | .error _ => none
    | _ => none
  | .st _ (.sp .none) _ w base off d =>
    some (s.setWg c.wgk ((elements c w base off d).foldl (fun (g : Workgroup) (l, a) =>
      (g.oobAt 1 (oobBy c s) a (widthBytes w)).spWrite a (storeData c w d l)) (s.wg c.wgk)), c.w)
  | .st _ (.sp .fill) _ w base off d =>
    let g := (elements c w base off d).foldl (fun (g : Workgroup) (l, a) =>
      (g.oobAt 1 (oobBy c s) a (widthBytes w)).spWrite a (storeData c w d l)) (s.wg c.wgk)
    some ((countBanks c (s.setWg c.wgk g) (elements c w base off d) (widthBytes w)).fillGranules c.wgk
      (accessGranules g (elements c w base off d) (widthBytes w)), c.w)
  | .st _ (.acc hi) _ w base off d =>
    match accOutside c (accElems c base off hi) with
    | some _ => none
    | none => some (s.modWg c.wgk (fun g => (accElems c base off hi).foldl (fun (g : Workgroup) (l, r, col) =>
        g.accPut r col (BitVec.ofNat 32 (numLE (storeData c w d l)))) g), c.w)
  | .ldh _ _ w base off d =>
    match s.placeAll c.part c.func (fmElems c base off 64 d) 1 {} with
    | .ok ps =>
      let u := (readPlaces c s ps).1
      some (u, flown c .timed (loadWrites c w d (ps.map (fun (l, bs) => (l, bytesLE 2 (u.header c.part (lineOf bs).1 (lineOf bs).2))))))
    | _ => none
  | .redm _ op t scope a b =>
    match s.placeAll c.part c.func (atomElems c false a) (width t / 8) { write := true } with
    | .ok ps =>
      match bufferAll c.w.abuf (ps.map (fun (l, bs) =>
          ({ key := placeKey bs, page := (bs.headD ({}, 0)).1, va := (src64 c a l).toNat, op := op, ty := t, scope := scope, partial_ := srcBits c t b l } : BufEntry))) with
      | .ok buf => if misaligned c false (atomElems c false a) (width t / 8) = 0 then some (s, { c.w with abuf := buf }) else none
      | .error _ => none
    | _ => none
  | .copy _ sp a =>
    if s.roomFull c.core c.slot .copy then none
    else
      match loadRecord c s (encode i) sp (src64 c a 0).toNat 64 with
      | .ok (u, desc) => some (u.accepted.modCore c.core (fun k => { k with copies := k.copies ++ [{ by_ := issuedBy c u i, desc := desc }] }), c.w)
      | .error _ => none
  | .nset _ (.word k) n a =>
    if (s.core c.core).sweepsOn c.slot [n.toNat] then none else some (s, c.w.writeNest n.toNat k.toNat (src64 c a 0))
  | .nset _ .sp n a =>
    if (s.core c.core).sweepsOn c.slot [n.toNat] ∨ (src64 c a 0).toNat % 64 ≠ 0 then none
    else
      let r := spLoad c s [(0, (src64 c a 0).toNat)] 64 0 false
      some (r.1, c.w.setNests n.toNat ((List.range 8).map (fun k => (k, fieldW (r.2.flatMap Prod.snd) (8 * k) 8))))
  | .nget _ d n k =>
    if (s.core c.core).sweepsOn c.slot [n.toNat] then none
    else some (s, flown c .timed (dstWrite c d (fun _ => c.w.readNest n.toNat k.toNat)))
  | .nrst _ n =>
    if (s.core c.core).sweepsOn c.slot [n.toNat] then none
    else some (s, ((c.w.writeNest n.toNat 5 0).writeNest n.toNat 6 0).writeNest n.toNat 7 0)
  | .fence _ _ _ _ => some (s, c.w)
  | .afence _ => some (s, c.w)
  | .pref _ _ _ _ _ => some (s, c.w)
  | _ => none

/-- The atomics: operation, type, whether they act on the scratchpad, destination, address operand, and what a lane stores. -/
structure Atomic where
  ty : Ty
  sp : Bool
  scalar : Bool
  writes : Bool
  addr : Operand
  store : AtomFn
  results : List (Nat × Nat) → List RegWrite

/-- Whether the address of a lane's atomic lies in the scratchpad, where it acts on it. -/
def atomIn (c : Ctx) (sp : Bool) (a : Operand) (t : Ty) (l : Nat) : Bool := !sp || c.wg.spIn (src64 c a l).toNat (width t / 8)

/-- ATOM and CAS as atomics (10 R195, R196, R347, R349). -/
def atomic (c : Ctx) : Instr → Option Atomic
  | .atom _ op t _ sp d a b => some
    { ty := t, sp := sp, scalar := atomScalar d a b, writes := op != .ld, addr := a
      store := fun l x => if op = .ld then none else some (atomOp op t x (match b with | some b => srcBits c t b l | none => 0))
      results := fun xs => match d with
        | some d => dstWrite c d (fun l => narrow t (BitVec.ofNat 64 (oldValue xs l)))
        | none => [] }
  | .cas _ t _ sp ps d a b => some
    { ty := t, sp := sp, scalar := d.isS, writes := true, addr := a
      store := fun l x => if x = (src64 c d l).toNat % 2 ^ width t then some (srcBits c t b l) else none
      results := fun xs => dstWrite c d (fun l => narrow t (BitVec.ofNat 64 (oldValue xs l))) ++
        (if ps = 0 then [] else [.p ps.toNat c.act (maskOf (fun l =>
          let j := if d.isS then 0 else l
          decide (oldValue xs j = (src64 c d j).toNat % 2 ^ width t) && atomIn c sp a t j))]) }
  | _ => none

/-! ### Mass words (08 R148-R164) -/

/-- The operands with which a mass word arrives at its unit. -/
def massOperands : Instr → Option (Ctx → LaneVec × LaneVec)
  | .mtcfg _ _ _ a => some (fun c => (plainOperand c a, zeroVec))
  | .mtlink _ _ _ _ => some (fun _ => (zeroVec, zeroVec))
  | .mtclr _ _ _ => some (fun _ => (zeroVec, zeroVec))
  | .mtload _ _ _ a b => some (fun c => (plainOperand c a, plainOperand c b))
  | .mtset _ raw _ a b => some (fun c => (plainOperand c a, massOperand c raw b))
  | .mtadd _ raw _ _ a b => some (fun c => (plainOperand c a, massOperand c raw b))
  | .mtget _ _ _ _ a => some (fun c => (plainOperand c a, zeroVec))
  | .mtpfx _ _ _ _ a => some (fun c => (plainOperand c a, zeroVec))
  | .mtfind _ raw _ _ a => some (fun c => (massOperand c raw a, zeroVec))
  | .mttot _ _ _ _ => some (fun _ => (zeroVec, zeroVec))
  | .mtcutIdx _ _ _ _ a => some (fun c => (plainOperand c a, zeroVec))
  | .mtcutMass _ raw _ _ a => some (fun c => (massOperand c raw a, zeroVec))
  | _ => none

/-- MTLOAD's table is word aligned (08 R157). -/
def massAligned (c : Ctx) : Instr → Prop
  | .mtload _ _ _ a _ => (src64 c a 0).toNat % 4 = 0
  | _ => True

/-- The registers that a mass word leaves pending. -/
def massPending (c : Ctx) (i : Instr) : List Reg :=
  match (massName i).2.2 with
  | some d => dstReg c d
  | none => []

/-- The order in which mass instructions start: that of their issue cycles, then ascending scheduler (08 R163). -/
def arrivesBefore (x y : MassOp) : Prop := x.at_ < y.at_ ∨ (x.at_ = y.at_ ∧ x.slot / 16 ≤ y.slot / 16)

/-- The exact sum of an addition to a leaf over the lanes that name it (08 R158). -/
def leafSum (g : Workgroup) (m : Nat) (raw sgn : Bool) (o : MassOp) (j : Nat) : Int :=
  (g.leaf m j : Int) + (((massLanes o).filter (fun l => decide (massIndex o l = j))).map
    (fun l => (massValue raw sgn (g.massReg m).f o l).1)).sum

/-! ### Walk, task, KV, collective, digest and counter words (12, 13, 16, 17, 18) -/

/-- The record that a word with an active lane reads at issue, where it is aligned, its queue has room and the access meets
no fault: the state after the read, and its bytes. -/
def recordRead (i : Instr) (c : Ctx) (s : State) : Option (State × List Byte) :=
  let rd (ok : Bool) (sp : Bool) (a : Operand) (n : Nat) (r : Room) : Option (State × List Byte) :=
    if ok && !s.roomFull c.core c.slot r then
      match loadRecord c s (encode i) sp (src64 c a 0).toNat n with
      | .ok (u, bs) => some (u, bs)
      | .error _ => none
    else none
  match i with
  | .walk _ sp _ a => rd (decide ((src64 c a 0).toNat % 8 = 0) && s.gateOpen c.core c.wgk) sp a 128 .walk
  | .tspawn _ sp a => rd (decide ((src64 c a 0).toNat % 8 = 0)) sp a 64 .spawn
  | .launch _ _ a => rd (decide ((src64 c a 0).toNat % 8 = 0) && s.launchTurn c.func (src64 c a 0)) false a 128 .launch
  | .kvseal _ a => rd (decide ((src64 c a 0).toNat % 32 = 0)) false a 32 .kvseal
  | .coll _ a => rd (decide ((src64 c a 0).toNat % 64 = 0)) false a 64 .coll
  | _ => none

/-- What a word with a record makes of it: the state around the issuing warp, and the warp (12 R225, R242; 13 R249, R254;
16 R300; 17 R310). -/
def recordEffect (i : Instr) (c : Ctx) (u : State) (bs : List Byte) : Option (State × Warp) :=
  match i with
  | .walk _ _ d _ =>
    let w := (walkOf c u bs).1
    match walkReason c u w (walkOf c u bs).2 with
    | some reason => some (refuseWalk c u i w reason, flown c .timed (dstWrite c d (fun _ => BitVec.ofNat 64 (2 ^ 63 + reason))))
    | none => some (acceptWalk c u w, flown c .timed (dstWrite c d (fun _ => BitVec.ofNat 64 w.wid)))
  | .tspawn _ _ _ =>
    if taskBad bs ∨ (field bs 40 1 + 1) * 512 > c.wg.part.regs * 32768 then none
    else if fieldW bs 16 8 = 0 then some (u.storeTask c.wgk bs none, c.w)
    else
      match u.counterPlace c.part c.func (counterVa (fieldW bs 16 8)) {} with
      | .ok ps =>
        let r := (readPlaces c u [(0, ps)]).1
        some (r.storeTask c.wgk bs (if r.counterWord c.part ps % 2 ^ 24 = 0 then none else some (placeKey ps)), c.w)
      | _ => none
  | .launch _ d a =>
    let r := (u.jrnLaunched c.func (src64 c a 0)).acceptLaunch c.part c.func (src64 c a 0) bs
    some (r.1, flown c .timed (dstWrite c d (fun _ => BitVec.ofNat 64 r.2)))
  | .kvseal _ _ =>
    some (u.accepted.modCore c.core (fun k => { k with kvs := k.kvs ++
      [{ by_ := issuedBy c u i, bytes := bs, blkb := match c.wg.kvDesc with | some d => kvBlkB d | none => 0 }] }), c.w)
  | .coll _ _ =>
    some (u.accepted.modPart c.part (fun p => { p with colls := p.colls ++ [{ by_ := issuedBy c u i, core := 0xFFFF, desc := bs }] }), c.w)
  | _ => none

/-- The other words of these chapters that act at issue, with an active lane and no fault. -/
def unitEffect (i : Instr) (c : Ctx) (s : State) : Option (State × Warp) :=
  match i with
  | .mov _ t (.idx k) a => some (s, c.w.writeX k.toNat ((movValue c t a 0).setWidth 16))
  | .shape _ a b => some (s, { c.w with shapeg := BitVec.ofNat 64 (shapeGrant (c.wg.awlimit - c.wg.awbase)
      (bits (src64 c a 0) 0 32) (bits (src64 c a 0) 32 32) (bits (src64 c b 0) 0 32)) })
  | .csrw _ k a =>
    if k = 0x106 then
      if (src64 c a 0).getLsbD 0 then
        match loadRecord c s (encode i) false (bits (src64 c a 0) 6 51 * 64) 64 with
        | .ok (u, d) => some (u.modWg c.wgk (fun g => g.kvLoad s.now (src64 c a 0) d), c.w)
        | .error _ => none
      else some (s.modWg c.wgk (fun g => g.kvOff s.now (src64 c a 0)), c.w)
    else if k.toNat < 0x100 then some (s, c.w.writeCsr k.toNat (src64 c a 0))
    else some (s.modWg c.wgk (fun g => g.writeCsr s.now k.toNat (src64 c a 0)), c.w)
  | .wstat _ d a k =>
    some (s, flown c .timed (dstWrite c d (fun _ => BitVec.ofNat 64 (match ownWalk c s a with
      | some w => walkStat (s.core c.core) w k.toNat
      | none => 0))))
  | .wcancel _ a =>
    match ownWalk c s a with
    | some w => if w.state = .finishing ∨ w.state = .aborting ∨ w.state = .done then some (s, c.w) else some (s.abortWalk c.core w.wid 0x40, c.w)
    | none => some (s, c.w)
  | .mfence _ => some (s.modWg c.wgk (fun g => { g with mfence := (s.openWalks c.core c.wgk).map Walk.wid }), c.w)
  | .harg _ d k =>
    match c.w.uparg.bind (fun p => (s.core c.core).upcalls.find? (fun u => u.place == p)) with
    | some u => some (s, flown c .timed (dstWrite c d (fun _ => fieldW u.block (8 * k.toNat) 8)))
    | none => none
  | .tdec _ _ a b =>
    let n := bits (src64 c b 0) 0 32
    if (src64 c a 0).toNat % 4 ≠ 0 then none
    else
      match s.counterPlace c.part c.func (src64 c a 0).toNat { write := true } with
      | .ok ps =>
        let u := s.findErrors c.part c.owner { (recordFor c 0x14 0) with pc := 0 } (placeLines ps)
        if n > u.counterWord c.part ps % 2 ^ 24 then none
        else if n = 0 then some (u.heatLines c.part c.core (placeLines ps), c.w)
        else match warpWrites c u (counterWrites ps (u.counterWord c.part ps - n)) with
          | .ok v => some (v, c.w)
          | .error _ => none
      | _ => none
  | .kvfree _ a b =>
    match c.wg.kvOn with
    | none => none
    | some d =>
      if lanePos c a 0 ≥ kvNseq d then none
      else
        match s.placeAll c.part c.func [(0, kvSeqTab d + 32 * lanePos c a 0 + 16)] 4 { write := true } with
        | .ok ps =>
          match atomDev c (fun _ x => some (max x (lanePos c b 0))) 4
              ((readPlaces c s ps).1.reportDropped c.part { (recordFor c 0x14 0) with pc := 0 } (placeLines (ps.flatMap Prod.snd))) ps with
          | .ok (u, _) => some (u, c.w)
          | .error _ => none
        | _ => none
  | .kvx _ wr d a b =>
    match kvLanes i wr a b (opLanes c d) c s with
    | .ok (u, rs) =>
      if rs.any (fun (_, r) => (kvReason r).isSome) then none
      else some (u, flown c .timed (dstWrite c d (fun l => match rs.find? (fun (j, _) => j == l) with
        | some (_, .ok x) => x
        | _ => 0)))
    | .error _ => none
  | .dreg _ k a b =>
    some (s.setDigest c.func k.toNat (s.declare c.func k.toNat (src64 c a 0).toNat (src64 c b 0).toNat), c.w)
  | .dunreg _ k => some (s.setDigest c.func k.toNat {}, c.w)
  | .dgrd _ k sel d => some (s, flown c .timed (dstWrite c d (fun _ => (s.digest c.func k.toNat).read sel)))
  | _ => none

/-- The word in flight that AWIN and WREG leave: a later WALK of the workgroup waits for it (19 R341). -/
def gated (c : Ctx) (ws : List RegWrite) (late : Late) : Warp :=
  { c.w with nextFlight := c.w.nextFlight + 1, flights := c.w.flights ++
      [{ id := c.w.nextFlight, kind := .timed, pc := c.e.pc, word := c.word, regs := writeRegs ws, writes := ws, late := late
         holds := false, walkGate := true }] }

/-- The words that remove their active lanes from the frontier (07 R134; 12 R245). -/
def leaves : Instr → Bool
  | .exit _ | .hret _ | .hretAbort _ => true
  | _ => false

/-! ### Words that wait (02 R38) -/

/-- The queue that a word's entry needs room in, the operand that addresses its record, and the record's alignment. -/
def roomOf : Instr → Option (Room × Operand × Nat)
  | .copy _ _ a => some (.copy, a, 1)
  | .walk _ _ _ a => some (.walk, a, 8)
  | .tspawn _ _ a => some (.spawn, a, 8)
  | .launch _ _ a => some (.launch, a, 8)
  | .kvseal _ a => some (.kvseal, a, 32)
  | .coll _ a => some (.coll, a, 64)
  | _ => none

/-- The nests that a word uses (10 R208, R209). -/
def nestsOf : Instr → Option (List Nat)
  | .nset _ _ n _ | .nrst _ n => some [n.toNat]
  | .nget _ _ n _ => some [n.toNat]
  | .tsweep _ (.copy nd) _ ns _ _ => some [ns.toNat, nd.toNat]
  | .tsweep _ _ _ ns _ _ => some [ns.toNat]
  | _ => none

/-- The word is not performed, and its warp waits for `b`: nothing but its place on its scheduler has changed. -/
def Blocked (i : Instr) (s : State) (c : Ctx) (b : Block) : Prop :=
  ∃ t, exec i s = .next t ∧ Elsewhere s t ∧ unscheduled (t.issuerWarp s.cur) = unscheduled c.w ∧
    (t.issuerWarp s.cur).sched.block = some b ∧ (t.issuerWarp s.cur).state ≠ .issuing

/-! ### Steps of units and of the outside world -/

/-- What a warp in the register region is again when it was swapped out, or frozen (02 R24). -/
def unswapped : Base → WState
  | .ready => .ready
  | .parked p => .parked p
  | .dormant => .dormant

/-- A decrement of the counter at `va` for a completion is due at the memory-side unit, where there is a counter (17 R305). -/
def due (t : State) (va : Word) (status agent : Nat) : Prop :=
  va ≠ 0 → ∃ d ∈ t.decs, d.va = va ∧ d.status = status ∧ d.agent = agent

/-- A command that ends leaves its queue at once where there is no counter at `va`; else it stays first, closing, until its
decrement is performed (17 R305). -/
def leftQueue {α : Type} (state : α → CmdState) (va : Option Word) (q r : List α) : Prop :=
  match va with
  | none => q = r
  | some _ => ∃ x n, q = x :: r ∧ state x = .closing n

/-- The address that a DONE field holds, none for 0. -/
def doneAt (va : Word) : Option Word := if va = 0 then none else some va

/-- The same of a collective at place k of its partition's queue. -/
def collLeft (t : State) (part k : Nat) (q : List Collective) (va : Word) : Prop :=
  if va = 0 then (t.part part).colls = q.eraseIdx k
  else ∃ c n, (t.part part).colls = q.set k c ∧ c.state = .closing n

/-- A launch that was open is COMPLETE with a status, its DONE counter's decrement due, or gone where it has none (13 R252; 17
R305). -/
def ended (s t : State) (lid status : Nat) : Prop :=
  (t.launch lid).open_ = false ∧ due t (fieldW (s.launch lid).record 24 8) status 8

/-- A launch that may start: WAITING, its counter has been zero, and a prologue of its own finds the front-end core free (13 R252,
R255). -/
def startable (s : State) (lid : Nat) : Prop :=
  (s.launch lid).live = true ∧ (s.launch lid).state = .waiting ∧ (s.launch lid).ready = true ∧ (s.launch lid).heldPage = none ∧
    ((s.launch lid).prologueAt = 0 ∨ s.frontFree (s.launch lid) = true)

/-- A chunk of a running ring collective that has not passed in its phase, with data of its type and length (17 R313). -/
def ringOk (s : State) (part k chunk : Nat) (phase : RingPhase) (data : CollData) (c : Collective) : Prop :=
  s.collAt part k = some c ∧ c.state = .running ∧ collPush c.desc = false ∧ chunk < entrySize c.entry ∧
    c.hops.contains (phase, chunk) = false ∧ collIsType data (collType c.desc) = true ∧ collLen data = (c.chunk chunk).2

/-- The reply to an attestation request: blocks 1 to 5 are the ROM's digest, SHA-384 of what the device booted from, and of the
partition registers now (18 R340). -/
def spdmReply (s : State) (i : Instr) : Option SpdmReply :=
  let blocks := [(1, Config.attest 1 []), (2, sha384 s.booted.boot), (3, sha384 s.booted.firmware), (4, sha384 s.booted.manifest),
    (5, sha384 s.measured)]
  match i with
  | .getVersion => some (.version 1 3)
  | .getCapabilities => some (.capabilities false)
  | .negotiateAlgorithms => some (.algorithms 0x80 0x02)
  | .getDigests => some (.digests [(0, sha384 certChain)])
  | .getCertificate slot => some (if slot = 0 then .certificate 0 certChain else .error)
  | .challenge nonce => some (.challengeAuth 0 (sha384 certChain) (Config.attest 6 nonce))
  | .getMeasurements idx => some (
      if idx = 0 then .measurements 5 []
      else if idx = 255 then .measurements 5 blocks
      else if 1 ≤ idx ∧ idx ≤ 5 then .measurements 5 (blocks.filter (fun x => x.1 == idx)) else .error)
  | _ => none

/-- The function `f` becomes `x`, and nothing else changes. -/
def onlyFunc (s t : State) (f : Nat) (x : Func) : Prop :=
  t.func f = x ∧ (∀ g, g ≠ f → t.func g = s.func g) ∧ { t with funcs := s.funcs } = s

/-- The partition `p` becomes `x`, and nothing else changes. -/
def onlyPart (s t : State) (p : Nat) (x : Partition) : Prop :=
  t.part p = x ∧ (∀ q, q ≠ p → t.part q = s.part q) ∧ { t with parts := s.parts } = s

/-- The function `f` becomes `x`, its cached translations are dropped, and nothing else changes. -/
def onlyFuncFresh (s t : State) (f : Nat) (x : Func) : Prop :=
  t.func f = x ∧ (∀ g, g ≠ f → t.func g = s.func g) ∧ t.tlb = s.tlb.filter (fun y => y.2.1 != f) ∧
    { t with funcs := s.funcs, tlb := s.tlb } = s

/-- PARTCTL.HEATK of a written value: a sampling exponent from 8 to 16, else 12 (15 R286). -/
def heatkOf (v : Word) : Nat := if 8 ≤ bits v 16 5 ∧ bits v 16 5 ≤ 16 then bits v 16 5 else 12

/-- LOG2N of a written queue register is one that the register takes: 4 to 16 (13 R258). -/
def log2nTaken (v : Word) : Prop := 4 ≤ bits v 1 5 ∧ bits v 1 5 ≤ 16

/-- The fields of a word with no lookahead, no gap, no give-way and no guard. -/
def noHdr : Hdr := { la := 0, gap := 0, gw := false, guard := 0, gn := false }

end Sys2Proof.Claims

section Statements
open Sys2Proof Sys2Proof.Machine Sys2Proof.Safety Sys2Proof.Claims

/-- 06 R110, R111, R113: each integer, logic and move instruction with a register destination completes, and writes its
result in the active lanes and nothing else. -/
def Obligations.IntegerLanes : Prop :=
  ∀ (i : Instr) (d : Operand) (f : Ctx → Nat → Word), laneEffect i = some (d, f) →
    ∀ (s : State) (c : Ctx), Issues i s c → Writes i s c d (f c) c.w.fpx

/-- 06 R99: a write to p0 is discarded, and a predicate is written in active lanes alone: by ICMP, MOV and the votes (06 R112,
R113; 07 R127), which change nothing else, and by every register write that a word leaves in flight. An index register is
written as a whole by MOV with an active lane, and not at all with none. -/
def Obligations.Predicates : Prop :=
  (∀ (i : Instr) (k : Nat) (f : Ctx → Nat → Bool), predEffect i = some (k, f) →
    ∀ (s : State) (c : Ctx), Issues i s c → WritesP i s c k (f c) c.w.fpx) ∧
  (∀ (w : Warp) (k : Nat) (act vals : LaneMask) (j l : Nat), l < 64 → ((RegWrite.apply w (.p k act vals)).readP j).getLsbD l =
    if j = k ∧ k ≠ 0 ∧ act.getLsbD l = true then vals.getLsbD l else (w.readP j).getLsbD l) ∧
  (∀ (h : Hdr) (ty : Ty) (k : BitVec 2) (a : Operand) (s : State) (c : Ctx), Issues (.mov h ty (.idx k) (.op a)) s c →
    ∃ t g, exec (.mov h ty (.idx k) (.op a)) s = .next t ∧ Performed s t c g ∧ RegsOnly c.w g ∧ g.v = c.w.v ∧ g.s = c.w.s ∧
      g.p = c.w.p ∧ ∀ j, g.readX j = if j = k.toNat ∧ c.act ≠ 0 then (narrow ty (src64 c a 0)).toNat % 65536 else c.w.readX j)

/-- 07 R124, R125, R127: SHFL, SHFLX, BCAST, PERM and the votes into a register read other lanes, active or
not, and write the active lanes alone. -/
def Obligations.CrossLanes : Prop :=
  ∀ (i : Instr) (d : Operand) (f : Ctx → Nat → Word), crossEffect i = some (d, f) →
    ∀ (s : State) (c : Ctx), Issues i s c → Writes i s c d (f c) c.w.fpx

/-- 07 R126: ZIP and UNZIP read all their sources before they write; each destination register holds its part of the sequence
in the active lanes, and nothing else changes. Their words hold plain v specifiers, and zero in b and mod; a range that passes
v255 is ILLEGAL, one that reaches the declared register count traps with INDEX and names the range's first specifier. -/
def Obligations.ZipRanges : Prop :=
  (∀ (i : Instr) (d n : Nat) (f : Ctx → Nat → Nat → Word), zipEffect i = some (d, n, f) →
    ∀ (s : State) (c : Ctx), Issues i s c →
      ∃ t g, exec i s = .next t ∧ Performed s t c g ∧ RegsOnly c.w g ∧ g.s = c.w.s ∧ g.p = c.w.p ∧ g.x = c.w.x ∧
        ∀ r l, l < 64 → g.readV r l = if d ≤ r ∧ r < d + n ∧ c.act.getLsbD l = true then f c (r - d) l else c.w.readV r l) ∧
  (∀ (i : Instr) (d n a : Nat), zipRange i = some (d, n, a) →
    (∀ x : Word, decode x = some i → x.toNat / 2 ^ 56 = zipMajor i ∧ x.toNat / 2 ^ 35 % 1024 = d ∧ x.toNat / 2 ^ 25 % 1024 = a ∧
      x.toNat % 2 ^ 25 = 0 ∧ d + n ≤ 256 ∧ a + n ≤ 256) ∧
    (256 < d + n ∨ 256 < a + n → ∀ (s : State) (w : Warp) (e : Entry), s.issuer = some (w, e) →
      w.heldUp = false → (s.launch (s.ctx w e (hdrOf i)).lid).open_ = true →
      ∃ t, exec i s = .next t ∧ ended s t (s.ctx w e (hdrOf i)).lid 1) ∧
    (∀ (s : State) (w : Warp) (e : Entry), s.issuer = some (w, e) → w.heldUp = false →
      i.wf = true → lookaheadFault i w = none → blockOf i w = none → w.nregs < d + n ∨ w.nregs < a + n →
      let c : Ctx := { s.ctx w e (hdrOf i) with word := encode i }
      canTrap c → ∃ t, exec i s = .next t ∧ Elsewhere s t ∧
        uncounted (t.issuerWarp s.cur) = delivered c 3 c.act (BitVec.ofNat 64 (if w.nregs < d + n then d else a))))

/-- 03 R58; 06 R120; 07 R128-R130: RED, RED.STEP, SCAN and CVTN complete, their results in flight. -/
def Obligations.LongLanes : Prop :=
  ∀ (i : Instr) (ws : Ctx → List RegWrite), longEffect i = some ws →
    ∀ (s : State) (c : Ctx), Issues i s c → Becomes i s c (flown c .timed (ws c))

/-- 03 R58: when its latency has passed, a word in flight writes its registers and leaves the list of words in flight; every
other warp, and the warp otherwise, is as before.
Rests on the model's own choice: DESIGN CHOICE, log 88. -/
def Obligations.Writeback : Prop :=
  ∀ (core slot k : Nat) (s : State) (f : Flight), (s.warp core slot).flights[k]? = some f →
    f.kind = .timed → f.late = .none →
    ∃ t, exec (.longLatencyWriteback core slot k) s = .next t ∧
      t.warp core slot =
        { applyWrites (s.warp core slot) f.writes with flights := (s.warp core slot).flights.filter (fun x => x.id != f.id) } ∧
      (∀ a b, (a, b) ≠ (core, slot) → t.warp a b = s.warp a b) ∧ { t with cores := [] } = { s with cores := [] }

/-- 05 R82; 06 R114, R115, R118, R119: each short floating-point word writes its results, and each lane's flags join the
sticky masks, where no enabled exception is raised.
Rests on the model's own choice: DEDUCED, log 54. -/
def Obligations.FloatLanes : Prop :=
  ∀ (i : Instr) (d : Operand) (f : Ctx → Nat → Nat × FpFlags), fpEffect i = some (d, f) →
    ∀ (s : State) (c : Ctx), Issues i s c → (∀ l, raises c (flagsOf c d (f c)) l = false) →
      Writes i s c d (fun l => BitVec.ofNat 64 (f c l).1) (c.w.fpx.recordAll (flagsOf c d (f c)))

/-- 06 R115: FCMP writes a predicate, a comparison with a NaN being false but for ne and un; a signalling NaN sets FPXI. -/
def Obligations.FloatCompare : Prop :=
  ∀ (h : Hdr) (t : Ty) (p : BitVec 3) (cc : FCond) (a b : Operand) (s : State) (c : Ctx), Issues (.fcmp h t p cc a b) s c →
    (∀ l, raises c (fcmpFlags t a b c) l = false) →
    WritesP (.fcmp h t p cc a b) s c p.toNat (fun l => fpHolds cc (fpSrc c t a l) (fpSrc c t b l))
      (c.w.fpx.recordAll (fcmpFlags t a b c))

/-- 06 R114, R116, R120: each long floating-point word completes with its results in flight and its flags recorded, where no
exception is enabled: that it reads TRAPEN, and writes its sticky masks, at its issue is the model's choice.
Rests on the model's own choice: DESIGN CHOICE, log 10; DEDUCED, log 54. -/
def Obligations.FloatLong : Prop :=
  ∀ (i : Instr) (d : Operand) (f : Ctx → Nat → Nat × FpFlags), fpLongEffect i = some (d, f) →
    ∀ (s : State) (c : Ctx), Issues i s c → c.w.trap.en = 0 →
      Becomes i s c (flown { c with w := { c.w with fpx := c.w.fpx.recordAll (flagsOf c d (f c)) } } .timed
        (dstWrite c d (fun l => if c.act.getLsbD l ∨ d.perLane = false then BitVec.ofNat 64 (f c l).1 else 0)))

/-- 06 R117: a short floating-point word that raises an enabled exception records its flags, writes no result, and traps:
TRAPPC is its address, TRAPLANES the lanes that raised one. -/
def Obligations.FloatTrap : Prop :=
  ∀ (i : Instr) (d : Operand) (f : Ctx → Nat → Nat × FpFlags), fpEffect i = some (d, f) →
    ∀ (s : State) (c : Ctx), Issues i s c → canTrap c → (∃ l, l < 64 ∧ raises c (flagsOf c d (f c)) l = true) →
      ∃ t lns info, exec i s = .next t ∧ Elsewhere s t ∧
        uncounted (t.issuerWarp s.cur) = { delivered c 5 lns info with fpx := c.w.fpx.recordAll (flagsOf c d (f c)) } ∧
        (∀ l, l < 64 → lns.getLsbD l = raises c (flagsOf c d (f c)) l) ∧ bits info 0 10 = (encOp d).toNat ∧ bits info 16 1 = 0

/-- 06 R121: QRES adds a and the carry ρ, quantises the sums of the line that the active lanes form at its shared scale, and
leaves in ρ what the quantised values miss; both registers are in flight, where no exception is enabled. -/
def Obligations.ResidualQuantise : Prop :=
  ∀ (h : Hdr) (t6 : Bool) (d a : Operand) (rho : BitVec 8) (s : State) (c : Ctx), Issues (.qres h t6 d a rho) s c →
    c.w.trap.en = 0 → c.act ≠ 0 →
    let sum (l : Nat) : FVal := unpack fmtF32 (fpAdd fmtF32 .rn c.w.ftz (fpSrc c .f32 a l) (fpSrc c .f32 (.v rho) l)).1
    let sc : Int := lineScale ((lanesOf c.act).map sum)
    let code (l : Nat) : Nat := encodeTaper (narrowBits t6) ((sum l).scale (-sc))
    ∃ t w x y, exec (.qres h t6 d a rho) s = .next t ∧
      Performed s t c (flown { c with w := w } .timed (dstWrite c d x ++ dstWrite c (.v rho) y)) ∧
      { w with fpx := {} } = { c.w with fpx := {} } ∧
      ∀ l ∈ lanesOf c.act, x l = BitVec.ofNat 64 (narrowLane sc (code l)) ∧
        (∀ n m e, sum l = .fin n m e →
          y l = BitVec.ofNat 64 (fpSub fmtF32 .rn c.w.ftz (sum l) ((taperDecode (narrowBits t6) (code l)).scale sc)).1) ∧
        ((sum l).isNan = true ∨ (sum l).isInf = true → y l = 0)

/-- 03 R54, R55: a pair word reads both halves' operands before either writes, and writes each in its own active lanes. -/
def Obligations.PairWord : Prop :=
  ∀ (gap : BitVec 2) (gw : Bool) (x y : Half) (s : State) (c : Ctx), Issues (.pairWord gap gw x y) s c →
    (∀ l, raises c (resultFlags (halfResults c x) ++ resultFlags (halfResults c y)) l = false) →
    ∃ t g, exec (.pairWord gap gw x y) s = .next t ∧ Performed s t c g ∧
      RegsOnly { c.w with fpx := c.w.fpx.recordAll (resultFlags (halfResults c x) ++ resultFlags (halfResults c y)) } g ∧
      g.s = c.w.s ∧ g.p = c.w.p ∧ g.x = c.w.x ∧
      ∀ r l, l < 64 → g.readV r l =
        if r = y.d.toNat ∧ (halfLanes c y).getLsbD l = true then BitVec.ofNat 64 (halfLane c y l).1
        else if r = x.d.toNat ∧ (halfLanes c x).getLsbD l = true then BitVec.ofNat 64 (halfLane c x l).1 else c.w.readV r l

/-- 07 R132, R133: BRA, CALL, BRX and RET replace the issuing entry by the entries of their targets and of the next word, and
CALL writes s63; nothing else changes. -/
def Obligations.Branches : Prop :=
  ∀ (i : Instr) (f : Ctx → List Entry × Warp), branchEffect i = some f →
    ∀ (s : State) (c : Ctx), Issues i s c → targetsOk c i →
      ∃ t, exec i s = .next t ∧ Elsewhere s t ∧ steady (t.issuerWarp s.cur) = steady (f c).2 ∧
        Branched s c (f c).1 (t.issuerWarp s.cur)

/-- 02 R33, R34: replacing an entry moves no other lane: the lanes at each PC are those of the remaining entries, of the new
entries and of the spilled ones, whatever merges and spills. -/
def Obligations.FrontierLanes : Prop :=
  ∀ (w : Warp) (now : Nat) (e : Entry) (es : List Entry) (pc : Word) (l : Nat), l < 64 →
    w.frontier.Pairwise (fun x y => x.pc ≠ y.pc) →
    ((∃ x ∈ (w.replaceEntry now e es).frontier ++ (w.replaceEntry now e es).spilled, x.pc = pc ∧ x.lanes.getLsbD l = true) ↔
      (∃ x ∈ w.frontier.filter (fun x => x != e) ++ es ++ w.spilled, x.pc = pc ∧ x.lanes.getLsbD l = true))

/-- 07 R133: a BRX or RET target that is no word address traps with MISALIGN before any effect, its information the target of the
lowest such lane. -/
def Obligations.BranchAlignTrap : Prop :=
  ∀ (i : Instr) (a : Operand) (tp fp : BitVec 8), (∃ h, i = .brx h a tp fp ∨ i = .ret h a tp fp) →
    ∀ (s : State) (c : Ctx), Issues i s c → canTrap c →
    ∀ l, l < 64 → c.act.getLsbD l = true → (src64 c a l).toNat % 8 ≠ 0 →
      (∀ j, j < l → c.act.getLsbD j = true → (src64 c a j).toNat % 8 = 0) →
      ∃ t lns, exec i s = .next t ∧ Elsewhere s t ∧ uncounted (t.issuerWarp s.cur) = delivered c 7 lns (src64 c a l) ∧
        ∀ j, j < 64 → (lns.getLsbD j = true ↔ c.act.getLsbD j = true ∧ (src64 c a j).toNat % 8 ≠ 0)

/-- 07 R138: NOP, whose body is all zero, only advances the PC and applies its GAP and GW fields. BKPT without the debug flag
(07 R146) and each control word with no active lane (03 R45) only advance as well. -/
def Obligations.NothingActive : Prop :=
  (∀ (i : Instr) (s : State) (c : Ctx), Issues i s c →
    ((∃ h, i = .nop h) ∨ (∃ h code, i = .bkpt h code ∧ c.launch.debug = false) ∨ guardedOff i = true ∧ c.front = false ∧ c.act = 0) →
    Becomes i s c c.w) ∧
  (∀ (h : Hdr) (s : State) (c : Ctx) (core slot : Nat), Issues (.nop h) s c → s.cur = .warp core slot →
    ∃ t, exec (.nop h) s = .next t ∧ (t.warp core slot).sched.gapUntil = max c.w.sched.gapUntil (s.now + 1 + h.gap.toNat) ∧
      (h.gw = true → (t.warp core slot).state ≠ .issuing)) ∧
  (∀ (h : Hdr) (x : Word), decode x = some (.nop h) → x.toNat / 2 ^ 56 = 0x01 ∧ x.toNat % 2 ^ 45 = 0)

/-- 07 R146: TRAP, and BKPT under the debug flag, raise USER: TRAPPC is the word's address, TRAPCAUSE 6, TRAPLANES the active
lanes, TRAPINFO the code, with bit 17 of BKPT's; the frontier is saved, one entry of priority 255 at TRAPVEC holds the entry's
lanes, INTRAP is set and the windows close (07 R142); returning with .skip resumes after the word. With no active lane neither
has an effect, nor BKPT without the flag. The code is imm[15:0], and imm[24:16], a and dst are zero. -/
def Obligations.UserTraps : Prop :=
  (∀ (i : Instr) (s : State) (c : Ctx) (info : Word), Issues i s c → userTrap c i = some info → c.act ≠ 0 → canTrap c →
    (∃ t, exec i s = .next t ∧ Elsewhere s t ∧ uncounted (t.issuerWarp s.cur) = delivered c 6 c.act info) ∧
    ∀ n, (returnTrap (delivered c 6 c.act info) n true).frontier = (c.w.advance n c.e).frontier) ∧
  (∀ (i : Instr) (s : State) (c : Ctx), Issues i s c → (∃ h code, (i = .trap h code ∧ c.act = 0) ∨
      (i = .bkpt h code ∧ (c.act = 0 ∨ c.launch.debug = false))) → Becomes i s c c.w) ∧
  (∀ (h : Hdr) (code : BitVec 16) (x : Word), (decode x = some (.trap h code) → x.toNat / 2 ^ 56 = 0x0A ∧ x.toNat % 2 ^ 45 = code.toNat) ∧
    (decode x = some (.bkpt h code) → x.toNat / 2 ^ 56 = 0x0C ∧ x.toNat % 2 ^ 45 = code.toNat))

/-- 07 R145: TRET restores the saved frontier with the trapped entry at TRAPPC, or at the word after it, where entries merge,
and clears INTRAP; every register stands. With no active lane it has no effect; outside a trap, or with more than one entry in
the frontier, it is ILLEGAL. mod[14:12] holds the mode, and the rest of the body is zero. -/
def Obligations.TrapReturn : Prop :=
  (∀ (i : Instr) (skip : Bool) (s : State) (c : Ctx) (v : SavedTrap), Issues i s c → tretSkips i = some skip →
    c.act ≠ 0 → c.w.trap.intrap = true → c.w.frontier.length = 1 → c.w.spilled = [] → c.w.trap.saved = some v →
    ∃ t, exec i s = .next t ∧ Elsewhere s t ∧
      steady (t.issuerWarp s.cur) = steady { c.w with trap := { c.w.trap with intrap := false, saved := none } } ∧
      Branched s { c with w := { c.w with frontier := v.frontier, spilled := v.spilled }, e := v.e }
        [{ v.e with pc := if skip then c.w.trap.pc + 8 else c.w.trap.pc }] (t.issuerWarp s.cur)) ∧
  (∀ (i : Instr) (skip : Bool) (s : State) (c : Ctx), Issues i s c → tretSkips i = some skip → c.act = 0 → Becomes i s c c.w) ∧
  (∀ (i : Instr) (skip : Bool) (s : State) (c : Ctx), Issues i s c → tretSkips i = some skip → c.act ≠ 0 →
    c.w.trap.intrap = false ∨ 1 < c.w.frontier.length + c.w.spilled.length → (s.launch c.lid).open_ = true →
    ∃ t, exec i s = .next t ∧ ended s t c.lid 1) ∧
  (∀ (i : Instr) (skip : Bool) (x : Word), tretSkips i = some skip → decode x = some i →
    x.toNat / 2 ^ 56 = 0x0B ∧ x.toNat % 2 ^ 45 = if skip then 0x1000 else 0)

/-- 07 R139; 18 R327: CSRR and PMRD write a CSR's value, and an event counter's, in their destination and nothing else; PMCFG
sets up an event counter. -/
def Obligations.StatusReads : Prop :=
  (∀ (h : Hdr) (d : Operand) (k : BitVec 12) (s : State) (c : Ctx), Issues (.csrr h d k) s c →
    Writes (.csrr h d k) s c d (fun _ => readCsr c s k.toNat) c.w.fpx) ∧
  (∀ (h : Hdr) (k : BitVec 2) (d : Operand) (s : State) (c : Ctx), Issues (.pmrd h k d) s c →
    Writes (.pmrd h k d) s c d (fun _ => (get noEvent c.w.events k.toNat).count) c.w.fpx) ∧
  (∀ (h : Hdr) (k : BitVec 2) (a : Operand) (s : State) (c : Ctx), Issues (.pmcfg h k a) s c → c.act ≠ 0 →
    pmBad (src64 c a 0) = false →
    ∃ t, exec (.pmcfg h k a) s = .next t ∧ Performed s t c c.w ∧
      (get noEvent (t.issuerWarp s.cur).events k.toNat).en = (src64 c a 0).getLsbD 8 ∧
      (get noEvent (t.issuerWarp s.cur).events k.toNat).event = bits (src64 c a 0) 0 8)

/-- 10 R186-R194, R197-R202, R207, R208; 09 R170-R175: each of these memory words, with an active lane and no fault, completes;
loads leave their values in flight, and everything else is as the word's accesses leave it; a read of lines on no HEAT page,
with no storage error and their links up, changes nothing but the translations that are cached.
Rests on the model's own choice: DESIGN CHOICE, log 5; DEDUCED, log 87. -/
def Obligations.MemoryWords : Prop :=
  (∀ (i : Instr) (s : State) (c : Ctx) (u : State) (g : Warp), Issues i s c → c.act ≠ 0 → memoryEffect i c s = some (u, g) →
    Leads i s c u g) ∧
  (∀ (c : Ctx) (s : State) (ps : List (Nat × List (Page × Nat))),
    (∀ x ∈ placeLines (ps.flatMap Prod.snd), quiet s c.part c.func x) →
    untouched s (readPlaces c s ps).1 ∧
    (readPlaces c s ps).2 = ps.map (fun (l, bs) => (l, bs.map (fun (pg, off) => s.readByte c.part pg off))))

/-- 10 R191: after a store to device memory, each byte that an element's place names holds the data of the last element
there, and every other byte of memory and every register is as before, and every header but those of lines whose home slot the
store tags ZERO (15 R279).
Rests on the model's own choice: DESIGN CHOICE, log 5. -/
def Obligations.StoreGlobal : Prop :=
  ∀ (h : Hdr) (ord : Order) (w : Width) (base : BitVec 6) (off : BitVec 20) (d : Operand) (s : State) (c : Ctx)
    (ps : List (Nat × List (Page × Nat))), Issues (.st h .g ord w base off d) s c →
    s.placeAll c.part c.func (elements c w base off d) (widthBytes w) { write := true } = .ok ps →
    (∀ x ∈ elemWrites ps (storeData c w d), plainWrite s c.part c.func x) →
    (∀ x ∈ elemWrites ps (storeData c w d), get false s.poison (lineId x.page x.off) = false) →
    ∃ t, exec (.st h .g ord w base off d) s = .next t ∧
      (∀ k, t.byteAt k = written s (elemWrites ps (storeData c w d)) k) ∧
      t.hdrs = initSlots c.part (elemWrites ps (storeData c w d)) s.hdrs ∧
      steady (t.issuerWarp s.cur) = steady c.w ∧ Advanced s c (t.issuerWarp s.cur)

/-- 10 R193: STH writes headers of lines and no byte of memory, on pages that hold no shadow headers.
Rests on the model's own choice: DESIGN CHOICE, log 5. -/
def Obligations.StoreHeaders : Prop :=
  ∀ (h : Hdr) (ord : Order) (w : Width) (base : BitVec 6) (off : BitVec 20) (d : Operand) (s : State) (c : Ctx)
    (ps : List (Nat × List (Page × Nat))), Issues (.sth h ord w base off d) s c → c.act ≠ 0 →
    s.placeAll c.part c.func (fmElems c base off 64 d) 1 { write := true } = .ok ps →
    (∀ x ∈ ps, ∀ b ∈ x.2, b.1.tier ≠ 1 ∧ quiet s c.part c.func (b.1, b.2 / 64 * 64)) →
    ∃ t, exec (.sth h ord w base off d) s = .next t ∧ t.mem = s.mem ∧
      steady (t.issuerWarp s.cur) = steady c.w ∧ Advanced s c (t.issuerWarp s.cur) ∧
      (∀ id, (∀ x ∈ ps, lineId (lineOf x.2).1 (lineOf x.2).2 ≠ id) → get 0 t.hdrs id = get 0 s.hdrs id) ∧
      (∀ x ∈ ps, (ps.filter (fun y => lineId (lineOf y.2).1 (lineOf y.2).2 == lineId (lineOf x.2).1 (lineOf x.2).2)) = [x] →
        get 0 t.hdrs (lineId (lineOf x.2).1 (lineOf x.2).2) = BitVec.ofNat 16 (numLE ((storeData c w d x.1).take 2)))

/-- 09 R170, R171: a scratchpad store changes the bytes of its in-range elements alone, and records its first element out of
range where FLAG is clear and its cycle has recorded none; FLAG that an earlier cycle has set keeps what it records.
Rests on the model's own choice: DEDUCED, log 95. -/
def Obligations.StoreScratch : Prop :=
  ∀ (h : Hdr) (ord : Order) (w : Width) (base : BitVec 6) (off : BitVec 20) (d : Operand) (s : State) (c : Ctx),
    Issues (.st h (.sp .none) ord w base off d) s c → c.act ≠ 0 →
    ∃ t, exec (.st h (.sp .none) ord w base off d) s = .next t ∧
      (∀ a, (∀ x ∈ elements c w base off d, ¬ (x.2 ≤ a ∧ a < x.2 + widthBytes w ∧ c.wg.spIn x.2 (widthBytes w) = true)) →
        (t.wg c.wgk).spByte a = c.wg.spByte a) ∧
      ((∀ x ∈ elements c w base off d, c.wg.spIn x.2 (widthBytes w) = true) → (t.wg c.wgk).oob = (s.wg c.wgk).oob) ∧
      ((s.wg c.wgk).oob.flag = true → (s.wg c.wgk).oob.since ≠ s.now → (t.wg c.wgk).oob.kind = (s.wg c.wgk).oob.kind ∧
        (t.wg c.wgk).oob.warp = (s.wg c.wgk).oob.warp ∧ (t.wg c.wgk).oob.flag = true ∧ (t.wg c.wgk).oob.addr = (s.wg c.wgk).oob.addr) ∧
      ((s.wg c.wgk).oob.flag = false → (∀ y, (s.wg c.wgk).oob.seen = some y → y.cycle ≠ s.now) →
        ∀ x, (elements c w base off d).find? (fun x => !c.wg.spIn x.2 (widthBytes w)) = some x →
        (t.wg c.wgk).oob.kind = 1 ∧ (t.wg c.wgk).oob.warp = c.w.num % 32 ∧ (t.wg c.wgk).oob.flag = true ∧
        (t.wg c.wgk).oob.addr = x.2 % 2 ^ 32) ∧
      t.mem = s.mem ∧ (∀ k, k ≠ c.wgk → t.wg k = s.wg k)

/-- 10 R195, R196, R347, R349: ATOM and CAS with aligned addresses perform their lanes one after another in ascending order,
and the old values are in flight; on plain memory they change no byte but those of the elements that store: an element that
stores nothing, as those of ATOM .ld and of a failed CAS, leaves its bytes, and a word none of whose elements stores leaves the
whole state. That PS of a CAS is 0 in a lane that is out of range in the scratchpad, which no rule gives, is the model's choice (log
119).
Rests on the model's own choice: DESIGN CHOICE, logs 5 and 119. -/
def Obligations.Atomics : Prop :=
  (∀ (i : Instr) (s : State) (c : Ctx) (x : Atomic), Issues i s c → c.act ≠ 0 → atomic c i = some x →
    misaligned c x.scalar (atomElems c x.scalar x.addr) (width x.ty / 8) = 0 →
    (x.sp = true →
      let r := atomSp (oobBy c s) x.store (width x.ty / 8) (s.wg c.wgk) (atomElems c x.scalar x.addr)
      Leads i s c (s.setWg c.wgk r.1) (flown c .timed (x.results r.2))) ∧
    (x.sp = false → ∀ (ps : List (Nat × List (Page × Nat))) (u : State) (xs : List (Nat × Nat)),
      s.placeAll c.part c.func (atomElems c x.scalar x.addr) (width x.ty / 8) { write := x.writes } = .ok ps →
      (∀ l ∈ placeLines (ps.flatMap Prod.snd), quiet s c.part c.func l) →
      atomDev c x.store (width x.ty / 8) (readPlaces c s ps).1 ps = .ok (u, xs) →
      Leads i s c u (flown c .timed (x.results xs)))) ∧
  (∀ (c : Ctx) (f : AtomFn) (n : Nat) (ps : List (Nat × List (Page × Nat))) (s u : State) (xs : List (Nat × Nat)),
    atomDev c f n s ps = .ok (u, xs) →
    ((∀ x ∈ xs, f x.1 x.2 = none) → u = s) ∧
    ((∀ x ∈ ps, ∀ b ∈ x.2, b.1.comp = none ∧ b.1.place % 64 = 0) → (∀ k, get false s.poison k = false) →
      ∀ k, (∀ x ∈ ps.zip xs, f x.2.1 x.2.2 ≠ none → ∀ b ∈ x.1.2, b.1.place + b.2 ≠ k) → u.byteAt k = s.byteAt k))

/-- 10 R198: a warp's atomic buffer never holds more than 64 entries, nor two for one address. -/
def Obligations.BufferBound : Prop :=
  ∀ (buf news out : List BufEntry), bufferAll buf news = .ok out → buf.length ≤ 64 →
    buf.Pairwise (fun x y => x.key ≠ y.key) → out.length ≤ 64 ∧ out.Pairwise (fun x y => x.key ≠ y.key)

/-- 10 R209: TSWEEP joins its scheduler's sweep queue with the words of its nests, its destination pending until it ends. -/
def Obligations.SweepWord : Prop :=
  ∀ (h : Hdr) (op : SweepOp) (t : Ty) (ns : BitVec 4) (d : BitVec 6) (ctr : Option (BitVec 6)) (s : State) (c : Ctx),
    Issues (.tsweep h op t ns d ctr) s c → c.act ≠ 0 → c.front = false →
    (s.core c.core).sweepsOn c.slot (sweepNests op ns) = false →
    ∃ u, exec (.tsweep h op t ns d ctr) s = .next u ∧ Advanced s c (u.issuerWarp s.cur) ∧
      (u.issuerWarp s.cur).flights = c.w.flights ++ [{ id := c.w.nextFlight, kind := .sweep, pc := c.e.pc, word := c.word
                                                       regs := [.s d.toNat], writes := [], late := .none, holds := false, walkGate := false }] ∧
      ∃ cmd, ((u.core c.core).sched (c.slot / 16)).sweeps = ((s.core c.core).sched (c.slot / 16)).sweeps ++ [cmd] ∧
        cmd.op = op ∧ cmd.ty = t ∧ cmd.src = (List.range 8).map (c.w.readNest ns.toNat) ∧ cmd.flight = c.w.nextFlight

/-- 08 R153: a mass word with an active lane arrives at its core's unit with its operands; its warp issues no further word, and
its PC stays, until the unit starts it; arrivals stand in the order of their cycles, those of one cycle in ascending scheduler (08
R163). -/
def Obligations.MassArrival : Prop :=
  (∀ (i : Instr) (f : Ctx → LaneVec × LaneVec) (s : State) (c : Ctx), massOperands i = some f → Issues i s c → c.act ≠ 0 →
    massAligned c i →
    let o : MassOp :=
      { slot := c.slot, instr := i, act := c.act, a := (f c).1, b := (f c).2, flight := c.w.nextFlight, at_ := s.now }
    Stays i s c (s.modCore c.core (fun k => { k with massQ := insertArrival o k.massQ }))
      { c.w with nextFlight := c.w.nextFlight + 1, flights := c.w.flights ++
          [{ id := c.w.nextFlight, kind := .mass, pc := c.e.pc, word := c.word, regs := massPending c i, writes := [], late := .none
             holds := true, walkGate := false }] }) ∧
  (∀ (o : MassOp) (q : List MassOp), (insertArrival o q).Perm (o :: q) ∧
    (q.Pairwise arrivesBefore → (∀ x ∈ q, x.at_ ≤ o.at_) → (insertArrival o q).Pairwise arrivesBefore))

/-- 08 R153, R162: in a later cycle than it issued in, the unit starts the first instruction that has arrived: its effect is on the
workgroup's registers, MASSX gains the lanes that it names, the entry advances, and a destination stays in flight with its value
as its register writes, or else the flight ends; an instruction that fails a check of the unit has no effect on the workgroup
and traps with MASS at its word, the reason in TRAPINFO[3:0] and the register in TRAPINFO[15:4].
Rests on the model's own choice: DEDUCED, logs 68 and 96. -/
def Obligations.MassStart : Prop :=
  (∀ (core : Nat) (s : State) (o : MassOp) (rest : List MassOp) (f : Flight) (g : Workgroup) (x : LaneMask) (dst : Option LaneVec),
    (s.core core).massQ = o :: rest → o.at_ < s.now → s.massBusy core = false →
    massRebuilding (s.wg (s.warp core o.slot).wg) o = false →
    let w := s.warp core o.slot
    let c := s.ctxAt (.warp core o.slot) w (flightEntry w f) (hdrOf o.instr)
    w.flights.find? (fun y => y.id == o.flight) = some f →
    massEffect (s.wg w.wg) (oobBy c s) o = .ok g x dst →
    ∃ t, exec (.massUnitStart core) s = .next t ∧ (t.core core).massQ = rest ∧ t.wg w.wg = g ∧
      (t.warp core o.slot).massx = w.massx ||| x ∧
      (t.warp core o.slot).frontier = (w.advance s.now (flightEntry w f)).frontier ∧
      (dst = none → ∀ y ∈ (t.warp core o.slot).flights, y.id ≠ o.flight) ∧
      (∀ v, dst = some v → (∃ y ∈ (t.warp core o.slot).flights, y.id = o.flight) ∧
        ∀ y ∈ (t.warp core o.slot).flights, y.id = o.flight → y.holds = false ∧
          ∀ d, (massName o.instr).2.2 = some d → y.writes = dstWrite { c with act := o.act } d (fun l => laneAt v l)) ∧
      (∀ k j, (k, j) ≠ (core, o.slot) → t.warp k j = s.warp k j)) ∧
  (∀ (core : Nat) (s : State) (o : MassOp) (rest : List MassOp) (f : Flight) (reason : Nat) (lns : LaneMask) (value : Nat),
    (s.core core).massQ = o :: rest → o.at_ < s.now → s.massBusy core = false →
    massRebuilding (s.wg (s.warp core o.slot).wg) o = false →
    let w := s.warp core o.slot
    let c := s.ctxAt (.warp core o.slot) w (flightEntry w f) (hdrOf o.instr)
    w.flights.find? (fun y => y.id == o.flight) = some f →
    massEffect (s.wg w.wg) (oobBy c s) o = .fail reason lns value →
    w.trap.intrap = false → w.trap.vec ≠ 0 →
    ∃ t, exec (.massUnitStart core) s = .next t ∧ t.wgs = s.wgs ∧ (t.warp core o.slot).trap.cause = 0x0C ∧
      (t.warp core o.slot).trap.pc = f.pc ∧ (t.warp core o.slot).trap.lanes = lns ∧ (t.warp core o.slot).trap.intrap = true ∧
      bits (t.warp core o.slot).trap.info 0 4 = reason % 16 ∧ bits (t.warp core o.slot).trap.info 4 12 = (massName o.instr).1)

/-- 08 R158, R160, R161: MTADD adds the lanes of one leaf exactly and clamps the sum to the range of a leaf, the other leaves
keeping their values; for leaves in ascending index, MTFIND's search gives the leaf whose prefix is at most a target below the
total and whose inclusive prefix exceeds it; MTCUT.mass gives the least limit whose prefix reaches the target. -/
def Obligations.MassArithmetic : Prop :=
  (∀ (g g2 : Workgroup) (m : Nat) (raw sgn : Bool) (o : MassOp) (x : LaneMask), massAdd g m raw sgn o = .ok g2 x none →
    ∀ j, (g2.leaf m j : Int) = (if j ∈ (massLanes o).map (massIndex o) then max 0 (min (2 ^ 32 - 1) (leafSum g m raw sgn o j))
      else (g.leaf m j : Int))) ∧
  (∀ (ls : List (Nat × Nat)) (t last : Nat), ls.Pairwise (fun x y => x.1 < y.1) → t < (ls.map Prod.snd).sum →
    ∃ v, (findLeaf ls t last, v) ∈ ls ∧ prefixSum ls (findLeaf ls t last) ≤ t ∧ t < prefixSum ls (findLeaf ls t last) + v) ∧
  (∀ (ls : List (Nat × Nat)) (t j : Nat), ls.Pairwise (fun x y => x.1 < y.1) → 0 < t → cutIndex ls t = some j →
    t ≤ prefixSum ls j ∧ ∀ i, i < j → prefixSum ls i < t)

/-- 12 R225, R242; 13 R247-R249, R254; 16 R300; 17 R310: a word with a record, aligned and with room in its queue, reads the
record as a load and acts on it. That a KVSEAL's BLKB is that of its issue, and how TSPAWN reads its counter, are the model's
choice.
Rests on the model's own choice: DESIGN CHOICE, log 7; DEDUCED, logs 71 and 29. -/
def Obligations.RecordWords : Prop :=
  ∀ (i : Instr) (s : State) (c : Ctx) (r : State) (bs : List Byte) (u : State) (g : Warp), Issues i s c → c.act ≠ 0 →
    recordRead i c s = some (r, bs) → recordEffect i c r bs = some (u, g) → Leads i s c u g

/-- 06 R113; 07 R139, R140; 12 R234, R244, R245; 13 R250; 16 R291-R298; 17 R320-R326: these words, with an active lane and no fault or trap,
complete with their effect on their unit and on the issuing warp.
Rests on the model's own choice: DEDUCED, logs 72 and 86. -/
def Obligations.UnitWords : Prop :=
  ∀ (i : Instr) (s : State) (c : Ctx) (u : State) (g : Warp), Issues i s c → c.act ≠ 0 → unitEffect i c s = some (u, g) →
    Leads i s c u g

/-- 02 R38; 10 R203, R208; 12 R223; 13 R249, R254; 16 R300; 17 R310; 18 R337; 19 R341: a WALK, COPY, TSPAWN, LAUNCH, KVSEAL or COLL whose
queue is full, a WALK before an AWIN or WREG of its workgroup has completed, an instruction on a nest that a sweep of its warp uses, and
any word that touches a pending register outside every window, are not performed: the warp waits, and is as before but for its place on
its scheduler. That a LAUNCH waits so before its turn in a journal that replays is the model's choice (log 42): 18 R337 has launches
taken in the recorded order, and does not say how.
Rests on the model's own choice: DESIGN CHOICE, logs 7 and 42. -/
def Obligations.BlockedWords : Prop :=
  (∀ (i : Instr) (r : Room) (a : Operand) (n : Nat) (s : State) (c : Ctx), roomOf i = some (r, a, n) → Issues i s c → c.act ≠ 0 →
    c.front = false → (src64 c a 0).toNat % n = 0 → (r = .walk → s.gateOpen c.core c.wgk = true) →
    (r = .launch → s.launchTurn c.func (src64 c a 0) = true) →
    s.roomFull c.core c.slot r = true → Blocked i s c (.room r)) ∧
  (∀ (h : Hdr) (d a : Operand) (s : State) (c : Ctx), Issues (.launch h d a) s c → c.act ≠ 0 → c.front = false →
    (src64 c a 0).toNat % 8 = 0 → s.launchTurn c.func (src64 c a 0) = false → Blocked (.launch h d a) s c .recorded) ∧
  (∀ (h : Hdr) (sp : Bool) (d a : Operand) (s : State) (c : Ctx), Issues (.walk h sp d a) s c → c.act ≠ 0 → c.front = false →
    (src64 c a 0).toNat % 8 = 0 → s.gateOpen c.core c.wgk = false → Blocked (.walk h sp d a) s c .walkGate) ∧
  (∀ (i : Instr) (ns : List Nat) (s : State) (c : Ctx), nestsOf i = some ns → Issues i s c → c.act ≠ 0 → c.front = false →
    (s.core c.core).sweepsOn c.slot ns = true → Blocked i s c (.nests ns)) ∧
  (∀ (i : Instr) (s : State) (w : Warp) (e : Entry) (b : Block), isEvent i = false → s.issuer = some (w, e) → w.heldUp = false →
    i.wf = true →
    let c : Ctx := { s.ctx w e (hdrOf i) with word := encode i }
    c.front = false → stateIllegal i c = false → lookaheadFault i w = none → blockOf i w = some b → Blocked i s c b)

/-- 02 R24, R31; 07 R134; 12 R245: EXIT and HRET remove their active lanes, the warp's other lanes going on, those of the entry
at the next word; a warp whose last lanes EXIT retires, and its slot is free; a handler warp whose last lanes HRET is DORMANT
and holds no upcall. -/
def Obligations.LanesLeave : Prop :=
  (∀ (i : Instr) (s : State) (c : Ctx), leaves i = true → Issues i s c → c.act ≠ 0 → c.front = false →
    (c.w.replaceEntry s.now c.e (withoutActive c)).frontier ≠ [] →
    ∃ t, exec i s = .next t ∧ Elsewhere s t ∧ steady (t.issuerWarp s.cur) = steady c.w ∧
      Branched s c (withoutActive c) (t.issuerWarp s.cur)) ∧
  (∀ (h : Hdr) (s : State) (c : Ctx) (core slot : Nat), Issues (.exit h) s c → c.act ≠ 0 → s.cur = .warp core slot →
    (c.w.replaceEntry s.now c.e (withoutActive c)).frontier = [] →
    ∃ t, exec (.exit h) s = .next t ∧ t.warp core slot = noWarp) ∧
  (∀ (i : Instr) (s : State) (c : Ctx) (core slot : Nat), (∃ h, i = .hret h ∨ i = .hretAbort h) → Issues i s c → c.act ≠ 0 →
    s.cur = .warp core slot → (c.w.replaceEntry s.now c.e (withoutActive c)).frontier = [] →
    ∃ t, exec i s = .next t ∧ (t.warp core slot).state = .dormant ∧ (t.warp core slot).uparg = none)

/-- 07 R135, R136; 12 R238: PARK.ctr on a counter whose COUNT is zero goes on, else the word is performed and the warp parks on
the counter; PARK.walk on a walk of the workgroup that is not DONE parks on it, any other id does not park; YIELD ends the turn,
and the warp waits for every other warp READY on its scheduler, which it names with its admission and with the number of times
that it has issued or left READY. -/
def Obligations.Waits : Prop :=
  (∀ (h : Hdr) (a : BitVec 6) (s : State) (c : Ctx) (pg : Page) (off : Nat) (bs : List (Page × Nat)),
    Issues (.parkCtr h a) s c → c.act ≠ 0 → (c.w.readS a.toNat).toNat % 4 = 0 →
    s.placeAll c.part c.func [(0, (c.w.readS a.toNat).toNat)] 4 {} = .ok [(0, (pg, off) :: bs)] → pg.tier ≠ 2 →
    let u := (readPlaces c s [(0, (pg, off) :: bs)]).1
    (u.countAt (pg.place + off) = 0 → Leads (.parkCtr h a) s c u c.w) ∧
    (u.countAt (pg.place + off) ≠ 0 → ∃ t, exec (.parkCtr h a) s = .next t ∧ Performed u t c c.w ∧
      (t.issuerWarp s.cur).state = .parked (.counter (pg.place + off) (c.w.readS a.toNat).toNat))) ∧
  (∀ (h : Hdr) (a : BitVec 6) (s : State) (c : Ctx), Issues (.parkWalk h a) s c → c.act ≠ 0 →
    (∀ y, (s.core c.core).walk (bits (c.w.readS a.toNat) 0 32) = some y → y.state ≠ .done → y.wg = c.wgk →
      ∃ t, exec (.parkWalk h a) s = .next t ∧ Performed (s.promoteWalk c.core c.w y) t c c.w ∧
        (t.issuerWarp s.cur).state = .parked (.walk (bits (c.w.readS a.toNat) 0 32))) ∧
    ((∀ y, (s.core c.core).walk (bits (c.w.readS a.toNat) 0 32) = some y → y.state = .done ∨ y.wg ≠ c.wgk) →
      Becomes (.parkWalk h a) s c c.w)) ∧
  (∀ (h : Hdr) (s : State) (c : Ctx) (core slot : Nat), Issues (.yield h) s c → c.act ≠ 0 → s.cur = .warp core slot →
    ∃ t, exec (.yield h) s = .next t ∧ Performed s t c c.w ∧ (t.warp core slot).state ≠ .issuing ∧
      (∀ x, x ∈ (t.warp core slot).sched.yieldFor ↔ x.1 ∈ schedSlots (slot / 16) ∧ x.1 ≠ slot ∧ (s.warp core x.1).state = .ready ∧
        x.2 = ((s.warp core x.1).sched.order, (s.warp core x.1).sched.stints)))

/-- 02 R26, R30; 07 R137: a warp that arrives by BAR or FLUSHA at a barrier not yet complete is recorded once, and parks on it;
the last arrival at a barrier with no flush clears every member workgroup's mask, and the warp goes on. -/
def Obligations.Barriers : Prop :=
  (∀ (i : Instr) (g : BitVec 8) (flush : Bool) (s : State) (c : Ctx) (core slot : Nat),
    (∃ h, i = .bar h g ∧ flush = false ∨ i = .flusha h g ∧ flush = true) → Issues i s c → c.act ≠ 0 →
    badGroup c g.toNat = false → s.cur = .warp core slot → slot < 64 →
    (s.arrive c.wgk g.toNat slot flush).barrierFull c.wgk g.toNat = false →
    ∃ t, exec i s = .next t ∧ Performed (s.arrive c.wgk g.toNat slot flush) t c c.w ∧
      (t.warp core slot).state = .parked (.barrier g.toNat)) ∧
  (∀ (h : Hdr) (g : BitVec 8) (s : State) (c : Ctx) (core slot : Nat), Issues (.bar h g) s c → c.act ≠ 0 →
    badGroup c g.toNat = false → s.cur = .warp core slot → c.wgk ∈ s.instanceWgs c.wgk g.toNat →
    (s.arrive c.wgk g.toNat slot false).barrierFull c.wgk g.toNat = true →
    ((s.instanceWgs c.wgk g.toNat).any (fun j => get false (s.wg j).flushing g.toNat)) = false →
    ∃ t, exec (.bar h g) s = .next t ∧ (∀ j ∈ s.instanceWgs c.wgk g.toNat, get 0 (t.wg j).arrived g.toNat = 0) ∧
      Advanced s c (t.warp core slot) ∧ (∀ p, (t.warp core slot).state ≠ .parked p))

/-- 02 R31; 12 R243, R245: WREG with a legal entry and configuration enters the handler in the launch and the workgroup, makes
the teams that fit, and puts their number in flight to d; AWIN with bounds in order and within the workgroup's rows puts the
window in flight, and when it completes the workgroup's window is the new one. -/
def Obligations.HandlerSetup : Prop :=
  (∀ (h : Hdr) (idx : BitVec 4) (d a b : Operand) (s : State) (c : Ctx), Issues (.wreg h idx d a b) s c → c.act ≠ 0 →
    (src64 c a 0).toNat % 8 = 0 → wregBad (src64 c b 0) = false → c.wg.wregs.contains idx.toNat = false →
    let e := wregEntry (src64 c a 0) (src64 c b 0)
    ((get {} c.launch.handlers idx.toNat).set = true → get {} c.launch.handlers idx.toNat = e) →
    footprint e.budget ≤ c.wg.part.regs * 32768 →
    Leads (.wreg h idx d a b) s c
      ((List.range (teamsMade c s idx.toNat e)).foldl (makeTeam c idx.toNat e)
        ((s.modLaunch c.lid (fun l => { l with handlers := put {} l.handlers idx.toNat e })).modWg c.wgk
          (fun g => { g with wregs := g.wregs ++ [idx.toNat] })))
      (gated c (dstWrite c d (fun _ => BitVec.ofNat 64 (teamsMade c s idx.toNat e))) .none)) ∧
  ((∀ (h : Hdr) (a b : Operand) (s : State) (c : Ctx), Issues (.awin h a b) s c → c.act ≠ 0 →
    (src64 c a 0).toNat ≤ (src64 c b 0).toNat → (src64 c b 0).toNat ≤ c.wg.part.acc * 64 →
    Becomes (.awin h a b) s c (gated c [] (.window (src64 c a 0).toNat (src64 c b 0).toNat))) ∧
  (∀ (core slot k : Nat) (s : State) (f : Flight) (x y : Nat), (s.warp core slot).flights[k]? = some f →
    f.kind = .timed → f.late = .window x y →
    ∃ t, exec (.longLatencyWriteback core slot k) s = .next t ∧ (t.wg (s.warp core slot).wg).awbase = x ∧
      (t.wg (s.warp core slot).wg).awlimit = y ∧ ∀ j, j ≠ (s.warp core slot).wg → t.wg j = s.wg j))

/-- 13 R255, R256: PEMIT and PREPEAT with a grid that passes its checks end the prologue's run and emit the grid with s0 as its
argument, PREPEAT keeping the warp for the next run; PCANCEL ends the launch with no emission: it is COMPLETE, its decrement due
(13 R252; 17 R305). That its entry leaves the launch queue then is the model's reading, since 12 R223 ties the removal to the dispatch
of all workgroups.
Rests on the model's own choice: DEDUCED, log 66. -/
def Obligations.PrologueEnds : Prop :=
  (∀ (i : Instr) (again : Bool) (a b : Operand) (s : State) (c : Ctx),
    (∃ h, i = .pemit h a b ∧ again = false ∨ i = .prepeat h a b ∧ again = true) → Issues i s c → c.act ≠ 0 →
    (again = true → c.launch.coll = none) →
    s.emitBad c.lid (src64 c a 0).toNat (bits (src64 c b 0) 0 32) (bits (src64 c b 0) 32 32) = none →
    ∃ t, exec i s = .next t ∧ (t.part c.part).prologue = none ∧ (t.launch c.lid).nx = (src64 c a 0).toNat ∧
      (t.launch c.lid).ny = bits (src64 c b 0) 0 32 ∧ (t.launch c.lid).nz = bits (src64 c b 0) 32 32 ∧
      (t.launch c.lid).arg = c.w.readS 0 ∧ (t.launch c.lid).pwarp.isSome = again ∧
      ((t.launch c.lid).state = .dispatching ↔ (src64 c a 0).toNat * bits (src64 c b 0) 0 32 * bits (src64 c b 0) 32 32 ≠ 0)) ∧
  (∀ (h : Hdr) (s : State) (c : Ctx), Issues (.pcancel h) s c → c.act ≠ 0 → c.launch.coll = none → c.part = c.launch.part →
    (s.launch c.lid).open_ = true →
    ∃ t, exec (.pcancel h) s = .next t ∧ (t.part c.part).prologue = none ∧
      ended s t c.lid (if c.launch.storage then 0x14 else 0) ∧
      (fieldW c.launch.record 24 8 = 0 → t.launch c.lid = noLaunch ∧ c.lid ∉ (t.part c.part).queue))

/-- 03 R56, R61-R63; 07 R142, R144: the issue of a word that is not an instruction stops its launch with ILLEGAL, or PAIR where it is
no pair word, and ILLEGAL in a prologue: the launch completes with that status, its decrement due, and its workgroups and their
warps are gone. A trap of a warp with INTRAP set, or with no vector, stops the launch with the trap's cause instead, as TRAP's USER
does.
Rests on the model's own choice: DEDUCED, log 55. -/
def Obligations.LaunchStops : Prop :=
  (∀ (x : BitVec 64) (s : State) (w : Warp) (e : Entry), s.issuer = some (w, e) → w.heldUp = false →
    let c : Ctx := { s.ctx w e (hdrOf (.illegal x)) with word := encode (.illegal x) }
    (s.launch c.lid).open_ = true →
    ∃ t, exec (.illegal x) s = .next t ∧ ended s t c.lid (if x.getLsbD 63 = true ∧ c.front = false then 2 else 1) ∧
      (∀ k g, (k, g) ∈ t.wgs → g.live = true → g.lid ≠ c.lid) ∧
      (∀ k slot, (s.wg k).live = true → (s.wg k).lid = c.lid → (s.warp (s.wg k).core slot).wg = k →
        (t.warp (s.wg k).core slot).state = .retired)) ∧
  (∀ (c : Ctx) (s : State) (cause : Nat) (lns : LaneMask) (info word : Word), c.front = false → (s.launch c.lid).open_ = true →
    (s.issuerWarp c.who).trap.intrap = true ∨ (s.issuerWarp c.who).trap.vec = 0 →
    ended s (takeTrap c s cause lns info word) c.lid cause) ∧
  (∀ (h : Hdr) (code : BitVec 16) (s : State) (c : Ctx), Issues (.trap h code) s c → c.act ≠ 0 → c.front = false →
    (c.w.trap.intrap = true ∨ c.w.trap.vec = 0) → (s.launch c.lid).open_ = true →
    ∃ t, exec (.trap h code) s = .next t ∧ ended s t c.lid 6)

/-- 03 R52, R58: a word that touches a register which an open window names as pending traps with LOOKAHEAD, one that names a v
register its warp has not declared traps with INDEX; neither has an effect. Of a pair word the lanes are those active in either
half, or in the half that names the register, which is the model's choice.
Rests on the model's own choice: DEDUCED, log 60. -/
def Obligations.PreciseTraps : Prop :=
  (∀ (i : Instr) (s : State) (w : Warp) (e : Entry) (x : Window) (r : Reg), isEvent i = false → s.issuer = some (w, e) →
    w.heldUp = false → i.wf = true → lookaheadFault i w = some (x, r) →
    let c : Ctx := { s.ctx w e (hdrOf i) with word := encode i }
    stateIllegal i c = false → canTrap c → ∃ u, exec i s = .next u ∧ Elsewhere s u ∧
      uncounted (u.issuerWarp s.cur) = delivered c 4 (wordLanes c i) (BitVec.ofNat 64 (r.spec + x.pc.toNat / 8 * 1024))) ∧
  (∀ (i : Instr) (s : State) (w : Warp) (e : Entry) (x : Nat), isEvent i = false → s.issuer = some (w, e) → w.heldUp = false →
    i.wf = true → lookaheadFault i w = none → blockOf i w = none → indexFault i w = some x →
    let c : Ctx := { s.ctx w e (hdrOf i) with word := encode i }
    stateIllegal i c = false → canTrap c → ∃ u, exec i s = .next u ∧ Elsewhere s u ∧
      uncounted (u.issuerWarp s.cur) = delivered c 3 (indexLanes c i x) (BitVec.ofNat 64 x))

/-- 02 R24, R35-R37: with no warp ISSUING, the earliest-admitted warp that may be selected becomes ISSUING, or, where one of
them is promoted, the earliest promoted (the model's reading, log 120); a gap that has passed is over; a warp that has waited 4,032 cycles READY and not blocked is promoted, as of its cycle. -/
def Obligations.SchedulerEvents : Prop :=
  (∀ (core sched slot : Nat) (s : State), ((s.core core).sched sched).issuing = none → slot ∈ schedSlots sched →
    s.selectable core slot = true →
    ((∀ j ∈ schedSlots sched, s.selectable core j = true → (s.warp core j).sched.promoted = none ∧
        ((s.warp core slot).sched.order < (s.warp core j).sched.order ∨ j = slot)) ∨
      ((s.warp core slot).sched.promoted ≠ none ∧ ∀ j ∈ schedSlots sched, s.selectable core j = true →
        (s.warp core j).sched.promoted = none ∨ (s.warp core slot).sched.promotedBefore (s.warp core j).sched = true ∨ j = slot)) →
    Goes (.warpSelect core sched) s (fun t => (t.warp core slot).state = .issuing ∧
      ((t.core core).sched sched).issuing = some slot ∧ ∀ k j, (k, j) ≠ (core, slot) → (t.warp k j).state = (s.warp k j).state)) ∧
  (∀ (core slot : Nat) (s : State), (s.warp core slot).sched.gapUntil ≠ 0 → (s.warp core slot).sched.gapUntil ≤ s.now →
    Goes (.gapExpiry core slot) s (fun t =>
      t.warp core slot = { s.warp core slot with sched := { (s.warp core slot).sched with gapUntil := 0 } } ∧
      ∀ k j, (k, j) ≠ (core, slot) → t.warp k j = s.warp k j)) ∧
  (∀ (core slot : Nat) (s : State), (s.warp core slot).state = .ready → 4032 ≤ (s.warp core slot).sched.waited →
    (s.warp core slot).sched.promoted = none →
    Goes (.promotion core slot) s (fun t => (t.warp core slot).sched.promoted = some s.now ∧ (t.warp core slot).state = .ready ∧
      ∀ k j, (k, j) ≠ (core, slot) → t.warp k j = s.warp k j))

/-- 02 R24; 06 R104-R107; 09 R185: the first wakeable warp of a workgroup takes a free place of the register region, or else a
victim is swapped out for it, after 8,192 cycles a READY or ISSUING one; the ends of the moves; a warp parked for 256 cycles
may be a victim, one parked for 65,536 is swapped out; a storage error of the swap region stops the launch. -/
def Obligations.SwapEvents : Prop :=
  (∀ (core slot i : Nat) (s : State), s.firstWakeable core (s.warp core slot).wg = some i →
    s.moving core (s.warp core slot).wg = false → s.regRoom core (s.warp core slot).wg (s.warp core i).nregs = false →
    s.victim core (s.warp core slot).wg i = some slot →
    Goes (.swapOut core slot) s (fun t => (t.warp core slot).state = .swapped (s.warp core slot).base ∧
      (t.warp core slot).res = .movingOut (s.swapRoom core (s.warp core slot).wg (s.warp core slot).nregs))) ∧
  (∀ (core slot i : Nat) (s : State), s.firstWakeable core (s.warp core slot).wg = some i → (s.warp core i).wg = (s.warp core slot).wg →
    s.moving core (s.warp core slot).wg = false → s.regRoom core (s.warp core slot).wg (s.warp core i).nregs = true →
    Goes (.swapOut core slot) s (fun t => (t.warp core i).res = .movingIn ((s.warp core i).res == .swapRegion) ∧ (t.warp core i).sched.wakeable = false ∧
      ∀ k j, (k, j) ≠ (core, i) → t.warp k j = s.warp k j)) ∧
  (∀ (core slot : Nat) (toSwap : Bool) (s : State), (s.warp core slot).res = .movingOut toSwap → (s.warp core slot).state ≠ .swapped .ready →
    s.firstWakeable core (s.warp core slot).wg = none →
    Goes (.swapOutEnd core slot) s (fun t =>
      t.warp core slot = { s.warp core slot with res := if toSwap then .swapRegion else .saveArea })) ∧
  (∀ (core slot : Nat) (b : Base) (fromSwap : Bool) (s : State), (s.warp core slot).res = .movingIn fromSwap → (s.warp core slot).state = .swapped b →
    fromSwap = false ∨ (s.wg (s.warp core slot).wg).badSwap = none →
    Goes (.swapInEnd core slot) s (fun t => (t.warp core slot).res = .resident ∧ (t.warp core slot).state = unswapped b)) ∧
  (∀ (core slot at_ : Nat) (s : State), (s.warp core slot).res = .movingIn true → (s.wg (s.warp core slot).wg).badSwap = some at_ →
    (s.launch (s.wg (s.warp core slot).wg).lid).open_ = true →
    Goes (.swapInEnd core slot) s (fun t => ended s t (s.wg (s.warp core slot).wg).lid 0x14)) ∧
  (∀ (core slot : Nat) (p : Park) (s : State), (s.warp core slot).state = .parked p → (s.warp core slot).sched.parkedSince + 256 ≤ s.now →
    Goes (.parkedVictimTimeout core slot) s (fun t =>
      t.warp core slot = { s.warp core slot with sched := { (s.warp core slot).sched with victim := true } })) ∧
  (∀ (core slot j : Nat) (s : State), s.firstWakeable core (s.warp core slot).wg = some slot →
    (s.warp core slot).sched.wakeableSince + 8192 ≤ s.now → s.moving core (s.warp core slot).wg = false →
    s.regRoom core (s.warp core slot).wg (s.warp core slot).nregs = false → s.victim core (s.warp core slot).wg slot = some j →
    Goes (.wakeableWaitTimeout core slot) s (fun t => (t.warp core j).state = .swapped (s.warp core j).base ∧
      (t.warp core j).res = .movingOut (s.swapRoom core (s.warp core j).wg (s.warp core j).nregs))) ∧
  (∀ (core slot : Nat) (p : Park) (s : State), (s.warp core slot).state = .parked p →
    (s.warp core slot).sched.parkedSince + 65536 ≤ s.now → s.mayLeave core slot = true → s.moving core (s.warp core slot).wg = false →
    s.swapRoom core (s.warp core slot).wg (s.warp core slot).nregs = true →
    Goes (.longParkSwap core slot) s (fun t => (t.warp core slot).state = .swapped (.parked p) ∧ (t.warp core slot).res = .movingOut true))

/-- 08 R164; 09 R182-R184; 16 R290; 17 R320: the rebuild of a mass register ends; the sampler of a port moves on, a sample adds
one to its heat entry, which saturates, and a halving halves the entries of its port; KINDS bits are cleared; KVTAB written
with EN loads the descriptor; a digest's build sums its lines.
Rests on the model's own choice: DESIGN CHOICE, log 12; DEDUCED, logs 9 and 16. -/
def Obligations.UnitEvents : Prop :=
  (∀ (core k i : Nat) (s : State), s.rebuilding core = some (k, i) →
    Goes (.massRebuildEnd core) s (fun t => (t.wg k).massReg i = { (s.wg k).massReg i with rebuilding := false } ∧
      (∀ j, j ≠ i → (t.wg k).massReg j = (s.wg k).massReg j) ∧ ∀ j, j ≠ k → t.wg j = s.wg j)) ∧
  (∀ (part port : Nat) (s : State),
    let h := get noPort s.heat (portKey part port)
    Goes (.heatTurnSkip part port) s (fun t => get noPort t.heat (portKey part port) =
      if h.armed = true ∧ 2 ^ (s.part part).heatk ≤ h.passed then
        { h with passed := 0, q := (h.q + 1) % max 1 (s.part part).coreList.length } else h)) ∧
  (∀ (part k : Nat) (x : HeatSample) (s : State), s.samples[k]? = some x → x.owner / 512 = part →
    (get noPort s.heat (portKey part (x.owner % 512))).halve = false → s.heatAddr part x.unit + 1 ≤ (s.part part).hbmSize →
    Goes (.heatSampleForward part k) s (fun t => t.samples = s.samples.eraseIdx k ∧
      t.byteAt (hbmPlace part (s.heatAddr part x.unit)) =
        BitVec.ofNat 8 (min 255 ((s.byteAt (hbmPlace part (s.heatAddr part x.unit))).toNat + 1)))) ∧
  (∀ (part port : Nat) (s : State), MemoryOk s → (get noPort s.heat (portKey part port)).halve = true →
    s.heatAddr part 0 + (s.part part).heatUnits ≤ (s.part part).hbmSize →
    Goes (.heatHalving part port) s (fun t => (get noPort t.heat (portKey part port)).halve = false ∧
      ∀ u, u < (s.part part).heatUnits → t.byteAt (hbmPlace part (s.heatAddr part u)) =
        if s.unitOwner part u = port then BitVec.ofNat 8 ((s.byteAt (hbmPlace part (s.heatAddr part u))).toNat / 2)
        else s.byteAt (hbmPlace part (s.heatAddr part u)))) ∧
  (∀ (wg : Nat) (ones : BitVec 5) (s : State), (s.wg wg).live = true →
    Goes (.errstatClear wg ones) s (fun t => (t.wg wg).err.kinds = (s.wg wg).err.kinds &&& ~~~ones ∧
      ((s.wg wg).err.kinds ≠ 0 → (t.wg wg).err.kinds = 0 → (t.wg wg).err = {}))) ∧
  (∀ (core slot : Nat) (value : BitVec 64) (e : Entry) (r : List Entry) (s u : State) (d : List Byte),
    (s.warp core slot).frontier = e :: r → value.getLsbD 0 = true →
    let c := s.ctxAt (.warp core slot) (s.warp core slot) e (hdrOf (.illegal 0))
    loadRecord c s 0 false (bits value 6 51 * 64) 64 = .ok (u, d) →
    Goes (.kvtabLoad core slot value) s (fun t => (t.wg c.wgk).kvDesc = some d ∧
      (t.wg c.wgk).kvtab = kvtabStored value ||| (if kvDescOk d then 0 else 2))) ∧
  (∀ (func slot : Nat) (s : State) (ps : List (Nat × Nat × Nat)), (s.digest func slot).state = .building → (s.digest func slot).pause = none →
    s.buildPieces (s.func func).part func ((s.digest func slot).len / 65536) (s.digest func slot).base = .pieces ps →
    piecesMeet ps (((s.func func).digests.filter (fun (j, x) => j != slot && x.state == .ready)).flatMap (fun (_, x) => x.pages)) = false →
    Goes (.digestBuildEnd func slot) s (fun t => t.digest func slot =
      { s.digest func slot with
        state := .ready, pages := ps
        laneA := (ps.map (fun x => (s.pieceSum (s.func func).part x).1)).sum
        laneB := (ps.map (fun x => (s.pieceSum (s.func func).part x).2)).sum }))

/-- 02 R31; 12 R229, R231, R234, R235: a QUEUED walk runs once the walks before it have raised all their produce upcalls; a
waiting consume upcall is raised before others, each with the walk's next SEQ, and the produce upcalls of the next step make
their slots RAISED, a query tile's also where the walk has no key; an upcall goes to its handler's dormant team, whose warps start
at the handler's entry, with priority 0, which is the model's choice.
Rests on the model's own choice: DEDUCED, log 52. -/
def Obligations.WalkQueue : Prop :=
  (∀ (core wid : Nat) (s : State) (w : Walk), (s.core core).walk wid = some w → w.state = .queued → (s.wg w.wg).halting = false →
    (∀ x ∈ (s.core core).before w, x.over = true ∨ x.state ≠ .queued ∧ x.allRaised = true) →
    Goes (.walkStart core wid) s (fun t => (t.core core).walk wid = some { w with state := .running } ∧
      ∀ j, j ≠ wid → (t.core core).walk j = (s.core core).walk j)) ∧
  (∀ (core wid tile p : Nat) (s : State) (w : Walk) (rest : List (Nat × Nat)), (s.core core).walk wid = some w →
    (s.core core).consumeDue = (wid, tile) :: rest → (s.core core).roomFor 1 = true → (s.core core).freePlace = some p →
    Goes (.upcallRaise core wid) s (fun t => (t.core core).consumeDue = rest ∧
      (t.core core).upcalls = (s.core core).upcalls ++ [{ w.consumeUpcall tile with place := p, seq := w.seq % 2 ^ 32 }])) ∧
  (∀ (core wid : Nat) (b : Option Nat) (withA : Bool) (s : State) (w : Walk), (s.core core).walk wid = some w →
    (s.core core).consumeDue = [] → (s.wg w.wg).halting = false → s.tileDue core = false → w.nextRaise (s.core core) = some (withA, b) →
    Goes (.upcallRaise core wid) s (fun t => ∃ w2, (t.core core).walk wid = some w2 ∧
      w2.raisedA = (if withA then w.raisedA + 1 else w.raisedA) ∧
      w2.slotsA = (if withA then w.slotsA.set (w.raisedA % max 1 w.nslotsA) .raised else w.slotsA) ∧
      (∀ h, b = some h → w2.raisedB = h + 1 ∧ w2.slotsB = w.slotsB.set (h % max 1 w.nslotsB) .raised) ∧
      (b = none → w2.raisedB = w.raisedB ∧ w2.slotsB = w.slotsB))) ∧
  (∀ (core : Nat) (s : State) (u : Upcall) (tm : Team) (i : Instr), s.nextUpcall core = some (u, tm) →
    i = .upcallDelivery core ∨ i = .taskStart core →
    Goes i s (fun t => (∀ x ∈ (t.core core).upcalls, x.place = u.place → x.team = some tm.team) ∧
      ∀ j ∈ tm.slots, (s.warp core j).state = .dormant → (t.warp core j).state = .ready ∧ (t.warp core j).uparg = some u.place ∧
        (t.warp core j).frontier =
          [{ prio := 0, pc := (get {} (s.launch (s.wg u.wg).lid).handlers u.h).pc, lanes := BitVec.allOnes 64 }]))

/-- 05 R93, R94; 09 R185; 12 R230-R233, R236, R241: a K-step whose operands are well formed adds its products to the tile's buffer
and multiplies for its cycles; when they have passed the step is counted, of an ATTN block when its last substep ends; a drain
leaves for its owner, or is added to the owner's tile; a drain to a device outside the fabric, and one that no owner accepts,
aborts its walk with PEER; a walk that is over is DONE, and its counter is decremented with its status.
Rests on the model's own choice: DEDUCED, logs 23 and 70; DESIGN CHOICE, log 93. -/
def Obligations.WalkSteps : Prop :=
  (∀ (core wid : Nat) (s : State) (w : Walk) (rows : List Row × List Row × List Row),
    let u := s.armBuffer core wid
    (u.core core).walk wid = some w → w.mayBegin (u.core core) = true → w.stepsPerTile ≠ 0 → w.canBegin = true →
    (∀ r ∈ stepRanges w w.finished, ∀ l ∈ spLines r.1 r.2, get false (u.wg w.wg).badLines l = false) →
    let g := (u.wg w.wg).slotsRead w w.finished
    stepRows w w.finished g = some rows →
    Goes (.kStepBegin core wid) s (fun t => t.wg w.wg = (multiply w w.finished rows g).2 ∧
      ∃ w2, (t.core core).walk wid = some w2 ∧ w2.begun = w.finished + 1 ∧ w2.multiplying = true ∧ w2.state = .running ∧
        w2.endsAt = s.now + w.cycles w.finished g)) ∧
  (∀ (core wid : Nat) (s : State) (w : Walk), (s.core core).walk wid = some w → w.multiplying = true → w.endsAt ≤ s.now →
    Goes (.kStepEnd core wid) s (fun t => ∃ w2, (t.core core).walk wid = some w2 ∧ w2.multiplying = false ∧
      (w2.finished, w2.substep) = if w.substep + 1 < w.substeps then (w.finished, w.substep + 1) else (w.finished + 1, 0))) ∧
  (∀ (core wid : Nat) (remote : Option (List (BitVec 32))) (s : State) (w : Walk), (s.core core).walk wid = some w → w.drainDue = true →
    w.peerdev ≠ 0xFFFF →
    (s.inFabric (s.wgPart (s.wg w.wg)) w.peerdev = true → Goes (.drainAccept core wid remote) s (fun t =>
      t.out = s.out ++ [.drain w.peerdev w.peercore w.tag w.drainsAccepted
        (tileValues w w.drainsAccepted ((s.readTile w w.drainsAccepted).wg w.wg))] ∧
      ∃ w2, (t.core core).walk wid = some w2 ∧ w2.drainsAccepted = w.drainsAccepted + 1)) ∧
    (s.inFabric (s.wgPart (s.wg w.wg)) w.peerdev = false → w.state ≠ .queued → Goes (.drainAccept core wid remote) s (fun t =>
      ∃ w2, (t.core core).walk wid = some w2 ∧ w2.state = .aborting ∧ w2.status = 0x41))) ∧
  (∀ (core wid tile split : Nat) (data : List (BitVec 32)) (s : State) (w : Walk), (s.core core).walk wid = some w →
    (w.drainDue = false ∨ w.peerdev = 0xFFFF) → w.awaits = some (tile, split) → (s.core core).drainLater w tile s.now = false → s.mismatched w = false →
    Goes (.drainAccept core wid (some data)) s (fun t => t.wg w.wg = addDrain w tile data (s.wg w.wg) ∧
      ∃ w2, (t.core core).walk wid = some w2 ∧ get 0 w2.drainsAdded tile = get 0 w.drainsAdded tile + 1)) ∧
  (∀ (core wid since : Nat) (s : State) (w : Walk), (s.core core).walk wid = some w → w.drainSince = some since → w.drainDue = true →
    w.state ≠ .queued → since + 16777216 ≤ s.now → s.owners w = [] →
    Goes (.drainTimeout core wid) s (fun t => ∃ w2, (t.core core).walk wid = some w2 ∧ w2.state = .aborting ∧ w2.status = 0x41)) ∧
  (∀ (core wid : Nat) (s : State) (w : Walk), (s.core core).walk wid = some w → (s.core core).walkOver w = true →
    Goes (.walkDone core wid) s (fun t => due t (fieldW w.record 48 8) w.status 3 ∧
      ∀ w2, (t.core core).walk wid = some w2 → w2.state = .done))

/-- 10 R203-R210; 14 R265; 16 R299-R301; 17 R305: a copy, a sweep and a KV command run from where they stand to their end, where no
forced halt stops them; a malformed descriptor ends its command with ILLEGAL; the completion makes the decrement of the command's
counter with its status due, until which the command keeps its place, and a sweep's puts its result in d. A KV command reads its
entry, and the group record that it names, before its checks. A seal of an entry that is not valid, or sealed, or into a group record
that is full, of another size, or beside the one the entry names, ends with KVRANGE; with no group it sets the entry's SEALED bit. A rebuild of an entry that is not sealed, or not of the command's group, ends with KVRANGE; that one
that names no group does too is the model's choice.
Rests on the model's own choice: DESIGN CHOICE, log 24; DEDUCED, log 110. -/
def Obligations.EngineSteps : Prop :=
  (∀ (core : Nat) (s u : State) (c c2 : CopyCmd) (r : List CopyCmd), (s.core core).copies = c :: r → c.state = .queued →
    s.engineHalted c.by_ = false → copyOk c.desc = true → copyRun core (copyTotal c.desc - c.pos) c s = (u, c2, none) →
    Goes (.copyCommandStart core) s (fun t => ∃ c3, (t.core core).copies.head? = some c3 ∧ c3.state = .finished ∧ c3.status = c2.status)) ∧
  (∀ (core : Nat) (s : State) (c : CopyCmd) (r : List CopyCmd), (s.core core).copies = c :: r → c.state = .queued →
    s.engineHalted c.by_ = false → copyOk c.desc = false →
    Goes (.copyCommandStart core) s (fun t => (t.core core).copies = { c with state := .finished, status := 1 } :: r)) ∧
  (∀ (core : Nat) (s : State) (c : CopyCmd) (r : List CopyCmd), (s.core core).copies = c :: r → c.state = .finished →
    Goes (.copyComplete core) s (fun t => leftQueue CopyCmd.state (doneAt (fieldW c.desc 40 8)) (t.core core).copies r ∧
      due t (fieldW c.desc 40 8) c.status 1)) ∧
  (∀ (core sched : Nat) (s u : State) (c c2 : SweepCmd) (r : List SweepCmd), ((s.core core).sched sched).sweeps = c :: r →
    c.state = .queued → s.engineHalted c.by_ = false → sweepRun core (nestFuel c.src) c s = (u, c2, none) →
    Goes (.sweepStart core sched) s (fun t => ∃ c3, ((t.core core).sched sched).sweeps.head? = some c3 ∧ c3.state = .finished ∧
      sweepResult c3 = sweepResult c2)) ∧
  (∀ (core sched : Nat) (s : State) (c : SweepCmd) (r : List SweepCmd), ((s.core core).sched sched).sweeps = c :: r →
    c.state = .finished →
    Goes (.sweepEnd core sched) s (fun t => leftQueue SweepCmd.state c.ctr ((t.core core).sched sched).sweeps r ∧
      (∀ va, c.ctr = some va → ∃ d ∈ t.decs, d.va = va ∧ d.status = 0 ∧ d.agent = 2) ∧
      (s.issuerAlive c.by_ = true → (s.warp core c.by_.slot).flights.any (fun f => f.id == c.flight) = true →
        (t.warp core c.by_.slot).readS c.d = sweepResult c))) ∧
  (∀ (core : Nat) (s u : State) (c : KvCmd) (r : List KvCmd) (e g : List Byte), (s.core core).kvs = c :: r → c.state = .queued →
    s.kvBusy core c = false → s.kvStart core c = .ok (u, e, g) → kvCmdOk c.bytes = false →
    Goes (if kvIsRebuild c.bytes then .kvRebuild core else .kvsealCommand core) s (fun t =>
      leftQueue KvCmd.state (doneAt (fieldW c.bytes 16 8)) (t.core core).kvs r ∧ due t (fieldW c.bytes 16 8) 1 5)) ∧
  (∀ (core : Nat) (s u v : State) (c : KvCmd) (r : List KvCmd) (e g : List Byte), (s.core core).kvs = c :: r →
    c.state = .queued → kvCmdOk c.bytes = true → kvIsRebuild c.bytes = false → s.kvBusy core c = false → field c.bytes 8 8 = 0 →
    s.kvStart core c = .ok (u, e, g) → kvValid e = true → kvSealed e = false →
    u.kvPut core c.by_ (field c.bytes 0 8) 8 (field e 0 8 % 2 ^ 62 + 3 * 2 ^ 62) = .ok v →
    Goes (.kvsealCommand core) s (fun t => t.mem = v.mem ∧ due t (fieldW c.bytes 16 8) 0 5)) ∧
  (∀ (core : Nat) (s u : State) (c : KvCmd) (r : List KvCmd) (e g : List Byte), (s.core core).kvs = c :: r →
    c.state = .queued → kvCmdOk c.bytes = true → kvIsRebuild c.bytes = false → s.kvBusy core c = false →
    s.kvStart core c = .ok (u, e, g) →
    kvValid e = false ∨ kvSealed e = true ∨
      field c.bytes 8 8 ≠ 0 ∧ (8 ≤ field g 72 1 ∨ field g 76 4 ≠ c.blkb ∨ kvGroup e ≠ 0) →
    Goes (.kvsealCommand core) s (fun t => due t (fieldW c.bytes 16 8) 0x10 5)) ∧
  (∀ (core : Nat) (s u : State) (c : KvCmd) (r : List KvCmd) (e g : List Byte), (s.core core).kvs = c :: r →
    c.state = .queued → kvCmdOk c.bytes = true → kvIsRebuild c.bytes = true → s.kvBusy core c = false →
    s.kvStart core c = .ok (u, e, g) →
    kvSealed e = false ∨ kvGroup e ≠ field c.bytes 8 8 ∨ field c.bytes 8 8 = 0 →
    Goes (.kvRebuild core) s (fun t => due t (fieldW c.bytes 16 8) 0x10 5)) ∧
  (∀ (core : Nat) (s u x : State) (c c2 : KvCmd) (r : List KvCmd) (e g : List Byte),
    (s.core core).kvs = c :: r → c.state = .queued → kvCmdOk c.bytes = true → kvIsRebuild c.bytes = true → s.kvBusy core c = false →
    s.kvStart core c = .ok (u, e, g) → kvSealed e = true → kvGroup e = field c.bytes 8 8 → field c.bytes 8 8 ≠ 0 →
    kvRewrite core (u.kvGroupPlace c) (field g (8 * kvSlot e) 8) (kvOthers g (kvSlot e)) (field g 76 4 / 64 - c.line) { c with read := some (e, g) } u =
      (x, c2, none) →
    Goes (.kvRebuild core) s (fun t => t.mem = x.mem ∧ due t (fieldW c.bytes 16 8) (if c2.lost then 0x14 else 0) 5)) ∧
  (∀ (core : Nat) (s u v : State) (c : KvCmd) (e g : List Byte) (ps qs : List (Page × Nat)), c.read = none →
    s.engLoad core 5 c.by_ (field c.bytes 0 8) 16 = .ok (u, e, ps) →
    (field c.bytes 8 8 = 0 → s.kvStart core c = .ok (u, e, [])) ∧
    (field c.bytes 8 8 ≠ 0 → u.engLoad core 5 c.by_ (field c.bytes 8 8) 128 = .ok (v, g, qs) → s.kvStart core c = .ok (v, e, g)))

/-- 17 R304, R305, R307: the memory-side unit takes one from a counter whose COUNT is not zero, where its completion failed
setting ERR, and STATUS where that was zero; a COUNT of zero stays, with an UNDERFLOW record, stated where the fault queue has no
room. A launch whose decrement is over is no more, and in no queue: that its record stands until then is the model's reading (DEDUCED,
log 66); a copy or a KV command leaves its queue then. The place of the counter is the
model's too (DEDUCED, log 30). Left out: an UNDERFLOW record written at once, a decrement whose access faults, one that a walk made.
Rests on the model's own choice: DEDUCED, logs 66 and 30. -/
def Obligations.CounterDecrements : Prop :=
  (∀ (w n status : Nat), n ≤ w % 2 ^ 24 → w < 2 ^ 32 → 0 < status → status < 128 →
    decWord w n 0 = w - n ∧ decWord w n status % 2 ^ 24 = w % 2 ^ 24 - n ∧ decWord w n status / 2 ^ 31 = 1 ∧
    decWord w n status / 2 ^ 24 % 128 = (if w / 2 ^ 24 % 128 = 0 then status else w / 2 ^ 24 % 128)) ∧
  (∀ (k : Nat) (s : State) (d : Dec) (ps : List (Page × Nat)), s.decs[k]? = some d → d.page = none → (∀ g n, d.origin ≠ .walk g n) →
    s.counterPlace d.part d.func (counterVa d.va) { write := true } = .ok ps → (∀ x ∈ placeLines ps, quiet s d.part d.func x) →
    s.counterWord d.part ps % 2 ^ 24 ≠ 0 →
    let ws := counterWrites ps (decWord (s.counterWord d.part ps) 1 d.status)
    (∀ x ∈ ws, plainWrite s d.part d.func x) →
    Goes (.dependenceDecrement k) s (fun t => t.decs = s.decs.eraseIdx k ∧ (∀ a, t.byteAt a = written s ws a) ∧
      (d.origin = .launch → t.launch d.lid = noLaunch ∧ d.lid ∉ (t.part (s.launch d.lid).part).queue) ∧
      (∀ n, d.origin = .cmd n → ∀ c, (∀ x ∈ (t.core c).copies, x.state ≠ .closing n) ∧ (∀ x ∈ (t.core c).kvs, x.state ≠ .closing n)))) ∧
  (∀ (k : Nat) (s : State) (d : Dec) (ps : List (Page × Nat)), s.decs[k]? = some d → d.page = none → (∀ g n, d.origin ≠ .walk g n) →
    s.counterPlace d.part d.func (counterVa d.va) { write := true } = .ok ps → (∀ x ∈ placeLines ps, quiet s d.part d.func x) →
    s.counterWord d.part ps % 2 ^ 24 = 0 → (s.part d.part).fqRoom = false →
    Goes (.dependenceDecrement k) s (fun t => t.decs = s.decs.eraseIdx k ∧ t.mem = s.mem ∧ (t.part d.part).fqovf = true ∧
      ∃ r, (t.part d.part).fqHeld = (s.part d.part).fqHeld ++ [r] ∧ r.cause = 0x13 ∧ r.va = d.va.toNat))

/-- 02 R19-R22; 13 R249, R252-R257: a launch whose record fails a check completes with ILLEGAL; one that passes emits its grid,
or runs its prologue with ARG and the record's address; a prologue too long ends its launch, one that asked for it runs again;
the dispatcher serves the first launch of the resident context in order of priority and age whose next workgroup fits; while a
workgroup waits that was rotated out, it serves the launches that became dispatchable before that so, and then restores it, which is
the model's reading of 14 R271 and 02 R41 (log 101); cores start the first task of their ready queue that can start, after the upcalls; a launch whose workgroups have all retired
completes. That a launch that ends sooner leaves the launch queue then is the model's reading, since 12 R223 ties the removal to the
dispatch of all workgroups (log 66); that a prologue's frontier starts with priority 0 is the model's choice. Left out: a start with a
group table, or with a bound collective.
Rests on the model's own choice: DEDUCED, logs 33, 35, 52, 66 and 101. -/
def Obligations.LaunchSteps : Prop :=
  (∀ (lid : Nat) (s : State), startable s lid → (s.launch lid).recordBad = true →
    Goes (.launchStart lid) s (fun t => ended s t lid 1)) ∧
  (∀ (lid : Nat) (s : State), startable s lid → (s.launch lid).recordBad = false → (s.launch lid).grouptab = 0 →
    (s.launch lid).collAt = 0 →
    s.placeBad { s.launch lid with groups := [] } ((s.launch lid).recGrid.1 * (s.launch lid).recGrid.2.1 * (s.launch lid).recGrid.2.2) = false →
    Goes (.launchStart lid) s (fun t =>
      ((s.launch lid).prologueAt = 0 →
        ((t.launch lid).nx, (t.launch lid).ny, (t.launch lid).nz) = (s.launch lid).recGrid ∧
        (t.launch lid).arg = fieldW (s.launch lid).record 8 8 ∧
        (t.launch lid).state = if (t.launch lid).total = 0 then .running else .dispatching) ∧
      ((s.launch lid).prologueAt ≠ 0 → (t.launch lid).state = .prologue ∧ ∃ r, (t.part (s.launch lid).part).prologue = some r ∧ r.lid = lid ∧
        r.words = 0 ∧ r.warp.readS 0 = fieldW (s.launch lid).record 8 8 ∧ r.warp.readS 1 = (s.launch lid).src ∧
        r.warp.frontier = [{ prio := 0, pc := (s.launch lid).prologueAt, lanes := 1 }]))) ∧
  (∀ (part : Nat) (s : State) (r : Prologue), (s.part part).prologue = some r → 65536 ≤ r.words →
    (s.launch r.lid).open_ = true → Goes (.prologueWordLimit part) s (fun t => ended s t r.lid 1)) ∧
  (∀ (part lid : Nat) (s : State) (w : Warp), s.rerunLaunch part = some lid → (s.launch lid).pwarp = some w →
    (s.launch lid).devParts = [] →
    Goes (.prologueRerun part) s (fun t => ∃ r, (t.part (s.launch lid).part).prologue = some r ∧ r.lid = lid ∧ r.words = 0 ∧
      r.warp.s = w.s ∧ r.warp.p = w.p ∧ r.warp.frontier = [{ prio := 0, pc := (s.launch lid).prologueAt, lanes := 1 }])) ∧
  (∀ (part f lid : Nat) (s t : State), (s.part part).turn = some f → (s.func f).ctx.request = none → (s.func f).ctx.asked = false →
    lid ∈ (s.part part).queue → (s.launch lid).live = true → (s.launch lid).func = f → s.serve lid = some t →
    (s.rotatedOf f = [] → (∀ j ∈ (s.part part).queue, j ≠ lid → (s.launch j).live = true → (s.launch j).func = f →
      s.serve j = none ∨ s.servedBefore lid j = true) → exec (.dispatchWorkgroup part) s = .next t) ∧
    (∀ v r, s.rotatedOf f = v :: r → s.olderThan v lid = true → (∀ j ∈ (s.part part).queue, j ≠ lid → (s.launch j).live = true →
      (s.launch j).func = f → s.olderThan v j = true → s.serve j = none ∨ s.servedBefore lid j = true) →
      exec (.dispatchWorkgroup part) s = .next t)) ∧
  (∀ (part f : Nat) (v : SavedWg) (r : List SavedWg) (s t : State), (s.part part).turn = some f → (s.func f).ctx.request = none →
    (s.func f).ctx.asked = false → s.rotatedOf f = v :: r → s.olderQueued f v = false → s.restoreNext part f v = some t →
    (∀ j ∈ (s.part part).queue, (s.launch j).live = true → (s.launch j).func = f → s.olderThan v j = true →
      s.serve j = none ∧ (s.launch j).uncreated = false) →
    exec (.dispatchWorkgroup part) s = .next t) ∧
  (∀ (lid c : Nat) (s : State), (s.launch lid).state = .dispatching → (s.launch lid).groups = [] → s.dispatchCore lid = some c →
    ∃ t, s.serve lid = some t ∧ (t.launch lid).next = (s.launch lid).next + 1 ∧
      ∃ x ∈ (t.core c).ready, x.task = .workgroup lid (s.launch lid).next) ∧
  (∀ (core : Nat) (s t : State) (tk : Task) (i : Instr), s.nextUpcall core = none → s.startFirst core = some (tk, t) →
    i = .taskStart core ∨ (i = .workgroupAdmission core ∧ tk.isWg = true) →
    exec i s = .next t ∧ s.startTask core tk = some t ∧ ∃ r ∈ (s.core core).ready, r.task = tk ∧
      ∀ x ∈ (s.core core).ready, s.startTask core x.task ≠ none → x.before r = false) ∧
  (∀ (core lid lin : Nat) (s t : State), s.startTask core (.workgroup lid lin) = some t →
    (t.wg (wgKey lid lin)).live = true ∧ (t.wg (wgKey lid lin)).lid = lid ∧ (t.wg (wgKey lid lin)).core = core ∧
    (t.wg (wgKey lid lin)).sp = [] ∧ (t.wg (wgKey lid lin)).fe = [] ∧ (t.wg (wgKey lid lin)).acc = []) ∧
  (∀ (lid : Nat) (s : State), s.launchOver lid = true → (s.launch lid).devParts = [] →
    Goes (.launchComplete lid) s (fun t => ended s t lid (if (s.launch lid).storage then 0x14 else 0) ∧
      (fieldW (s.launch lid).record 24 8 = 0 → t.launch lid = noLaunch ∧ lid ∉ (t.part (s.launch lid).part).queue)))

/-- 17 R305, R311-R317, R322, R323: a collective that fails a check is over with that status and the other members are told, one that
passes runs with its contribution; a chunk of the ring is combined, or its final value kept and passed on; a line of the switch
is kept; a message that shows another descriptor ends the collective with ILLEGAL, and the other members are told; a vote is kept, and votes that all agree end the collective; a finished one writes its result, and leaves the queue when
its decrement is performed, at once where it has no counter.
Rests on the model's own choice: DEDUCED, logs 38 and 83. -/
def Obligations.CollectiveSteps : Prop :=
  (∀ (part k n : Nat) (s : State) (c : Collective) (e : List Byte), s.collAt part k = some c → c.state = .queued → c.page = none →
    s.firstQueued part k = true → s.groupEntry part (collGroup c.desc) = some e → s.collTurn c (s.takeSeq c e).2 = true →
    s.collBad c e = n → n ≠ 0 →
    Goes (.collectiveStart part k) s (fun t => ∃ c2, t.collAt part k = some c2 ∧ c2.state = .finishing ∧ c2.status = n ∧
      t.out = s.out ++ [c2.fail part])) ∧
  (∀ (part k : Nat) (s u : State) (c : Collective) (e : List Byte) (mine : CollData) (res : List Byte), s.collAt part k = some c →
    c.state = .queued → c.page = none → s.firstQueued part k = true → s.groupEntry part (collGroup c.desc) = some e →
    s.collTurn c (s.takeSeq c e).2 = true → s.collBad c e = 0 → ({ c with entry := e } : Collective).readMine s = .ok (u, mine, res) →
    c.range.2 ≠ 0 → entrySize e ≠ 1 →
    let c2 := { c with seq := (u.takeSeq c e).2, entry := e, mine := mine, residuals := res, progress := u.wall }
    Goes (.collectiveStart part k) s (fun t => t.collAt part k = some { c2 with state := .running })) ∧
  (∀ (part k chunk : Nat) (data : CollData) (s : State) (c : Collective), ringOk s part k chunk .reduce data c →
    entryRank c.entry ≠ (chunk + 1) % entrySize c.entry →
    let x := collCombine (collOp c.desc) data (collSlice (c.chunk chunk).1 (c.chunk chunk).2 c.mine)
    Goes (.ringHop part k chunk .reduce ⟨data, c.info⟩) s (fun t =>
      t.out = s.out ++ [c.hop part chunk (if entryRank c.entry = chunk then .gather else .reduce) x] ∧
      (entryRank c.entry = chunk → ∃ c2, t.collAt part k = some c2 ∧ get none c2.results chunk = some x))) ∧
  (∀ (part k chunk : Nat) (data : CollData) (s : State) (c : Collective), ringOk s part k chunk .gather data c →
    entryRank c.entry ≠ chunk →
    Goes (.ringHop part k chunk .gather ⟨data, c.info⟩) s (fun t => ∃ c2, t.collAt part k = some c2 ∧ get none c2.results chunk = some data)) ∧
  (∀ (part k line : Nat) (data : CollData) (s : State) (c : Collective), s.collAt part k = some c → c.state = .running →
    collPush c.desc = true → c.lineBase ≤ line → line - c.lineBase < linesOf c.desc c.range.2 →
    get none c.results (line - c.lineBase) = none → collIsType data (collType c.desc) = true →
    let n := min (perLine c.desc) (c.range.2 - (line - c.lineBase) * perLine c.desc)
    n ≤ collLen data →
    Goes (.result part k line ⟨data, c.info⟩) s (fun t => ∃ c2, t.collAt part k = some c2 ∧
      get none c2.results (line - c.lineBase) = some (collSlice 0 n data))) ∧
  (∀ (part k chunk line : Nat) (phase : RingPhase) (data : CollData) (info : CollInfo) (s : State) (c : Collective) (i : Instr),
    s.collAt part k = some c → c.state = .running → info ≠ c.info →
    i = .ringHop part k chunk phase ⟨data, info⟩ ∨ i = .result part k line ⟨data, info⟩ →
    Goes i s (fun t => t.collAt part k = some { c with state := .finishing, status := 1 } ∧ t.out = s.out ++ [c.fail part])) ∧
  (∀ (part k rank : Nat) (value : List VoteTriple) (s : State) (c : Collective), s.collAt part k = some c → c.state = .running →
    c.status = 0 → rank < entrySize c.entry → rank ≠ entryRank c.entry → c.votes.any (fun (r, _) => r == rank) = false →
    Goes (.voteValue part k rank value) s (fun t => ∃ c2, t.collAt part k = some c2 ∧ c2.votes = c.votes ++ [(rank, value)])) ∧
  (∀ (part k rank : Nat) (value : List VoteTriple) (s : State) (c : Collective), s.collAt part k = some c → c.state = .voting →
    c.status = 0 → c.slice = none → rank < entrySize c.entry → rank ≠ entryRank c.entry → c.votes.any (fun (r, _) => r == rank) = false →
    c.votes.length + 1 = entrySize c.entry → (∀ x ∈ c.votes, x.2 = value) → (∃ x ∈ c.votes, x.1 = entryRank c.entry) →
    Goes (.voteValue part k rank value) s (fun t => collLeft t part k (s.part part).colls (fieldW c.desc 40 8) ∧
      due t (fieldW c.desc 40 8) 0 4)) ∧
  (∀ (part k : Nat) (s : State) (c : Collective), s.collAt part k = some c → c.state = .finishing → c.page = none →
    c.status ≠ 0 → c.status ≠ 0x16 → c.slice = none →
    Goes (.collectiveComplete part k) s (fun t => collLeft t part k (s.part part).colls (fieldW c.desc 40 8) ∧
      due t (fieldW c.desc 40 8) c.status 4)) ∧
  (∀ (part k : Nat) (s u v : State) (c : Collective), s.collAt part k = some c → c.state = .finishing → c.page = none → c.status = 0 →
    c.slice = none → collVote c.desc = false → c.range.2 ≠ 0 → c.writeDst s (collBytes c.result) (collHeaders c.result) = .ok u →
    c.writeRes u = .ok v →
    Goes (.collectiveComplete part k) s (fun t => t.mem = v.mem ∧ collLeft t part k (v.part part).colls (fieldW c.desc 40 8) ∧
      due t (fieldW c.desc 40 8) 0 4))

/-- 17 R311, R318: another member's failed check ends a running collective with ILLEGAL; a lost member, the switch's word of one,
and a wait without progress end it with MLOST. -/
def Obligations.CollectiveLoss : Prop :=
  (∀ (part k : Nat) (s : State) (c : Collective), s.collAt part k = some c → c.state = .running →
    Goes (.fail part k) s (fun t => t.collAt part k = some { c with state := .finishing, status := 1 })) ∧
  (∀ (part k : Nat) (s : State) (c : Collective) (i : Instr), s.collAt part k = some c → c.open_ = true →
    i = .lost part k ∨ (i = .collectiveTimeout part k ∧ c.progress + usec (entryTimeout c.entry) ≤ s.wall) →
    Goes i s (fun t => ∃ c2, t.collAt part k = some c2 ∧ c2.state = .finishing ∧ c2.status = 0x16)) ∧
  (∀ (part group : Nat) (s : State),
    Goes (.memberLost part group) s (fun t => ∀ k c, s.collAt part k = some c → c.open_ = true → collGroup c.desc = group →
      ∃ c2, t.collAt part k = some c2 ∧ c2.state = .finishing ∧ c2.status = 0x16))

/-- 14 R263-R266, R269, R271: the quantum's end, and a slice's, make a soft request, which waits while a workgroup of the context
is being restored; a workgroup under one is saved when it has stopped; BARDEFER and GRACE force it; KILL, and the driver, kill the
context, whose launches complete with KILLED. That its saved workgroups are discarded too is the model's choice.
Rests on the model's own choice: DEDUCED, log 77. -/
def Obligations.Requests : Prop :=
  (∀ (part f k : Nat) (s : State), s.quantumOver part = some f → (s.wg k).live = true → s.wgFunc (s.wg k) = f →
    Goes (.deficitQuantumExpiry part) s (fun t => if s.anyRestoring f = true then (t.func f).ctx.asked = true
      else (t.func f).ctx.request = some s.wall)) ∧
  (∀ (wg : Nat) (s : State), s.softReady wg = true → Goes (.softSave wg) s (fun t => t.wg wg = { s.wg wg with saving := true })) ∧
  (∀ (wg : Nat) (s : State), s.barrierOver wg = true →
    Goes (.bardeferExpiry wg) s (fun t => (t.wg wg).forced = true ∧ (t.wg wg).saving = true)) ∧
  (∀ (part : Nat) (s : State), Goes (.graceExpiry part) s (fun t => ∀ k ∈ s.partWgs part, s.graceOver k = true →
    (t.wg k).forced = true ∧ (t.wg k).saving = true)) ∧
  (∀ (lid lin : Nat) (s : State), s.sliceOver (wgKey lid lin) = true → (s.wg (wgKey lid lin)).lid = lid → (s.wg (wgKey lid lin)).lin = lin →
    lin < 2 ^ 32 → (s.launch lid).groups = [] →
    Goes (.wgSliceExpiry (wgKey lid lin)) s (fun t => (t.wg (wgKey lid lin)).request = some s.wall ∧ (t.wg (wgKey lid lin)).rotating = true)) ∧
  (∀ (f : Nat) (s : State) (i : Instr),
    (i = .contextKill f ∧ s.hasContext f = true) ∨
      (∃ part k, i = .killExpiry part ∧ (s.partWgs part).find? (fun j => s.killOver j) = some k ∧ s.wgFunc (s.wg k) = f) →
    Goes i s (fun t => (t.func f).ctx.saved = [] ∧ ∀ lid, (s.launch lid).open_ = true → (s.launch lid).func = f →
      ended s t lid 0x18))

/-- 14 R265-R269, R273; 17 R324: a save puts the workgroup's image into its context, writes its bytes where the workgroup's place in the
save area is, and frees its place; a turn adds WEIGHT times
QBASE to the next context's deficit, which above zero makes it resident; a restored workgroup goes on; a frozen warp is
released to its word, or to the next one; a context held after DIVERGE takes turns again.
Rests on the model's own choice: DESIGN CHOICE, log 76. -/
def Obligations.Turns : Prop :=
  (∀ (wg : Nat) (s : State), (s.wg wg).live = true → (s.wg wg).saving = true → s.settled wg = true →
    Goes (.saveComplete wg) s (fun t => t.wg wg = noWg ∧
      (t.func (s.wgFunc (s.wg wg))).ctx.saved = (s.func (s.wgFunc (s.wg wg))).ctx.saved ++ [s.imageOf wg] ∧
      ∀ k, (s.imageOf wg).wg.area = some k → t.mem = (s.imageOf wg).store k s.mem)) ∧
  (∀ (part f : Nat) (s : State), (s.part part).turn = none → (s.part part).en = true → s.hot = false →
    (s.part part).resume = none → s.nextContext part = some f → s.comingBack f = [] →
    let d : Int := (s.func f).ctx.deficit + ((s.func f).weight * (s.part part).qbase : Nat)
    Goes (.turn part) s (fun t => (t.func f).ctx.deficit = d ∧
      (t.part part).runq = (s.part part).runq.filter (fun g => g != f) ++ [f] ∧ (t.part part).turn = if d ≤ 0 then none else some f)) ∧
  (∀ (wg : Nat) (s : State), (s.wg wg).live = true → (s.wg wg).restoring = true → (s.wg wg).flushWait = none →
    (∀ k g, get false (s.wg k).flushing g = false) →
    Goes (.restoreComplete wg) s (fun t => (t.wg wg).restoring = false ∧
      ((s.wg wg).haltDue = false → (s.func (s.wgFunc (s.wg wg))).ctx.asked = false → t.mem = s.mem ∧
        ∀ i ∈ s.wgSlots (s.wg wg).core wg, (t.warp (s.wg wg).core i).sched.held = false))) ∧
  (∀ (core slot : Nat) (b : Base) (s : State), (s.warp core slot).state = .frozen b →
    Goes (.warpReleaseRetry core slot) s (fun t => (t.warp core slot).frontier = (s.warp core slot).frontier ∧
      (t.warp core slot).heldCommand = .none ∧
      (t.warp core slot).state = if (s.warp core slot).holdsPlace then unswapped b else .swapped b)) ∧
  (∀ (core slot : Nat) (b : Base) (e : Entry) (r : List Entry) (s : State), (s.warp core slot).state = .frozen b →
    (s.warp core slot).heldCommand = .none → (s.warp core slot).frontier = e :: r →
    Goes (.warpReleaseSkip core slot) s (fun t =>
      (t.warp core slot).frontier = ((s.warp core slot).advance s.now e).frontier ∧
      (t.warp core slot).state = if (s.warp core slot).holdsPlace then unswapped b else .swapped b)) ∧
  (∀ (f : Nat) (s : State), Goes (.contextResume f) s (fun t =>
    t.func f = { s.func f with ctx := { (s.func f).ctx with diverged := false } } ∧ ∀ g, g ≠ f → t.func g = s.func g))

/-- 13 R258, R259; 15 R280-R282; 17 R307; 18 R334: firmware takes a function's commands one after another: one that it cannot
read, or that is not well formed, is passed; LAUNCH enters the record in the launch queue, SIGNAL takes COUNT from a counter,
REPLAY closes the open records of its range, RESYNC writes the summary; HEAD passes each. A held record is written when there
is room.
Rests on the model's own choice: DESIGN CHOICE, log 41; DEDUCED, log 44. -/
def Obligations.HostCommands : Prop :=
  (∀ (f : Nat) (s t : State) (i : Instr), s.command f = .skip t →
    i = .launchCommand f ∨ i = .replay f ∨ i = .signal f ∨ i = .resync f →
    exec i s = .next t ∧ (t.func f).cqhead = (s.func f).cqhead + 1) ∧
  (∀ (f : Nat) (s u v : State) (e r : List Byte), s.command f = .ready u e → cmdOp e = 1 → u.launchFull f = false →
    u.fwRead (u.fwRecord f 0 0) (u.func f).part f (cmdAddr e).toNat 128 = .ok v r → fieldW r 16 8 = 0 →
    let lid := launchId (v.func f).part (v.part (v.func f).part).nextLaunch
    Goes (.launchCommand f) s (fun t => (t.func f).cqhead = (s.func f).cqhead + 1 ∧ (t.launch lid).live = true ∧
      (t.launch lid).record = r ∧ (t.launch lid).ready = true ∧ lid ∈ (t.part (v.func f).part).queue)) ∧
  (∀ (f : Nat) (s u : State) (e : List Byte) (ps : List (Page × Nat)), s.command f = .ready u e → cmdOp e = 3 →
    u.counterPlace (u.func f).part f (counterVa (cmdAddr e)) { write := true } = .ok ps →
    (∀ x ∈ placeLines ps, quiet u (u.func f).part f x) →
    0 < cmdCount e → cmdCount e ≤ u.counterWord (u.func f).part ps % 2 ^ 24 →
    let ws := counterWrites ps (decWord (u.counterWord (u.func f).part ps) (cmdCount e) 0)
    (∀ x ∈ ws, plainWrite u (u.func f).part f x) →
    Goes (.signal f) s (fun t => (t.func f).cqhead = (s.func f).cqhead + 1 ∧ ∀ a, t.byteAt a = written u ws a)) ∧
  (∀ (f : Nat) (s u : State) (e : List Byte), s.command f = .ready u e → cmdOp e = 2 → cmdCount e < 2 ^ 24 →
    (∀ x ∈ u.launches, x.2.heldPage = none) → (∀ x ∈ u.wgs, x.2.flushWait = none) →
    Goes (.replay f) s (fun t => (t.func f).cqhead = (s.func f).cqhead + 1 ∧ ∀ o ∈ (t.part (u.func f).part).opened, o.seq.isSome = true →
      o.rec_.func = f → ¬ ((cmdAddr e).toNat ≤ o.rec_.va ∧ o.rec_.va < (cmdAddr e).toNat + cmdCount e * 65536))) ∧
  (∀ (f : Nat) (s u : State) (e : List Byte), s.command f = .ready u e → cmdOp e = 0x10 →
    Goes (.resync f) s (fun t => (t.func f).cqhead = (s.func f).cqhead + 1 ∧ t.mem = (u.writeSummary f (cmdAddr e) (cmdCount e)).mem)) ∧
  (∀ (part : Nat) (s : State) (r : FaultRec) (rest : List FaultRec),
    (s.part part).fqHeld = r :: rest → (s.part part).fqRoom = true →
    Goes (.faultRecordHeldWrite part) s (fun t => (t.part part).fqHeld = rest ∧ (t.part part).fqtail = (s.part part).fqtail + 1))

/-- 13 R258; 14 R262; 15 R275, R282, R286-R288; 17 R308; 18 R331, R336, R337: what each register that the host writes holds after
the write, field by field; nothing else changes, but that a new root or partition of a function drops its cached translations. That a
journal's position starts again from its first entry when EN is set (log 129), and that REPLAY sets the seven positions from which its
entries are read by KIND to the oldest entry (log 42), is the model's choice.
Rests on the model's own choice: DEDUCED, logs 45, 36 and 39; DESIGN CHOICE, logs 42, 57 and 129. -/
def Obligations.HostRegisters : Prop :=
  (∀ (f : Nat) (tail : BitVec 32) (s : State), s.funcUp f = true →
    Goes (.cqnotifyTailWrite f tail) s (fun t => onlyFunc s t f (
      if (s.func f).cqen = true ∧ (tail - (s.func f).cqhead).toNat ≤ 2 ^ (s.func f).cqlog then { s.func f with cqtail := tail }
      else { s.func f with ignoredTails := (s.func f).ignoredTails + 1 }))) ∧
  (∀ (f : Nat) (v : BitVec 64) (s : State), s.funcUp f = true → v.getLsbD 0 = true →
    Goes (.cqEnable f v) s (fun t =>
      ((s.func f).cqen = true → onlyFunc s t f (s.func f)) ∧
      ((s.func f).cqen = false → log2nTaken v →
        onlyFunc s t f { s.func f with cqen := true, cqlog := bits v 1 5, cqhead := 0, cqtail := 0 }) ∧
      ((s.func f).cqen = false → ¬ log2nTaken v → onlyFunc s t f { s.func f with cqen := false, cqlog := bits v 1 5 }))) ∧
  (∀ (f : Nat) (v : BitVec 64) (s : State), s.funcUp f = true → v.getLsbD 0 = false →
    Goes (.cqDisable f v) s (fun t => onlyFunc s t f { s.func f with cqen := false, cqlog := bits v 1 5 })) ∧
  (∀ (f : Nat) (v : BitVec 64) (s : State), s.funcUp f = true →
    Goes (.registerWrite f 0x0 v) s (fun t => onlyFunc s t f
      { s.func f with cqbase := if (s.func f).cqen then (s.func f).cqbase else keepBits v 12 45 }) ∧
    exec (.registerWrite f 0x8 v) s = exec (if v.getLsbD 0 then .cqEnable f v else .cqDisable f v) s ∧
    exec (.registerWrite f 0x10 v) s = exec (.cqnotifyTailWrite f (v.setWidth 32)) s ∧
    Goes (.registerWrite f 0x20 v) s (fun t => onlyFunc s t f { s.func f with tlt := keepBits v 0 57 })) ∧
  (∀ (p : Nat) (v : BitVec 64) (s : State), p < 16 → v.getLsbD 0 = true →
    Goes (.fqEnable p v) s (fun t =>
      let ovf := (s.part p).fqovf && !v.getLsbD 6
      ((s.part p).fqen = true → onlyPart s t p { s.part p with fqovf := ovf }) ∧
      ((s.part p).fqen = false → log2nTaken v →
        onlyPart s t p { s.part p with fqen := true, fqlog := bits v 1 5, fqhead := 0, fqtail := 0, fqovf := ovf }) ∧
      ((s.part p).fqen = false → ¬ log2nTaken v →
        onlyPart s t p { s.part p with fqen := false, fqlog := bits v 1 5, fqovf := ovf }))) ∧
  (∀ (p : Nat) (h : BitVec 32) (s : State), p < 16 →
    Goes (.fqptrHeadWrite p h) s (fun t =>
      if (s.part p).fqen = true ∧ ((s.part p).fqtail - h).toNat ≤ ((s.part p).fqtail - (s.part p).fqhead).toNat
      then onlyPart s t p { s.part p with fqhead := h, fqIrq := (s.part p).fqIrq && h != (s.part p).fqtail }
      else onlyPart s t p (s.part p))) ∧
  (∀ (p : Nat) (v : BitVec 64) (s : State), p < 16 →
    Goes (.registerWrite 0 (0x40000 + 256 * p) v) s (fun t => onlyPart s t p
      { s.part p with fqbase := if (s.part p).fqen then (s.part p).fqbase else keepBits v 12 45 }) ∧
    (v.getLsbD 0 = true → exec (.registerWrite 0 (0x40000 + 256 * p + 8) v) s = exec (.fqEnable p v) s) ∧
    (v.getLsbD 0 = false → Goes (.registerWrite 0 (0x40000 + 256 * p + 8) v) s (fun t => onlyPart s t p
      { s.part p with fqen := false, fqlog := bits v 1 5, fqovf := (s.part p).fqovf && !v.getLsbD 6 })) ∧
    exec (.registerWrite 0 (0x40000 + 256 * p + 16) v) s = exec (.fqptrHeadWrite p (v.setWidth 32)) s) ∧
  (∀ (p : Nat) (v : BitVec 64) (s : State), p < 16 → v.getLsbD 0 = true →
    Goes (.partitionEnable p v) s (fun t =>
      ((s.part p).en = false →
        let refused := s.enableRefused p { s.part p with cxl := v.extractLsb' 21 4 }
        onlyPart s t p { s.part p with en := !refused, err := refused, heatk := heatkOf v, cxl := v.extractLsb' 21 4 }) ∧
      ((s.part p).en = true →
        onlyPart s t p { s.part p with err := (s.part p).err && !v.getLsbD 1, heatk := heatkOf v }))) ∧
  (∀ (p : Nat) (v : BitVec 64) (s : State), p < 16 → v.getLsbD 0 = false →
    Goes (.partitionDisable p v) s (fun t =>
      ((s.part p).en = true → onlyPart s t p { s.part p with en := s.inUse p, err := s.inUse p, heatk := heatkOf v }) ∧
      ((s.part p).en = false → onlyPart s t p { s.part p with
        err := (s.part p).err && !v.getLsbD 1, heatk := heatkOf v, cxl := v.extractLsb' 21 4 }))) ∧
  (∀ (p : Nat) (v : BitVec 64) (s : State), p < 16 →
    exec (.registerWrite 0 (0x50000 + 256 * p) v) s = exec (if v.getLsbD 0 then .partitionEnable p v else .partitionDisable p v) s ∧
    (∀ d, d < 4 → Goes (.registerWrite 0 (0x50000 + 256 * p + 8 + 8 * d) v) s (fun t => onlyPart s t p
      { s.part p with cores := if (s.part p).en then (s.part p).cores else put 0 (s.part p).cores d v })) ∧
    (∀ j, j < 6 → Goes (.registerWrite 0 (0x50000 + 256 * p + 0x28 + 8 * j) v) s (fun t => onlyPart s t p
      { s.part p with chans := if (s.part p).en then (s.part p).chans else put 0 (s.part p).chans j v })) ∧
    Goes (.registerWrite 0 (0x50000 + 256 * p + 0x60) v) s (fun t => onlyPart s t p { s.part p with heatBase := keepBits v 16 36 })) ∧
  (∀ (f : Nat) (v : BitVec 64) (s : State), f ≤ 1024 →
    Goes (.vfpartWrite f v) s (fun t =>
      (s.hasContext f = true → t = s) ∧
      (s.hasContext f = false → onlyFuncFresh s t f { s.func f with vfen := v.getLsbD 4, part := bits v 0 4 })) ∧
    exec (.registerWrite 0 (0x60000 + 8 * f) v) s = exec (.vfpartWrite f v) s) ∧
  (∀ (p : Nat) (v : BitVec 64) (s : State), p < 16 →
    Goes (.registerWrite 0 (0x10000 + 256 * p) v) s (fun t => onlyPart s t p
      { s.part p with timers := { kill := bits v 32 32, bardefer := bits v 16 16, grace := bits v 0 16 } }) ∧
    Goes (.registerWrite 0 (0x10000 + 256 * p + 8) v) s (fun t => onlyPart s t p
      { s.part p with wgq := bits v 32 32, qbase := bits v 0 32 }) ∧
    Goes (.registerWrite 0 (0x70000 + 256 * p) v) s (fun t => onlyPart s t p
      { s.part p with cgtbase := keepBits v 14 43 ||| keepBits v 0 1 })) ∧
  (∀ (g : Nat) (v : BitVec 64) (s : State), g ≤ 1024 →
    Goes (.registerWrite 0 (0x20000 + 8 * g) v) s (fun t => onlyFunc s t g { s.func g with weight := max 1 (bits v 0 8) }) ∧
    Goes (.registerWrite 0 (0x30000 + 8 * g) v) s (fun t => onlyFuncFresh s t g
      { s.func g with vftroot := keepBits v 0 41 ||| keepBits v 43 21 })) ∧
  (∀ (v : BitVec 64) (s : State), Goes (.registerWrite 0 0x80000 v) s (fun t => CapOk t ∧
    t = { s with watts := min 2800 (max 1000 (bits v 0 12)) }) ∧ exec (.registerWrite 0 0x80008 v) s = .next s) ∧
  (∀ (f : Nat) (v : BitVec 64) (s : State), f ≤ 1024 →
    Goes (.registerWrite 0 (0x90000 + 8 * f) v) s (fun t => ∃ x, onlyFunc s t f x ∧
      x.jrn = (if (s.func f).jrnOn then keepBits (s.func f).jrn 7 50 else keepBits v 12 45 ||| keepBits v 7 5) ||| keepBits v 0 2 ∧
      x.jrnPos = (if v.getLsbD 0 = true ∧ (s.func f).jrnOn = false then 0 else (s.func f).jrnPos) ∧
      (v.getLsbD 1 = true → (s.func f).jrnReplays = false → ∀ k, k < 7 → get 0 x.jrnRead k = x.jrnOldest)) ∧
    (v.getLsbD 0 = true → exec (.journalEnable f v) s = exec (.registerWrite 0 (0x90000 + 8 * f) v) s) ∧
    (v.getLsbD 1 = true → exec (.journalReplay f v) s = exec (.registerWrite 0 (0x90000 + 8 * f) v) s) ∧
    (v.getLsbD 0 = true → (s.func f).jrnOn = false →
      Goes (.journalEnable f v) s (fun t => (t.func f).jrnOn = true ∧ (t.func f).jrnPos = 0)) ∧
    (v.getLsbD 1 = true → (s.func f).jrnReplays = false →
      Goes (.journalReplay f v) s (fun t => (t.func f).jrnReplays = true ∧ ∀ k, k < 7 → get 0 (t.func f).jrnRead k = (t.func f).jrnOldest)))

/-- 01 R11, R13; 09 R178; 11 R222; 13 R260; 18 R330-R332, R338-R340: links and the width of the host's; the end of a power window
moves the clock's step by the first rule that holds; a lockstep mismatch; the state that a reset leaves; the answers to
attestation requests; a host agent's reads and writes; a launch packet that fails a check is dropped and counted; one for a function
that does not exist, or with no Ethernet port enabled, does not arrive, which is the model's choice (log 121).
Rests on the model's own choice: DESIGN CHOICE, logs 3, 13, 43, 50, 121 and 2 (memory that a reset leaves unlisted reads as 0); PRESUMED, log
112; DEDUCED, logs 49 and 48 (who is resumed after a lockstep mismatch). -/
def Obligations.DeviceEvents : Prop :=
  (∀ (part port : Nat) (s : State), (s.part part).cxl.getLsbD port = true →
    Goes (.cxlLinkDown part port) s (fun t => ∀ j, j < 4 → t.cxlDown.getLsbD j = (s.cxlDown.getLsbD j || decide (j = port)))) ∧
  (∀ (w : Nat) (s : State), Goes (.linkTraining w) s (fun t => t = { s with narrow := decide (w < 8) })) ∧
  (∀ (watts temp : Nat) (s : State), s.windowEnd + usec 1000 ≤ s.wall → (∀ f, (s.func f).jrnOn = false) →
    watts < 2 ^ 12 → temp < 2 ^ 8 →
    Goes (.powerWindow watts temp) s (fun t => t.power = watts ∧ t.temp = temp ∧ t.windowEnd = s.windowEnd + usec 1000 ∧
      (105 ≤ temp → s.step = 8 → t.step = 8 ∧ t.hot = true) ∧
      (¬ (105 ≤ temp ∧ s.step = 8) → s.watts < watts ∨ 95 ≤ temp → t.step = if 8 < s.step then s.step - 1 else s.step) ∧
      (temp ≤ 90 → 100 * watts ≤ 95 * s.watts → t.hot = false ∧
        t.step = if 4 ≤ s.coolWindows + 1 ∧ s.step < 16 then s.step + 1 else s.step) ∧
      (¬ (temp ≤ 90 ∧ 100 * watts ≤ 95 * s.watts) → t.coolWindows = 0))) ∧
  (∀ (s : State), Goes .lockstepMismatch s (fun t => t.recov = s.recov + 1 ∧ t.mem = s.mem ∧
    ∀ p f, (s.part p).turn = some f → (t.part p).resume = some f)) ∧
  (∀ (s : State), Goes .deviceReset s (fun t => t.parts = [] ∧ t.funcs = [] ∧ t.launches = [] ∧ t.wgs = [] ∧
    t.decs = [] ∧ t.step = 16 ∧ t.now = 0 ∧ t.hot = false ∧ (∀ a, a < 16 * 2 ^ 64 → t.byteAt a = 0) ∧ t.flash = s.flash ∧
    let boots := s.flash.verifies && decide (s.flashVersion ≤ s.flash.version)
    t.recovery = !boots ∧
    (boots = true → t.booted = s.flash ∧ t.flashVersion = s.flash.version ∧
      (∀ c, t.core c = match s.flash.banks.reverse.find? (fun x => x.1 == c) with
        | some x => { noCore with banks := min 128 x.2 }
        | none => noCore) ∧
      ∀ j, j < 4 → t.cxlDown.getLsbD j = !s.flash.ports.getLsbD j) ∧
    (boots = false → t.booted = s.booted ∧ t.flashVersion = s.flashVersion ∧ t.cores = []))) ∧
  (∀ (i : Instr) (r : SpdmReply) (s : State), spdmReply s i = some r →
    Goes i s (fun t => t = { s with out := s.out ++ [.spdm r] })) ∧
  (∀ (f a : Nat) (req : HostAccess) (s : State), (match req with
      | .read n => s.hostPlaces f a n false = none
      | .write bs => s.hostPlaces f a bs.length true = none) →
    Goes (.hostAgentAccess f a req) s (fun t => t = { s with out := s.out ++ [.hostError] })) ∧
  (∀ (f a n : Nat) (ps : List (Page × Nat)) (s : State), s.hostPlaces f a n false = some ps →
    (∀ x ∈ placeLines ps, quiet s (s.func f).part f x) →
    Goes (.hostAgentAccess f a (.read n)) s (fun t =>
      untouched { s with out := s.out ++ [.hostData (ps.map (fun (pg, off) => s.readByte (s.func f).part pg off))] } t)) ∧
  (∀ (f a : Nat) (bs : List Byte) (ps : List (Page × Nat)) (s : State), s.hostPlaces f a bs.length true = some ps →
    let ws := (ps.zip bs).map (fun ((pg, off), b) => ByteWrite.mk pg off b)
    (∀ x ∈ ws, plainWrite s (s.func f).part f x) →
    Goes (.hostAgentAccess f a (.write bs)) s (fun t => ∀ k, t.byteAt k = written s ws k)) ∧
  (∀ (image : FlashImage) (s : State), Goes (.newFlashImage image) s (fun t =>
    (s.recovery = true → t = { s with flash := image }) ∧ (s.recovery = false → t = s))) ∧
  (∀ (f entry : Nat) (seq : BitVec 64) (dev : BitVec 32) (args : List Byte) (s : State), s.packetHeard f = false →
    exec (.launchPacket f entry seq dev args) s = .next s) ∧
  (∀ (f entry : Nat) (seq : BitVec 64) (dev : BitVec 32) (args : List Byte) (s : State), s.packetHeard f = true →
    s.maySubmit f = false ∨ (s.func f).tlt.getLsbD 5 = false ∨ 2 ^ min 12 (bits (s.func f).tlt 0 5) ≤ entry →
    Goes (.launchPacket f entry seq dev args) s (fun t => (t.func f).dropped = (s.func f).dropped + 1 ∧ t.launches = s.launches)) ∧
  (∀ (f entry : Nat) (seq : BitVec 64) (dev : BitVec 32) (args e : List Byte) (s u : State), s.packetHeard f = true → s.maySubmit f = true →
    (s.func f).tlt.getLsbD 5 = true → entry < 2 ^ min 12 (bits (s.func f).tlt 0 5) → s.launchFull f = false →
    (s.func f).jrnReplays = false → s.tenantEntry f entry = .ok u e →
    (packetOk e seq dev args.length = false →
      Goes (.launchPacket f entry seq dev args) s (fun t => (t.func f).dropped = (u.func f).dropped + 1 ∧ t.launches = u.launches)) ∧
    (packetOk e seq dev args.length = true →
      exec (.launchPacket f entry seq dev args) s = .next (u.acceptPacket f entry e seq args))) ∧
  (∀ (f entry : Nat) (seq : BitVec 64) (dev : BitVec 32) (args e rec_ : List Byte) (s u t1 t2 v : State) (x1 x2 : List Byte),
    s.packetHeard f = true → s.maySubmit f = true → (s.func f).tlt.getLsbD 5 = true →
    entry < 2 ^ min 12 (bits (s.func f).tlt 0 5) → s.launchFull f = false → (s.func f).jrnReplays = false →
    s.tenantEntry f entry = .ok u e → packetOk e seq dev args.length = true →
    let p := (u.func f).part
    u.fwWriteAll (u.fwRecord f 0 0) p f args (pieces (field e 8 8) args.length) 0 = .ok t1 x1 →
    t1.fwWrite (u.fwRecord f 0 0) p f (bits (t1.func f).tlt 6 51 * 64 + 64 * entry + 32) (bytesLE 8 seq.toNat) = .ok t2 x2 →
    let w := t2.modFunc f (fun x => { x with lastSeq := seq })
    w.fwRead (w.fwRecord f 0 0) p f (field e 0 8) 128 = .ok v rec_ →
    Goes (.launchPacket f entry seq dev args) s (fun t =>
      let lid := launchId p (v.part p).nextLaunch
      (t.launch lid).live = true ∧ (t.launch lid).func = f ∧ (t.launch lid).part = p ∧ (t.launch lid).record = rec_ ∧
      (t.launch lid).src = fieldW e 0 8 ∧ lid ∈ (t.part p).queue ∧ (t.func f).lastSeq = (v.func f).lastSeq))

/-- 03 R44, R46, R49, R54, R60: the words that 03, 06, 07, 08, 10, 12 and 17 write out field by field decode to the instructions
that they stand for; a word of all zeros and a word of all ones are none. -/
def Obligations.DecodesWords : Prop :=
  decode 0x1000002002010000 = some (.iadd noHdr .s32 (.v 4) (.v 1) (.v 2)) ∧
  decode 0x8640170208004020 = some (.pairWord 0 false { op := .iadd, guard := 0, d := 4, b := .v 8, ty := .s32 }
    { op := .fmul, guard := 0, d := 5, b := .imm 2, ty := .f32 }) ∧
  decode 0x2A00000805800100 = some (.icmp noHdr .s32 1 .lt (.v 2) (.imm 0)) ∧
  decode 0x0230514100000008 = some (.bra { noHdr with guard := 1 } .any 0x28 0x32 8) ∧
  decode 0x7100000006021400 = some (.mtadd noHdr false false 1 (.v 3) (.v 4)) ∧
  decode 0x6000004850008028 = some (.ld noHdr .g (.acq .dev) .w32 2 64 (.v 9)) ∧
  decode 0x7400082A04000000 = some (.walk noHdr false (.s 5) (.s 2)) ∧
  decode 0x7D00082000002043 = some (.dgrd noHdr 3 .laneA (.s 4)) ∧
  decode 0 = none ∧ decode (BitVec.allOnes 64) = none

/-- 03 R43-R55: encoding a well-formed word and decoding it gives it back, with every operand at every value that the encoding
admits. The steps of units have no word: `encode` gives 0 for them. -/
def Obligations.EncodeDecode : Prop := ∀ i : Instr, i.wf = true → isEvent i = false → decode (encode i) = some i

/-- 03 R43-R55, R61: a word decodes to one well-formed instruction word, whose encoding it is: no bit is dropped, and a word
with a bit set that its instruction does not use is no instruction. -/
def Obligations.DecodeEncode : Prop := ∀ (w : Word) (i : Instr), decode w = some i → i.wf = true ∧ encode i = w ∧ isEvent i = false

/-- 03 R64, R65; 23 R351; DESIGN CHOICE, log 1: a step runs the instruction that the fetched word decodes to, in the state after the turn's
hand-over: the word of eight bytes at the PC of the issuing warp's first entry. A word that parks on page-fault replay runs in the state
whose fetch has not been sampled. A turn of the agenda that is an event runs that event. -/
def Obligations.StepRuns : Prop :=
  (∀ (s u back t : State) (x : Word) (i : Instr), s.nextTurn = .fetched (.run u back x) → i = decodeWord x ∨ decode x = some i →
    exec i u = .next t → step s = if t.replays u.cur then exec i back else .next t) ∧
  (∀ (s : State) (core sched slot : Nat) (r : List Turn) (w : Warp) (e : Entry) (pg : Page) (i : Instr),
    s.agenda = { dt := 0, what := .issue core sched } :: r →
    let u := State.handOver { s with agenda := r } core sched
    u.issueSlot core sched = some slot →
    let v := { u with cur := .warp core slot }
    v.issuer = some (w, e) →
    let c := v.ctx w e (hdrOf (.illegal 0))
    e.pc.toNat % 8 = 0 → e.pc.toNat + 8 ≤ 2 ^ 57 → v.translateIn c.part c.func e.pc.toNat { fetch := true } = .ok pg →
    e.pc.toNat + 8 ≤ pg.va + pg.size →
    (∀ x ∈ placeLines ((List.range 8).map (fun k => (pg, e.pc.toNat + k - pg.va))), quiet v c.part c.func x) → (v.wg w.wg).softReg = false →
    decode (BitVec.ofNat 64 (numLE ((List.range 8).map (fun k => v.readByte c.part pg (e.pc.toNat + k - pg.va))))) = some i →
    ∃ v2 back, untouched v v2 ∧ untouched v back ∧
      ∀ t, exec i v2 = .next t → step s = if t.replays v.cur then exec i back else .next t) ∧
  (∀ (s : State) (i : Instr) (r : List Turn), s.agenda = { dt := 0, what := .event i } :: r → isEvent i = true →
    step s = exec i { s with agenda := r })

/-- 01 R11; 18 R331: every step keeps the clock at one of its nine steps, the power cap in its range, and memory in its
canonical form. -/
def Obligations.MachineInvariant : Prop :=
  ∀ s t : State, ClockOk s ∧ CapOk s ∧ MemoryOk s → step s = .next t → ClockOk t ∧ CapOk t ∧ MemoryOk t

/-- 01 R11; 14 R262; 15 R286, R288; 18 R331, R339: after reset the invariant holds, the clock runs at its top step, no partition
and no virtual function is enabled, and the registers of partitions and functions hold their reset values.
Rests on the model's own choice: DESIGN CHOICE, logs 3 and 89. -/
def Obligations.ResetState : Prop :=
  ClockOk State.reset ∧ CapOk State.reset ∧ MemoryOk State.reset ∧ State.reset.step = 16 ∧ State.reset.watts = 2800 ∧
  (∀ p, (State.reset.part p).en = false ∧ (State.reset.part p).heatk = 12 ∧ (State.reset.part p).timers.kill = 2000 ∧
    (State.reset.part p).timers.bardefer = 5 ∧ (State.reset.part p).timers.grace = 20 ∧ (State.reset.part p).wgq = 2500000 ∧
    (State.reset.part p).qbase = 1250000 ∧ (State.reset.part p).fqen = false) ∧
  (∀ f, (State.reset.func f).vfen = false ∧ (State.reset.func f).weight = 1 ∧ (State.reset.func f).cqen = false) ∧
  ∀ k j, (State.reset.warp k j).state = .retired

end Statements
end

