-- ==== Sys2Proof/Laws/Sparse.lean ====
section
/-! SUPPORT. Laws of sparse maps: a read after a write, and the canonical form that every write keeps. -/
namespace Sys2Proof.Machine

variable {α : Type}

theorem get_nil (d : α) (k : Nat) : get d [] k = d := rfl
theorem get_cons (d : α) (j k : Nat) (v : α) (r : Sparse α) : get d ((j, v) :: r) k = if j = k then v else get d r k := rfl

theorem get_erase_same (d : α) (m : Sparse α) (k : Nat) : get d (erase m k) k = d := by
  induction m with
  | nil => rfl
  | cons x r ih => obtain ⟨j, v⟩ := x; by_cases h : j = k <;> simp [erase, get, h, ih]

theorem get_erase_other (d : α) (m : Sparse α) (k l : Nat) (h : l ≠ k) : get d (erase m k) l = get d m l := by
  induction m with
  | nil => rfl
  | cons x r ih =>
    obtain ⟨j, v⟩ := x
    by_cases hj : j = k
    · subst hj; simp [erase, get, ih, Ne.symm h]
    · simp [erase, get, hj, ih]

theorem get_insertKey_other (d : α) (m : Sparse α) (k l : Nat) (v : α) (h : l ≠ k) :
    get d (insertKey m k v) l = get d m l := by
  induction m with
  | nil => simp [insertKey, get, Ne.symm h]
  | cons x r ih =>
    obtain ⟨j, w⟩ := x
    by_cases hj : k < j
    · simp [insertKey, get, hj, Ne.symm h]
    · simp [insertKey, get, hj, ih]

theorem get_insertKey_erase (d : α) (m : Sparse α) (k : Nat) (v : α) : get d (insertKey (erase m k) k v) k = v := by
  induction m with
  | nil => simp [erase, insertKey, get]
  | cons x r ih =>
    obtain ⟨j, w⟩ := x
    by_cases hj : j = k
    · simp [erase, hj, ih]
    · by_cases hk : k < j
      · simp [erase, hj, insertKey, get, hk]
      · simp [erase, hj, insertKey, get, hk, ih]

variable [DecidableEq α]

@[simp] theorem get_put_same (d : α) (m : Sparse α) (k : Nat) (v : α) : get d (put d m k v) k = v := by
  by_cases h : v = d
  · simp [put, h, get_erase_same]
  · simp [put, h, get_insertKey_erase]

theorem get_put_other (d : α) (m : Sparse α) (k l : Nat) (v : α) (h : l ≠ k) : get d (put d m k v) l = get d m l := by
  by_cases hv : v = d
  · simp [put, hv, get_erase_other d m k l h]
  · simp [put, hv, get_insertKey_other d _ k l v h, get_erase_other d m k l h]

/-- A read after a write: the value at the key written, the old value elsewhere. -/
theorem get_put (d : α) (m : Sparse α) (k l : Nat) (v : α) : get d (put d m k v) l = if l = k then v else get d m l := by
  by_cases h : l = k
  · subst h; simp
  · simp [h, get_put_other d m k l v h]

/-! ### The canonical form -/

/-- Every key of a map is above a bound. -/
def above (k : Nat) : Sparse α → Bool
  | [] => true
  | (j, _) :: r => decide (k < j) && above k r

omit [DecidableEq α] in
theorem above_mono (m : Sparse α) {j k : Nat} (h : j ≤ k) (hk : above k m = true) : above j m = true := by
  induction m with
  | nil => rfl
  | cons x r ih =>
    obtain ⟨i, v⟩ := x
    simp only [above, Bool.and_eq_true, decide_eq_true_eq] at hk ⊢
    exact ⟨by omega, ih hk.2⟩

theorem wf_cons (d : α) (j : Nat) (v : α) (r : Sparse α) :
    Sparse.wf d ((j, v) :: r) = true ↔ v ≠ d ∧ above j r = true ∧ Sparse.wf d r = true := by
  induction r generalizing j v with
  | nil => simp [Sparse.wf, above]
  | cons x r ih =>
    obtain ⟨k, w⟩ := x
    constructor
    · intro h
      simp only [Sparse.wf, Bool.and_eq_true, decide_eq_true_eq] at h
      have h2 := (ih k w).1 h.2
      exact ⟨h.1.1, by simp only [above, Bool.and_eq_true, decide_eq_true_eq]; exact ⟨h.1.2, above_mono r (by omega) h2.2.1⟩, h.2⟩
    · intro ⟨h1, h2, h3⟩
      simp only [above, Bool.and_eq_true, decide_eq_true_eq] at h2
      simp only [Sparse.wf, Bool.and_eq_true, decide_eq_true_eq]
      exact ⟨⟨h1, h2.1⟩, h3⟩

omit [DecidableEq α] in
theorem above_erase (m : Sparse α) (j k : Nat) (h : above j m = true) : above j (erase m k) = true := by
  induction m with
  | nil => rfl
  | cons x r ih =>
    obtain ⟨i, v⟩ := x
    simp only [above, Bool.and_eq_true, decide_eq_true_eq] at h
    by_cases hi : i = k
    · simp [erase, hi, ih h.2]
    · simp [erase, hi, above, h.1, ih h.2]

omit [DecidableEq α] in
theorem above_insertKey (m : Sparse α) (j k : Nat) (v : α) (h : above j m = true) (hk : j < k) :
    above j (insertKey m k v) = true := by
  induction m with
  | nil => simp [insertKey, above, hk]
  | cons x r ih =>
    obtain ⟨i, w⟩ := x
    have h' := h
    simp only [above, Bool.and_eq_true, decide_eq_true_eq] at h
    by_cases hi : k < i
    · simp [insertKey, hi, above, h.1, h.2, hk]
    · simp [insertKey, hi, above, h.1, ih h.2]

theorem wf_erase (d : α) (m : Sparse α) (k : Nat) (h : Sparse.wf d m = true) : Sparse.wf d (erase m k) = true := by
  induction m with
  | nil => rfl
  | cons x r ih =>
    obtain ⟨i, v⟩ := x
    rw [wf_cons] at h
    by_cases hi : i = k
    · simp [erase, hi, ih h.2.2]
    · simp only [erase, hi, if_false]
      rw [wf_cons]
      exact ⟨h.1, above_erase r i k h.2.1, ih h.2.2⟩

/-- No entry of a map has a key. -/
def lacks (k : Nat) : Sparse α → Bool
  | [] => true
  | (j, _) :: r => decide (j ≠ k) && lacks k r

omit [DecidableEq α] in
theorem lacks_erase (m : Sparse α) (k : Nat) : lacks k (erase m k) = true := by
  induction m with
  | nil => rfl
  | cons x r ih =>
    obtain ⟨i, v⟩ := x
    by_cases hi : i = k
    · simp [erase, hi, ih]
    · simp [erase, hi, lacks, ih]

theorem wf_insertKey (d : α) (m : Sparse α) (k : Nat) (v : α) (h : Sparse.wf d m = true) (hl : lacks k m = true) (hv : v ≠ d) :
    Sparse.wf d (insertKey m k v) = true := by
  induction m with
  | nil => simp [insertKey, Sparse.wf, hv]
  | cons x r ih =>
    obtain ⟨i, w⟩ := x
    have hw := h
    rw [wf_cons] at h
    simp only [lacks, Bool.and_eq_true, decide_eq_true_eq] at hl
    by_cases hi : k < i
    · simp only [insertKey, hi, if_true]
      rw [wf_cons]
      refine ⟨hv, ?_, hw⟩
      simp only [above, Bool.and_eq_true, decide_eq_true_eq]
      exact ⟨hi, above_mono r (by omega) h.2.1⟩
    · simp only [insertKey, hi, if_false]
      rw [wf_cons]
      exact ⟨h.1, above_insertKey r i k v h.2.1 (by omega), ih h.2.2 hl.2⟩

/-- Every write keeps the canonical form. -/
theorem wf_put (d : α) (m : Sparse α) (k : Nat) (v : α) (h : Sparse.wf d m = true) : Sparse.wf d (put d m k v) = true := by
  by_cases hv : v = d
  · simp [put, hv, wf_erase d m k h]
  · simp only [put, hv, if_false]
    exact wf_insertKey d _ k v (wf_erase d m k h) (lacks_erase m k) hv

theorem wf_foldl_put {β : Type} (d : α) (key : β → Nat) (val : Sparse α → β → α) (xs : List β) (m : Sparse α)
    (h : Sparse.wf d m = true) : Sparse.wf d (xs.foldl (fun m x => put d m (key x) (val m x)) m) = true := by
  induction xs generalizing m with
  | nil => exact h
  | cons x xs ih => exact ih _ (wf_put d m _ _ h)

theorem wf_foldl_erase {β : Type} (d : α) (key : β → Nat) (xs : List β) (m : Sparse α) (h : Sparse.wf d m = true) :
    Sparse.wf d (xs.foldl (fun m x => erase m (key x)) m) = true := by
  induction xs generalizing m with
  | nil => exact h
  | cons x xs ih => exact ih _ (wf_erase d m _ h)

end Sys2Proof.Machine
end

