-- ==== Sys2Proof/Laws/State.lean ====
section
/-! SUPPORT. Field lemmas of the state's updates: what each table write leaves, and what it reads back. -/
namespace Sys2Proof.Machine

/-! ### setCore -/

@[simp] theorem setCore_cores (s : State) (c : Nat) (x : Core) : (s.setCore c x).cores = put noCore s.cores c x := rfl
@[simp] theorem setCore_now (s : State) (c : Nat) (x : Core) : (s.setCore c x).now = s.now := rfl
@[simp] theorem setCore_wall (s : State) (c : Nat) (x : Core) : (s.setCore c x).wall = s.wall := rfl
@[simp] theorem setCore_step (s : State) (c : Nat) (x : Core) : (s.setCore c x).step = s.step := rfl
@[simp] theorem setCore_watts (s : State) (c : Nat) (x : Core) : (s.setCore c x).watts = s.watts := rfl
@[simp] theorem setCore_power (s : State) (c : Nat) (x : Core) : (s.setCore c x).power = s.power := rfl
@[simp] theorem setCore_temp (s : State) (c : Nat) (x : Core) : (s.setCore c x).temp = s.temp := rfl
@[simp] theorem setCore_coolWindows (s : State) (c : Nat) (x : Core) : (s.setCore c x).coolWindows = s.coolWindows := rfl
@[simp] theorem setCore_windowEnd (s : State) (c : Nat) (x : Core) : (s.setCore c x).windowEnd = s.windowEnd := rfl
@[simp] theorem setCore_hot (s : State) (c : Nat) (x : Core) : (s.setCore c x).hot = s.hot := rfl
@[simp] theorem setCore_narrow (s : State) (c : Nat) (x : Core) : (s.setCore c x).narrow = s.narrow := rfl
@[simp] theorem setCore_recov (s : State) (c : Nat) (x : Core) : (s.setCore c x).recov = s.recov := rfl
@[simp] theorem setCore_recovery (s : State) (c : Nat) (x : Core) : (s.setCore c x).recovery = s.recovery := rfl
@[simp] theorem setCore_flash (s : State) (c : Nat) (x : Core) : (s.setCore c x).flash = s.flash := rfl
@[simp] theorem setCore_booted (s : State) (c : Nat) (x : Core) : (s.setCore c x).booted = s.booted := rfl
@[simp] theorem setCore_flashVersion (s : State) (c : Nat) (x : Core) : (s.setCore c x).flashVersion = s.flashVersion := rfl
@[simp] theorem setCore_parts (s : State) (c : Nat) (x : Core) : (s.setCore c x).parts = s.parts := rfl
@[simp] theorem setCore_funcs (s : State) (c : Nat) (x : Core) : (s.setCore c x).funcs = s.funcs := rfl
@[simp] theorem setCore_launches (s : State) (c : Nat) (x : Core) : (s.setCore c x).launches = s.launches := rfl
@[simp] theorem setCore_wgs (s : State) (c : Nat) (x : Core) : (s.setCore c x).wgs = s.wgs := rfl
@[simp] theorem setCore_mem (s : State) (c : Nat) (x : Core) : (s.setCore c x).mem = s.mem := rfl
@[simp] theorem setCore_hdrs (s : State) (c : Nat) (x : Core) : (s.setCore c x).hdrs = s.hdrs := rfl
@[simp] theorem setCore_poison (s : State) (c : Nat) (x : Core) : (s.setCore c x).poison = s.poison := rfl
@[simp] theorem setCore_badMem (s : State) (c : Nat) (x : Core) : (s.setCore c x).badMem = s.badMem := rfl
@[simp] theorem setCore_softMem (s : State) (c : Nat) (x : Core) : (s.setCore c x).softMem = s.softMem := rfl
@[simp] theorem setCore_kvLines (s : State) (c : Nat) (x : Core) : (s.setCore c x).kvLines = s.kvLines := rfl
@[simp] theorem setCore_heat (s : State) (c : Nat) (x : Core) : (s.setCore c x).heat = s.heat := rfl
@[simp] theorem setCore_samples (s : State) (c : Nat) (x : Core) : (s.setCore c x).samples = s.samples := rfl
@[simp] theorem setCore_tlb (s : State) (c : Nat) (x : Core) : (s.setCore c x).tlb = s.tlb := rfl
@[simp] theorem setCore_atsRefused (s : State) (c : Nat) (x : Core) : (s.setCore c x).atsRefused = s.atsRefused := rfl
@[simp] theorem setCore_cxlDown (s : State) (c : Nat) (x : Core) : (s.setCore c x).cxlDown = s.cxlDown := rfl
@[simp] theorem setCore_fabric (s : State) (c : Nat) (x : Core) : (s.setCore c x).fabric = s.fabric := rfl
@[simp] theorem setCore_decs (s : State) (c : Nat) (x : Core) : (s.setCore c x).decs = s.decs := rfl
@[simp] theorem setCore_nextCmd (s : State) (c : Nat) (x : Core) : (s.setCore c x).nextCmd = s.nextCmd := rfl
@[simp] theorem setCore_out (s : State) (c : Nat) (x : Core) : (s.setCore c x).out = s.out := rfl
@[simp] theorem setCore_agenda (s : State) (c : Nat) (x : Core) : (s.setCore c x).agenda = s.agenda := rfl
@[simp] theorem setCore_cur (s : State) (c : Nat) (x : Core) : (s.setCore c x).cur = s.cur := rfl
@[simp] theorem setCore_freeCtr (s : State) (c : Nat) (x : Core) : (s.setCore c x).freeCtr = s.freeCtr := rfl

/-! ### setWg -/

@[simp] theorem setWg_wgs (s : State) (k : Nat) (x : Workgroup) : (s.setWg k x).wgs = put noWg s.wgs k x := rfl
@[simp] theorem setWg_now (s : State) (k : Nat) (x : Workgroup) : (s.setWg k x).now = s.now := rfl
@[simp] theorem setWg_wall (s : State) (k : Nat) (x : Workgroup) : (s.setWg k x).wall = s.wall := rfl
@[simp] theorem setWg_step (s : State) (k : Nat) (x : Workgroup) : (s.setWg k x).step = s.step := rfl
@[simp] theorem setWg_watts (s : State) (k : Nat) (x : Workgroup) : (s.setWg k x).watts = s.watts := rfl
@[simp] theorem setWg_power (s : State) (k : Nat) (x : Workgroup) : (s.setWg k x).power = s.power := rfl
@[simp] theorem setWg_temp (s : State) (k : Nat) (x : Workgroup) : (s.setWg k x).temp = s.temp := rfl
@[simp] theorem setWg_coolWindows (s : State) (k : Nat) (x : Workgroup) : (s.setWg k x).coolWindows = s.coolWindows := rfl
@[simp] theorem setWg_windowEnd (s : State) (k : Nat) (x : Workgroup) : (s.setWg k x).windowEnd = s.windowEnd := rfl
@[simp] theorem setWg_hot (s : State) (k : Nat) (x : Workgroup) : (s.setWg k x).hot = s.hot := rfl
@[simp] theorem setWg_narrow (s : State) (k : Nat) (x : Workgroup) : (s.setWg k x).narrow = s.narrow := rfl
@[simp] theorem setWg_recov (s : State) (k : Nat) (x : Workgroup) : (s.setWg k x).recov = s.recov := rfl
@[simp] theorem setWg_recovery (s : State) (k : Nat) (x : Workgroup) : (s.setWg k x).recovery = s.recovery := rfl
@[simp] theorem setWg_flash (s : State) (k : Nat) (x : Workgroup) : (s.setWg k x).flash = s.flash := rfl
@[simp] theorem setWg_booted (s : State) (k : Nat) (x : Workgroup) : (s.setWg k x).booted = s.booted := rfl
@[simp] theorem setWg_flashVersion (s : State) (k : Nat) (x : Workgroup) : (s.setWg k x).flashVersion = s.flashVersion := rfl
@[simp] theorem setWg_cores (s : State) (k : Nat) (x : Workgroup) : (s.setWg k x).cores = s.cores := rfl
@[simp] theorem setWg_parts (s : State) (k : Nat) (x : Workgroup) : (s.setWg k x).parts = s.parts := rfl
@[simp] theorem setWg_funcs (s : State) (k : Nat) (x : Workgroup) : (s.setWg k x).funcs = s.funcs := rfl
@[simp] theorem setWg_launches (s : State) (k : Nat) (x : Workgroup) : (s.setWg k x).launches = s.launches := rfl
@[simp] theorem setWg_mem (s : State) (k : Nat) (x : Workgroup) : (s.setWg k x).mem = s.mem := rfl
@[simp] theorem setWg_hdrs (s : State) (k : Nat) (x : Workgroup) : (s.setWg k x).hdrs = s.hdrs := rfl
@[simp] theorem setWg_poison (s : State) (k : Nat) (x : Workgroup) : (s.setWg k x).poison = s.poison := rfl
@[simp] theorem setWg_badMem (s : State) (k : Nat) (x : Workgroup) : (s.setWg k x).badMem = s.badMem := rfl
@[simp] theorem setWg_softMem (s : State) (k : Nat) (x : Workgroup) : (s.setWg k x).softMem = s.softMem := rfl
@[simp] theorem setWg_kvLines (s : State) (k : Nat) (x : Workgroup) : (s.setWg k x).kvLines = s.kvLines := rfl
@[simp] theorem setWg_heat (s : State) (k : Nat) (x : Workgroup) : (s.setWg k x).heat = s.heat := rfl
@[simp] theorem setWg_samples (s : State) (k : Nat) (x : Workgroup) : (s.setWg k x).samples = s.samples := rfl
@[simp] theorem setWg_tlb (s : State) (k : Nat) (x : Workgroup) : (s.setWg k x).tlb = s.tlb := rfl
@[simp] theorem setWg_atsRefused (s : State) (k : Nat) (x : Workgroup) : (s.setWg k x).atsRefused = s.atsRefused := rfl
@[simp] theorem setWg_cxlDown (s : State) (k : Nat) (x : Workgroup) : (s.setWg k x).cxlDown = s.cxlDown := rfl
@[simp] theorem setWg_fabric (s : State) (k : Nat) (x : Workgroup) : (s.setWg k x).fabric = s.fabric := rfl
@[simp] theorem setWg_decs (s : State) (k : Nat) (x : Workgroup) : (s.setWg k x).decs = s.decs := rfl
@[simp] theorem setWg_nextCmd (s : State) (k : Nat) (x : Workgroup) : (s.setWg k x).nextCmd = s.nextCmd := rfl
@[simp] theorem setWg_out (s : State) (k : Nat) (x : Workgroup) : (s.setWg k x).out = s.out := rfl
@[simp] theorem setWg_agenda (s : State) (k : Nat) (x : Workgroup) : (s.setWg k x).agenda = s.agenda := rfl
@[simp] theorem setWg_cur (s : State) (k : Nat) (x : Workgroup) : (s.setWg k x).cur = s.cur := rfl
@[simp] theorem setWg_freeCtr (s : State) (k : Nat) (x : Workgroup) : (s.setWg k x).freeCtr = s.freeCtr := rfl

/-! ### setLaunch -/

@[simp] theorem setLaunch_launches (s : State) (k : Nat) (x : Launch) : (s.setLaunch k x).launches = put noLaunch s.launches k x := rfl
@[simp] theorem setLaunch_now (s : State) (k : Nat) (x : Launch) : (s.setLaunch k x).now = s.now := rfl
@[simp] theorem setLaunch_wall (s : State) (k : Nat) (x : Launch) : (s.setLaunch k x).wall = s.wall := rfl
@[simp] theorem setLaunch_step (s : State) (k : Nat) (x : Launch) : (s.setLaunch k x).step = s.step := rfl
@[simp] theorem setLaunch_watts (s : State) (k : Nat) (x : Launch) : (s.setLaunch k x).watts = s.watts := rfl
@[simp] theorem setLaunch_power (s : State) (k : Nat) (x : Launch) : (s.setLaunch k x).power = s.power := rfl
@[simp] theorem setLaunch_temp (s : State) (k : Nat) (x : Launch) : (s.setLaunch k x).temp = s.temp := rfl
@[simp] theorem setLaunch_coolWindows (s : State) (k : Nat) (x : Launch) : (s.setLaunch k x).coolWindows = s.coolWindows := rfl
@[simp] theorem setLaunch_windowEnd (s : State) (k : Nat) (x : Launch) : (s.setLaunch k x).windowEnd = s.windowEnd := rfl
@[simp] theorem setLaunch_hot (s : State) (k : Nat) (x : Launch) : (s.setLaunch k x).hot = s.hot := rfl
@[simp] theorem setLaunch_narrow (s : State) (k : Nat) (x : Launch) : (s.setLaunch k x).narrow = s.narrow := rfl
@[simp] theorem setLaunch_recov (s : State) (k : Nat) (x : Launch) : (s.setLaunch k x).recov = s.recov := rfl
@[simp] theorem setLaunch_recovery (s : State) (k : Nat) (x : Launch) : (s.setLaunch k x).recovery = s.recovery := rfl
@[simp] theorem setLaunch_flash (s : State) (k : Nat) (x : Launch) : (s.setLaunch k x).flash = s.flash := rfl
@[simp] theorem setLaunch_booted (s : State) (k : Nat) (x : Launch) : (s.setLaunch k x).booted = s.booted := rfl
@[simp] theorem setLaunch_flashVersion (s : State) (k : Nat) (x : Launch) : (s.setLaunch k x).flashVersion = s.flashVersion := rfl
@[simp] theorem setLaunch_cores (s : State) (k : Nat) (x : Launch) : (s.setLaunch k x).cores = s.cores := rfl
@[simp] theorem setLaunch_parts (s : State) (k : Nat) (x : Launch) : (s.setLaunch k x).parts = s.parts := rfl
@[simp] theorem setLaunch_funcs (s : State) (k : Nat) (x : Launch) : (s.setLaunch k x).funcs = s.funcs := rfl
@[simp] theorem setLaunch_wgs (s : State) (k : Nat) (x : Launch) : (s.setLaunch k x).wgs = s.wgs := rfl
@[simp] theorem setLaunch_mem (s : State) (k : Nat) (x : Launch) : (s.setLaunch k x).mem = s.mem := rfl
@[simp] theorem setLaunch_hdrs (s : State) (k : Nat) (x : Launch) : (s.setLaunch k x).hdrs = s.hdrs := rfl
@[simp] theorem setLaunch_poison (s : State) (k : Nat) (x : Launch) : (s.setLaunch k x).poison = s.poison := rfl
@[simp] theorem setLaunch_badMem (s : State) (k : Nat) (x : Launch) : (s.setLaunch k x).badMem = s.badMem := rfl
@[simp] theorem setLaunch_softMem (s : State) (k : Nat) (x : Launch) : (s.setLaunch k x).softMem = s.softMem := rfl
@[simp] theorem setLaunch_kvLines (s : State) (k : Nat) (x : Launch) : (s.setLaunch k x).kvLines = s.kvLines := rfl
@[simp] theorem setLaunch_heat (s : State) (k : Nat) (x : Launch) : (s.setLaunch k x).heat = s.heat := rfl
@[simp] theorem setLaunch_samples (s : State) (k : Nat) (x : Launch) : (s.setLaunch k x).samples = s.samples := rfl
@[simp] theorem setLaunch_tlb (s : State) (k : Nat) (x : Launch) : (s.setLaunch k x).tlb = s.tlb := rfl
@[simp] theorem setLaunch_atsRefused (s : State) (k : Nat) (x : Launch) : (s.setLaunch k x).atsRefused = s.atsRefused := rfl
@[simp] theorem setLaunch_cxlDown (s : State) (k : Nat) (x : Launch) : (s.setLaunch k x).cxlDown = s.cxlDown := rfl
@[simp] theorem setLaunch_fabric (s : State) (k : Nat) (x : Launch) : (s.setLaunch k x).fabric = s.fabric := rfl
@[simp] theorem setLaunch_decs (s : State) (k : Nat) (x : Launch) : (s.setLaunch k x).decs = s.decs := rfl
@[simp] theorem setLaunch_nextCmd (s : State) (k : Nat) (x : Launch) : (s.setLaunch k x).nextCmd = s.nextCmd := rfl
@[simp] theorem setLaunch_out (s : State) (k : Nat) (x : Launch) : (s.setLaunch k x).out = s.out := rfl
@[simp] theorem setLaunch_agenda (s : State) (k : Nat) (x : Launch) : (s.setLaunch k x).agenda = s.agenda := rfl
@[simp] theorem setLaunch_cur (s : State) (k : Nat) (x : Launch) : (s.setLaunch k x).cur = s.cur := rfl
@[simp] theorem setLaunch_freeCtr (s : State) (k : Nat) (x : Launch) : (s.setLaunch k x).freeCtr = s.freeCtr := rfl

/-! ### setPart -/

@[simp] theorem setPart_parts (s : State) (p : Nat) (x : Partition) : (s.setPart p x).parts = put noPart s.parts p x := rfl
@[simp] theorem setPart_now (s : State) (p : Nat) (x : Partition) : (s.setPart p x).now = s.now := rfl
@[simp] theorem setPart_wall (s : State) (p : Nat) (x : Partition) : (s.setPart p x).wall = s.wall := rfl
@[simp] theorem setPart_step (s : State) (p : Nat) (x : Partition) : (s.setPart p x).step = s.step := rfl
@[simp] theorem setPart_watts (s : State) (p : Nat) (x : Partition) : (s.setPart p x).watts = s.watts := rfl
@[simp] theorem setPart_power (s : State) (p : Nat) (x : Partition) : (s.setPart p x).power = s.power := rfl
@[simp] theorem setPart_temp (s : State) (p : Nat) (x : Partition) : (s.setPart p x).temp = s.temp := rfl
@[simp] theorem setPart_coolWindows (s : State) (p : Nat) (x : Partition) : (s.setPart p x).coolWindows = s.coolWindows := rfl
@[simp] theorem setPart_windowEnd (s : State) (p : Nat) (x : Partition) : (s.setPart p x).windowEnd = s.windowEnd := rfl
@[simp] theorem setPart_hot (s : State) (p : Nat) (x : Partition) : (s.setPart p x).hot = s.hot := rfl
@[simp] theorem setPart_narrow (s : State) (p : Nat) (x : Partition) : (s.setPart p x).narrow = s.narrow := rfl
@[simp] theorem setPart_recov (s : State) (p : Nat) (x : Partition) : (s.setPart p x).recov = s.recov := rfl
@[simp] theorem setPart_recovery (s : State) (p : Nat) (x : Partition) : (s.setPart p x).recovery = s.recovery := rfl
@[simp] theorem setPart_flash (s : State) (p : Nat) (x : Partition) : (s.setPart p x).flash = s.flash := rfl
@[simp] theorem setPart_booted (s : State) (p : Nat) (x : Partition) : (s.setPart p x).booted = s.booted := rfl
@[simp] theorem setPart_flashVersion (s : State) (p : Nat) (x : Partition) : (s.setPart p x).flashVersion = s.flashVersion := rfl
@[simp] theorem setPart_cores (s : State) (p : Nat) (x : Partition) : (s.setPart p x).cores = s.cores := rfl
@[simp] theorem setPart_funcs (s : State) (p : Nat) (x : Partition) : (s.setPart p x).funcs = s.funcs := rfl
@[simp] theorem setPart_launches (s : State) (p : Nat) (x : Partition) : (s.setPart p x).launches = s.launches := rfl
@[simp] theorem setPart_wgs (s : State) (p : Nat) (x : Partition) : (s.setPart p x).wgs = s.wgs := rfl
@[simp] theorem setPart_mem (s : State) (p : Nat) (x : Partition) : (s.setPart p x).mem = s.mem := rfl
@[simp] theorem setPart_hdrs (s : State) (p : Nat) (x : Partition) : (s.setPart p x).hdrs = s.hdrs := rfl
@[simp] theorem setPart_poison (s : State) (p : Nat) (x : Partition) : (s.setPart p x).poison = s.poison := rfl
@[simp] theorem setPart_badMem (s : State) (p : Nat) (x : Partition) : (s.setPart p x).badMem = s.badMem := rfl
@[simp] theorem setPart_softMem (s : State) (p : Nat) (x : Partition) : (s.setPart p x).softMem = s.softMem := rfl
@[simp] theorem setPart_kvLines (s : State) (p : Nat) (x : Partition) : (s.setPart p x).kvLines = s.kvLines := rfl
@[simp] theorem setPart_heat (s : State) (p : Nat) (x : Partition) : (s.setPart p x).heat = s.heat := rfl
@[simp] theorem setPart_samples (s : State) (p : Nat) (x : Partition) : (s.setPart p x).samples = s.samples := rfl
@[simp] theorem setPart_tlb (s : State) (p : Nat) (x : Partition) : (s.setPart p x).tlb = s.tlb := rfl
@[simp] theorem setPart_atsRefused (s : State) (p : Nat) (x : Partition) : (s.setPart p x).atsRefused = s.atsRefused := rfl
@[simp] theorem setPart_cxlDown (s : State) (p : Nat) (x : Partition) : (s.setPart p x).cxlDown = s.cxlDown := rfl
@[simp] theorem setPart_fabric (s : State) (p : Nat) (x : Partition) : (s.setPart p x).fabric = s.fabric := rfl
@[simp] theorem setPart_decs (s : State) (p : Nat) (x : Partition) : (s.setPart p x).decs = s.decs := rfl
@[simp] theorem setPart_nextCmd (s : State) (p : Nat) (x : Partition) : (s.setPart p x).nextCmd = s.nextCmd := rfl
@[simp] theorem setPart_out (s : State) (p : Nat) (x : Partition) : (s.setPart p x).out = s.out := rfl
@[simp] theorem setPart_agenda (s : State) (p : Nat) (x : Partition) : (s.setPart p x).agenda = s.agenda := rfl
@[simp] theorem setPart_cur (s : State) (p : Nat) (x : Partition) : (s.setPart p x).cur = s.cur := rfl
@[simp] theorem setPart_freeCtr (s : State) (p : Nat) (x : Partition) : (s.setPart p x).freeCtr = s.freeCtr := rfl

/-! ### setFunc -/

@[simp] theorem setFunc_funcs (s : State) (f : Nat) (x : Func) : (s.setFunc f x).funcs = put noFunc s.funcs f x := rfl
@[simp] theorem setFunc_now (s : State) (f : Nat) (x : Func) : (s.setFunc f x).now = s.now := rfl
@[simp] theorem setFunc_wall (s : State) (f : Nat) (x : Func) : (s.setFunc f x).wall = s.wall := rfl
@[simp] theorem setFunc_step (s : State) (f : Nat) (x : Func) : (s.setFunc f x).step = s.step := rfl
@[simp] theorem setFunc_watts (s : State) (f : Nat) (x : Func) : (s.setFunc f x).watts = s.watts := rfl
@[simp] theorem setFunc_power (s : State) (f : Nat) (x : Func) : (s.setFunc f x).power = s.power := rfl
@[simp] theorem setFunc_temp (s : State) (f : Nat) (x : Func) : (s.setFunc f x).temp = s.temp := rfl
@[simp] theorem setFunc_coolWindows (s : State) (f : Nat) (x : Func) : (s.setFunc f x).coolWindows = s.coolWindows := rfl
@[simp] theorem setFunc_windowEnd (s : State) (f : Nat) (x : Func) : (s.setFunc f x).windowEnd = s.windowEnd := rfl
@[simp] theorem setFunc_hot (s : State) (f : Nat) (x : Func) : (s.setFunc f x).hot = s.hot := rfl
@[simp] theorem setFunc_narrow (s : State) (f : Nat) (x : Func) : (s.setFunc f x).narrow = s.narrow := rfl
@[simp] theorem setFunc_recov (s : State) (f : Nat) (x : Func) : (s.setFunc f x).recov = s.recov := rfl
@[simp] theorem setFunc_recovery (s : State) (f : Nat) (x : Func) : (s.setFunc f x).recovery = s.recovery := rfl
@[simp] theorem setFunc_flash (s : State) (f : Nat) (x : Func) : (s.setFunc f x).flash = s.flash := rfl
@[simp] theorem setFunc_booted (s : State) (f : Nat) (x : Func) : (s.setFunc f x).booted = s.booted := rfl
@[simp] theorem setFunc_flashVersion (s : State) (f : Nat) (x : Func) : (s.setFunc f x).flashVersion = s.flashVersion := rfl
@[simp] theorem setFunc_cores (s : State) (f : Nat) (x : Func) : (s.setFunc f x).cores = s.cores := rfl
@[simp] theorem setFunc_parts (s : State) (f : Nat) (x : Func) : (s.setFunc f x).parts = s.parts := rfl
@[simp] theorem setFunc_launches (s : State) (f : Nat) (x : Func) : (s.setFunc f x).launches = s.launches := rfl
@[simp] theorem setFunc_wgs (s : State) (f : Nat) (x : Func) : (s.setFunc f x).wgs = s.wgs := rfl
@[simp] theorem setFunc_mem (s : State) (f : Nat) (x : Func) : (s.setFunc f x).mem = s.mem := rfl
@[simp] theorem setFunc_hdrs (s : State) (f : Nat) (x : Func) : (s.setFunc f x).hdrs = s.hdrs := rfl
@[simp] theorem setFunc_poison (s : State) (f : Nat) (x : Func) : (s.setFunc f x).poison = s.poison := rfl
@[simp] theorem setFunc_badMem (s : State) (f : Nat) (x : Func) : (s.setFunc f x).badMem = s.badMem := rfl
@[simp] theorem setFunc_softMem (s : State) (f : Nat) (x : Func) : (s.setFunc f x).softMem = s.softMem := rfl
@[simp] theorem setFunc_kvLines (s : State) (f : Nat) (x : Func) : (s.setFunc f x).kvLines = s.kvLines := rfl
@[simp] theorem setFunc_heat (s : State) (f : Nat) (x : Func) : (s.setFunc f x).heat = s.heat := rfl
@[simp] theorem setFunc_samples (s : State) (f : Nat) (x : Func) : (s.setFunc f x).samples = s.samples := rfl
@[simp] theorem setFunc_tlb (s : State) (f : Nat) (x : Func) : (s.setFunc f x).tlb = s.tlb := rfl
@[simp] theorem setFunc_atsRefused (s : State) (f : Nat) (x : Func) : (s.setFunc f x).atsRefused = s.atsRefused := rfl
@[simp] theorem setFunc_cxlDown (s : State) (f : Nat) (x : Func) : (s.setFunc f x).cxlDown = s.cxlDown := rfl
@[simp] theorem setFunc_fabric (s : State) (f : Nat) (x : Func) : (s.setFunc f x).fabric = s.fabric := rfl
@[simp] theorem setFunc_decs (s : State) (f : Nat) (x : Func) : (s.setFunc f x).decs = s.decs := rfl
@[simp] theorem setFunc_nextCmd (s : State) (f : Nat) (x : Func) : (s.setFunc f x).nextCmd = s.nextCmd := rfl
@[simp] theorem setFunc_out (s : State) (f : Nat) (x : Func) : (s.setFunc f x).out = s.out := rfl
@[simp] theorem setFunc_agenda (s : State) (f : Nat) (x : Func) : (s.setFunc f x).agenda = s.agenda := rfl
@[simp] theorem setFunc_cur (s : State) (f : Nat) (x : Func) : (s.setFunc f x).cur = s.cur := rfl
@[simp] theorem setFunc_freeCtr (s : State) (f : Nat) (x : Func) : (s.setFunc f x).freeCtr = s.freeCtr := rfl

/-! ### Reading a table after a write -/

theorem setCore_core (s : State) (k j : Nat) (x : Core) : (s.setCore k x).core j = if j = k then x else s.core j := get_put _ _ _ _ _
@[simp] theorem setCore_core_same (s : State) (k : Nat) (x : Core) : (s.setCore k x).core k = x := get_put_same _ _ _ _
@[simp] theorem setWg_core (s : State) (k j : Nat) (x : Workgroup) : (s.setWg k x).core j = s.core j := rfl
@[simp] theorem setLaunch_core (s : State) (k j : Nat) (x : Launch) : (s.setLaunch k x).core j = s.core j := rfl
@[simp] theorem setPart_core (s : State) (k j : Nat) (x : Partition) : (s.setPart k x).core j = s.core j := rfl
@[simp] theorem setFunc_core (s : State) (k j : Nat) (x : Func) : (s.setFunc k x).core j = s.core j := rfl
@[simp] theorem setCore_wg (s : State) (k j : Nat) (x : Core) : (s.setCore k x).wg j = s.wg j := rfl
theorem setWg_wg (s : State) (k j : Nat) (x : Workgroup) : (s.setWg k x).wg j = if j = k then x else s.wg j := get_put _ _ _ _ _
@[simp] theorem setWg_wg_same (s : State) (k : Nat) (x : Workgroup) : (s.setWg k x).wg k = x := get_put_same _ _ _ _
@[simp] theorem setLaunch_wg (s : State) (k j : Nat) (x : Launch) : (s.setLaunch k x).wg j = s.wg j := rfl
@[simp] theorem setPart_wg (s : State) (k j : Nat) (x : Partition) : (s.setPart k x).wg j = s.wg j := rfl
@[simp] theorem setFunc_wg (s : State) (k j : Nat) (x : Func) : (s.setFunc k x).wg j = s.wg j := rfl
@[simp] theorem setCore_launch (s : State) (k j : Nat) (x : Core) : (s.setCore k x).launch j = s.launch j := rfl
@[simp] theorem setWg_launch (s : State) (k j : Nat) (x : Workgroup) : (s.setWg k x).launch j = s.launch j := rfl
theorem setLaunch_launch (s : State) (k j : Nat) (x : Launch) : (s.setLaunch k x).launch j = if j = k then x else s.launch j := get_put _ _ _ _ _
@[simp] theorem setLaunch_launch_same (s : State) (k : Nat) (x : Launch) : (s.setLaunch k x).launch k = x := get_put_same _ _ _ _
@[simp] theorem setPart_launch (s : State) (k j : Nat) (x : Partition) : (s.setPart k x).launch j = s.launch j := rfl
@[simp] theorem setFunc_launch (s : State) (k j : Nat) (x : Func) : (s.setFunc k x).launch j = s.launch j := rfl
@[simp] theorem setCore_part (s : State) (k j : Nat) (x : Core) : (s.setCore k x).part j = s.part j := rfl
@[simp] theorem setWg_part (s : State) (k j : Nat) (x : Workgroup) : (s.setWg k x).part j = s.part j := rfl
@[simp] theorem setLaunch_part (s : State) (k j : Nat) (x : Launch) : (s.setLaunch k x).part j = s.part j := rfl
theorem setPart_part (s : State) (k j : Nat) (x : Partition) : (s.setPart k x).part j = if j = k then x else s.part j := get_put _ _ _ _ _
@[simp] theorem setPart_part_same (s : State) (k : Nat) (x : Partition) : (s.setPart k x).part k = x := get_put_same _ _ _ _
@[simp] theorem setFunc_part (s : State) (k j : Nat) (x : Func) : (s.setFunc k x).part j = s.part j := rfl
@[simp] theorem setCore_func (s : State) (k j : Nat) (x : Core) : (s.setCore k x).func j = s.func j := rfl
@[simp] theorem setWg_func (s : State) (k j : Nat) (x : Workgroup) : (s.setWg k x).func j = s.func j := rfl
@[simp] theorem setLaunch_func (s : State) (k j : Nat) (x : Launch) : (s.setLaunch k x).func j = s.func j := rfl
@[simp] theorem setPart_func (s : State) (k j : Nat) (x : Partition) : (s.setPart k x).func j = s.func j := rfl
theorem setFunc_func (s : State) (k j : Nat) (x : Func) : (s.setFunc k x).func j = if j = k then x else s.func j := get_put _ _ _ _ _
@[simp] theorem setFunc_func_same (s : State) (k : Nat) (x : Func) : (s.setFunc k x).func k = x := get_put_same _ _ _ _

/-! ### Warps -/

theorem setWarp_eq (s : State) (c i : Nat) (w : Warp) :
    s.setWarp c i w = s.setCore c { s.core c with warps := put noWarp (s.core c).warps i w } := rfl
theorem modCore_eq (s : State) (c : Nat) (f : Core → Core) : s.modCore c f = s.setCore c (f (s.core c)) := rfl
theorem modWarp_eq (s : State) (c i : Nat) (f : Warp → Warp) : s.modWarp c i f = s.setWarp c i (f (s.warp c i)) := rfl
theorem modWg_eq (s : State) (k : Nat) (f : Workgroup → Workgroup) : s.modWg k f = s.setWg k (f (s.wg k)) := rfl
theorem modPart_eq (s : State) (p : Nat) (f : Partition → Partition) : s.modPart p f = s.setPart p (f (s.part p)) := rfl
theorem modFunc_eq (s : State) (p : Nat) (f : Func → Func) : s.modFunc p f = s.setFunc p (f (s.func p)) := rfl
theorem modLaunch_eq (s : State) (p : Nat) (f : Launch → Launch) : s.modLaunch p f = s.setLaunch p (f (s.launch p)) := rfl

/-- A warp read after a warp write. -/
theorem setWarp_warp (s : State) (c i d j : Nat) (w : Warp) :
    (s.setWarp c i w).warp d j = if d = c ∧ j = i then w else s.warp d j := by
  simp only [State.warp, setWarp_eq, setCore_core]
  by_cases h : d = c
  · subst h; simp [get_put]
  · simp [h]
@[simp] theorem setWarp_warp_same (s : State) (c i : Nat) (w : Warp) : (s.setWarp c i w).warp c i = w := by simp [setWarp_warp]

@[simp] theorem setWarp_now (s : State) (c i : Nat) (w : Warp) : (s.setWarp c i w).now = s.now := rfl
@[simp] theorem setWarp_wall (s : State) (c i : Nat) (w : Warp) : (s.setWarp c i w).wall = s.wall := rfl
@[simp] theorem setWarp_step (s : State) (c i : Nat) (w : Warp) : (s.setWarp c i w).step = s.step := rfl
@[simp] theorem setWarp_watts (s : State) (c i : Nat) (w : Warp) : (s.setWarp c i w).watts = s.watts := rfl
@[simp] theorem setWarp_power (s : State) (c i : Nat) (w : Warp) : (s.setWarp c i w).power = s.power := rfl
@[simp] theorem setWarp_temp (s : State) (c i : Nat) (w : Warp) : (s.setWarp c i w).temp = s.temp := rfl
@[simp] theorem setWarp_coolWindows (s : State) (c i : Nat) (w : Warp) : (s.setWarp c i w).coolWindows = s.coolWindows := rfl
@[simp] theorem setWarp_windowEnd (s : State) (c i : Nat) (w : Warp) : (s.setWarp c i w).windowEnd = s.windowEnd := rfl
@[simp] theorem setWarp_hot (s : State) (c i : Nat) (w : Warp) : (s.setWarp c i w).hot = s.hot := rfl
@[simp] theorem setWarp_narrow (s : State) (c i : Nat) (w : Warp) : (s.setWarp c i w).narrow = s.narrow := rfl
@[simp] theorem setWarp_recov (s : State) (c i : Nat) (w : Warp) : (s.setWarp c i w).recov = s.recov := rfl
@[simp] theorem setWarp_recovery (s : State) (c i : Nat) (w : Warp) : (s.setWarp c i w).recovery = s.recovery := rfl
@[simp] theorem setWarp_flash (s : State) (c i : Nat) (w : Warp) : (s.setWarp c i w).flash = s.flash := rfl
@[simp] theorem setWarp_booted (s : State) (c i : Nat) (w : Warp) : (s.setWarp c i w).booted = s.booted := rfl
@[simp] theorem setWarp_flashVersion (s : State) (c i : Nat) (w : Warp) : (s.setWarp c i w).flashVersion = s.flashVersion := rfl
@[simp] theorem setWarp_parts (s : State) (c i : Nat) (w : Warp) : (s.setWarp c i w).parts = s.parts := rfl
@[simp] theorem setWarp_funcs (s : State) (c i : Nat) (w : Warp) : (s.setWarp c i w).funcs = s.funcs := rfl
@[simp] theorem setWarp_launches (s : State) (c i : Nat) (w : Warp) : (s.setWarp c i w).launches = s.launches := rfl
@[simp] theorem setWarp_wgs (s : State) (c i : Nat) (w : Warp) : (s.setWarp c i w).wgs = s.wgs := rfl
@[simp] theorem setWarp_mem (s : State) (c i : Nat) (w : Warp) : (s.setWarp c i w).mem = s.mem := rfl
@[simp] theorem setWarp_hdrs (s : State) (c i : Nat) (w : Warp) : (s.setWarp c i w).hdrs = s.hdrs := rfl
@[simp] theorem setWarp_poison (s : State) (c i : Nat) (w : Warp) : (s.setWarp c i w).poison = s.poison := rfl
@[simp] theorem setWarp_badMem (s : State) (c i : Nat) (w : Warp) : (s.setWarp c i w).badMem = s.badMem := rfl
@[simp] theorem setWarp_softMem (s : State) (c i : Nat) (w : Warp) : (s.setWarp c i w).softMem = s.softMem := rfl
@[simp] theorem setWarp_kvLines (s : State) (c i : Nat) (w : Warp) : (s.setWarp c i w).kvLines = s.kvLines := rfl
@[simp] theorem setWarp_heat (s : State) (c i : Nat) (w : Warp) : (s.setWarp c i w).heat = s.heat := rfl
@[simp] theorem setWarp_samples (s : State) (c i : Nat) (w : Warp) : (s.setWarp c i w).samples = s.samples := rfl
@[simp] theorem setWarp_tlb (s : State) (c i : Nat) (w : Warp) : (s.setWarp c i w).tlb = s.tlb := rfl
@[simp] theorem setWarp_atsRefused (s : State) (c i : Nat) (w : Warp) : (s.setWarp c i w).atsRefused = s.atsRefused := rfl
@[simp] theorem setWarp_cxlDown (s : State) (c i : Nat) (w : Warp) : (s.setWarp c i w).cxlDown = s.cxlDown := rfl
@[simp] theorem setWarp_fabric (s : State) (c i : Nat) (w : Warp) : (s.setWarp c i w).fabric = s.fabric := rfl
@[simp] theorem setWarp_decs (s : State) (c i : Nat) (w : Warp) : (s.setWarp c i w).decs = s.decs := rfl
@[simp] theorem setWarp_nextCmd (s : State) (c i : Nat) (w : Warp) : (s.setWarp c i w).nextCmd = s.nextCmd := rfl
@[simp] theorem setWarp_out (s : State) (c i : Nat) (w : Warp) : (s.setWarp c i w).out = s.out := rfl
@[simp] theorem setWarp_agenda (s : State) (c i : Nat) (w : Warp) : (s.setWarp c i w).agenda = s.agenda := rfl
@[simp] theorem setWarp_cur (s : State) (c i : Nat) (w : Warp) : (s.setWarp c i w).cur = s.cur := rfl
@[simp] theorem setWarp_freeCtr (s : State) (c i : Nat) (w : Warp) : (s.setWarp c i w).freeCtr = s.freeCtr := rfl
@[simp] theorem setWarp_wg (s : State) (c i j : Nat) (w : Warp) : (s.setWarp c i w).wg j = s.wg j := rfl
@[simp] theorem setWarp_launch (s : State) (c i j : Nat) (w : Warp) : (s.setWarp c i w).launch j = s.launch j := rfl
@[simp] theorem setWarp_part (s : State) (c i j : Nat) (w : Warp) : (s.setWarp c i w).part j = s.part j := rfl
@[simp] theorem setWarp_func (s : State) (c i j : Nat) (w : Warp) : (s.setWarp c i w).func j = s.func j := rfl

end Sys2Proof.Machine
end

