-- ==== Sys2Proof/Laws/Issue.lean ====
section
/-! SUPPORT. What a word does once it has passed its checks, and what its bookkeeping leaves unchanged. -/
namespace Sys2Proof.Safety
open Sys2Proof.Machine

/-- A word that passes its checks is performed by its body alone (03 R65). -/
theorem runWord_passes {i : Instr} {body : Ctx → State → Res} {c : Ctx} {s : State} (h : Passes i c) :
    runWord i body c s = (body c s).apply i c := by
  have hf : (c.front && !prologueOk i) = false := by
    have := h.front
    cases hc : c.front <;> simp_all
  have hr : (usesV i && c.wg.badReg.isSome) = false := by
    have := h.sound
    cases hu : usesV i <;> simp_all
  unfold runWord
  simp only [h.free, hf, h.legal, h.mode, Bool.not_true, h.window, h.ready, h.declared, hr, Bool.false_eq_true, if_false]

theorem issueWord_passes {i : Instr} {body : Ctx → State → Res} {c : Ctx} {s : State} (h : Issues i s c) :
    issueWord i body s = .next ((body c s).apply i c) := by
  obtain ⟨⟨w, e, hi, rfl⟩, hp⟩ := h
  simp only [issueWord, hi, runWord_passes hp]

theorem Issues.who {i : Instr} {c : Ctx} {s : State} (h : Issues i s c) : c.who = s.cur := by
  obtain ⟨⟨w, e, -, rfl⟩, -⟩ := h
  cases hc : s.cur <;> simp [State.ctx, State.ctxAt, hc]

theorem Issues.warp {i : Instr} {c : Ctx} {s : State} (h : Issues i s c) : c.w = s.issuerWarp s.cur := by
  obtain ⟨⟨w, e, hi, rfl⟩, -⟩ := h
  have : w = s.issuerWarp s.cur := by
    simp only [State.issuer] at hi
    split at hi <;> simp_all
  cases hc : s.cur <;> simp [State.ctx, State.ctxAt, hc, this]

theorem Issues.act {i : Instr} {c : Ctx} {s : State} (h : Issues i s c) : c.act = guardLanes c.w c.e (hdrOf i).guard (hdrOf i).gn := by
  obtain ⟨⟨w, e, hi, rfl⟩, -⟩ := h
  cases hc : s.cur <;> simp [State.ctx, State.ctxAt, hc]

/-- A prologue that issues is there. -/
theorem Issues.prologue {i : Instr} {c : Ctx} {s : State} (h : Issues i s c) {p : Nat} (hp : s.cur = .prologue p) :
    (s.part p).prologue.isSome = true := by
  obtain ⟨⟨w, e, hi, -⟩, -⟩ := h
  cases hq : (s.part p).prologue with
  | some r => rfl
  | none => simp [State.issuer, State.issuerWarp, hp, hq, noWarp] at hi

/-! ### Frames of the issuing warp's updates -/

theorem Elsewhere.refl (s : State) : Elsewhere s s := ⟨fun _ => rfl, rfl, fun _ => rfl, fun _ _ => rfl, fun _ => rfl, fun _ _ => rfl, fun _ _ _ => rfl⟩

theorem Elsewhere.cur {s t : State} (h : Elsewhere s t) : t.cur = s.cur := by
  have := congrArg State.cur h.rest
  exact this

theorem Elsewhere.trans {s t u : State} (h : Elsewhere s t) (k : Elsewhere t u) : Elsewhere s u :=
  ⟨fun a => (k.bytes a).trans (h.bytes a), k.rest.trans h.rest, fun p => (k.parts p).trans (h.parts p),
   fun p hp => (k.prologues p (h.cur ▸ hp)).trans (h.prologues p hp), fun c => (k.cores c).trans (h.cores c),
   fun c i => (k.sweeps c i).trans (h.sweeps c i), fun c j hj => (k.warps c j (h.cur ▸ hj)).trans (h.warps c j hj)⟩

theorem elsewhere_setWarp (s : State) (k j : Nat) (w : Warp) (h : Issuer.warp k j = s.cur ∨ unscheduled w = unscheduled (s.warp k j)) :
    Elsewhere s (s.setWarp k j w) where
  bytes _ := rfl
  rest := rfl
  parts _ := rfl
  prologues _ _ := rfl
  cores c := by
    simp only [setWarp_eq, setCore_core]
    by_cases hc : c = k <;> simp [hc]
  sweeps c i := by
    simp only [setWarp_eq, setCore_core]
    by_cases hc : c = k <;> simp [hc, Core.sched]
  warps c i hi := by
    rw [setWarp_warp]
    by_cases hc : c = k ∧ i = j
    · obtain ⟨rfl, rfl⟩ := hc
      simp only [and_self, if_true]
      cases h with
      | inl h => exact absurd h hi
      | inr h => exact h
    · simp [hc]

theorem elsewhere_modSched (s : State) (k i : Nat) (f : Scheduler → Scheduler) (hf : ∀ x, (f x).sweeps = x.sweeps) :
    Elsewhere s (s.modCore k (fun c => c.modSched i f)) where
  bytes _ := rfl
  rest := rfl
  parts _ := rfl
  prologues _ _ := rfl
  cores c := by
    simp only [modCore_eq, setCore_core]
    by_cases hc : c = k <;> simp [hc, Core.modSched, Core.setSched]
  sweeps c j := by
    simp only [modCore_eq, setCore_core]
    by_cases hc : c = k
    · subst hc
      simp only [if_true, Core.modSched, Core.setSched, Core.sched, get_put]
      by_cases hj : j = i
      · subst hj; simp only [if_true]; exact hf _
      · simp [hj]
    · simp [hc]
  warps c j _ := by
    simp only [State.warp, modCore_eq, setCore_core]
    by_cases hc : c = k <;> simp [hc, Core.modSched, Core.setSched]

theorem elsewhere_yieldTurn (s : State) (k j : Nat) : Elsewhere s (s.yieldTurn k j) := by
  simp only [State.yieldTurn]
  refine Elsewhere.trans ?_ (elsewhere_modSched _ _ _ _ (fun x => ?_))
  · split
    · exact elsewhere_setWarp _ _ _ _ (Or.inr rfl)
    · exact Elsewhere.refl s
  · split <;> rfl

theorem elsewhere_modIssuer (s : State) (f : Warp → Warp) : Elsewhere s (s.modIssuer s.cur f) := by
  cases hc : s.cur with
  | warp k j => exact elsewhere_setWarp _ _ _ _ (Or.inl hc.symm)
  | prologue p =>
    simp only [State.modIssuer, State.setIssuerWarp, modPart_eq]
    exact
      { bytes := fun _ => rfl, rest := rfl, cores := fun _ => rfl, sweeps := fun _ _ => rfl, warps := fun _ _ _ => rfl
        parts := fun q => by rw [setPart_part]; by_cases hq : q = p <;> simp [hq]
        prologues := fun q hq => by
          rw [setPart_part]
          by_cases h : q = p
          · exact absurd (h ▸ hc.symm) hq
          · simp [h] }

theorem elsewhere_slotUsed (s : State) (who : Issuer) : Elsewhere s (s.slotUsed who) := by
  unfold State.slotUsed
  split
  · exact elsewhere_modSched _ _ _ _ (fun _ => rfl)
  · exact Elsewhere.refl s

theorem elsewhere_endTurn (s : State) (c : Ctx) (gw : Bool) (h : c.who = s.cur) : Elsewhere s (s.endTurn c gw) := by
  have hu := elsewhere_slotUsed s c.who
  simp only [State.endTurn]
  refine hu.trans ?_
  replace h := h.trans hu.cur.symm
  revert h
  generalize s.slotUsed c.who = s
  intro h
  split
  · rename_i p hp
    rw [h] at hp
    simp only [modPart_eq]
    exact
      { bytes := fun _ => rfl, rest := rfl, cores := fun _ => rfl, sweeps := fun _ _ => rfl, warps := fun _ _ _ => rfl
        parts := fun q => by rw [setPart_part]; by_cases hq : q = p <;> simp [hq]
        prologues := fun q hq => by
          rw [setPart_part]
          by_cases hqp : q = p
          · exact absurd (hqp ▸ hp.symm) hq
          · simp [hqp] }
  · split
    · exact elsewhere_yieldTurn _ _ _
    · exact Elsewhere.refl s

/-- A word's bookkeeping touches only the issuing warp and the places on its scheduler. -/
theorem elsewhere_finish (i : Instr) (c : Ctx) (s : State) (regs : List Reg) (front : Warp → Warp) (h : c.who = s.cur) :
    Elsewhere s (finish i c s regs front) := by
  have h1 := elsewhere_modIssuer s (fun w => front (w.issued s.now i c.e.pc regs))
  rw [← h] at h1
  exact h1.trans (elsewhere_endTurn _ c _ (h.trans h1.cur.symm))

/-! ### The issuing warp -/

/-- The issuer is there: a prologue's record stands in its partition. -/
def Present (s : State) (who : Issuer) : Prop :=
  match who with
  | .warp _ _ => True
  | .prologue p => (s.part p).prologue.isSome = true

theorem Issues.present {i : Instr} {c : Ctx} {s : State} (h : Issues i s c) : Present s s.cur := by
  cases hc : s.cur with
  | warp k j => trivial
  | prologue p => exact h.prologue hc

theorem issuerWarp_modIssuer {s : State} {who : Issuer} (h : Present s who) (f : Warp → Warp) :
    (s.modIssuer who f).issuerWarp who = f (s.issuerWarp who) := by
  cases who with
  | warp k j => simp [State.modIssuer, State.setIssuerWarp, State.issuerWarp]
  | prologue p =>
    simp only [Present] at h
    obtain ⟨r, hr⟩ := Option.isSome_iff_exists.1 h
    simp [State.modIssuer, State.setIssuerWarp, State.issuerWarp, modPart_eq, hr]

theorem present_modIssuer {s : State} {who : Issuer} (h : Present s who) (f : Warp → Warp) : Present (s.modIssuer who f) who := by
  cases who with
  | warp k j => trivial
  | prologue p =>
    simp only [Present] at h ⊢
    obtain ⟨r, hr⟩ := Option.isSome_iff_exists.1 h
    simp [State.modIssuer, State.setIssuerWarp, modPart_eq, hr]

theorem unscheduled_yieldTurn (s : State) (k j a b : Nat) :
    unscheduled ((s.yieldTurn k j).warp a b) = unscheduled (s.warp a b) := by
  have hw (t : State) (f : Scheduler → Scheduler) : (t.modCore k (fun c => c.modSched (j / 16) f)).warp a b = t.warp a b := by
    simp only [State.warp, modCore_eq, setCore_core]
    by_cases hc : a = k <;> simp [hc, Core.modSched, Core.setSched]
  simp only [State.yieldTurn, hw]
  split
  · rw [setWarp_warp]
    by_cases h : a = k ∧ b = j
    · obtain ⟨rfl, rfl⟩ := h; simp [unscheduled]
    · simp [h]
  · rfl

theorem slotUsed_part (s : State) (who : Issuer) (p : Nat) : (s.slotUsed who).part p = s.part p := by
  unfold State.slotUsed; split <;> rfl

theorem slotUsed_warp (s : State) (who : Issuer) (a b : Nat) : (s.slotUsed who).warp a b = s.warp a b := by
  unfold State.slotUsed
  split
  · simp only [State.warp, modCore_eq, setCore_core]
    split
    · rename_i h; subst h; rfl
    · rfl
  · rfl

theorem unscheduled_endTurn (s : State) (c : Ctx) (gw : Bool) (h : Present s c.who) :
    unscheduled ((s.endTurn c gw).issuerWarp c.who) = unscheduled (s.issuerWarp c.who) := by
  simp only [State.endTurn]
  split
  · rename_i p hp
    simp only [hp, Present] at h
    obtain ⟨r, hr⟩ := Option.isSome_iff_exists.1 h
    simp [State.issuerWarp, hp, modPart_eq, hr, slotUsed_part]
  · rename_i k j hk
    simp only [hk, State.issuerWarp]
    split
    · rw [unscheduled_yieldTurn, slotUsed_warp]
    · rw [slotUsed_warp]

/-- The issuing warp after a word, its place on the scheduler apart. -/
theorem unscheduled_finish (i : Instr) (c : Ctx) (s : State) (regs : List Reg) (front : Warp → Warp) (h : Present s c.who) :
    unscheduled ((finish i c s regs front).issuerWarp c.who) =
      unscheduled (front ((s.issuerWarp c.who).issued s.now i c.e.pc regs)) := by
  simp only [finish]
  rw [unscheduled_endTurn _ _ _ (present_modIssuer h _), issuerWarp_modIssuer h]

end Sys2Proof.Safety
end

