-- ==== Sys2Proof/Laws/Memory.lean ====
section
/-! SUPPORT. Laws of memory: what a store of bytes leaves at each place, and that every operation on memory keeps its canonical
form, with the clock's step and the power cap. -/
namespace Sys2Proof.Machine

/-! ### Stores -/

theorem storeBytes_wf (bs : List Byte) : ∀ (m : List Host.Cell) (k : Nat), Memory.wf m → Memory.wf (storeBytes m k bs) := by
  induction bs with
  | nil => exact fun _ _ h => h
  | cons b r ih => exact fun m k h => ih _ _ (wf_put 0 m k b h)

/-- A byte below the place of a store is as it was. -/
theorem storeBytes_below (bs : List Byte) : ∀ (m : List Host.Cell) (k j : Nat), j < k → get 0 (storeBytes m k bs) j = get 0 m j := by
  induction bs with
  | nil => exact fun _ _ _ _ => rfl
  | cons b r ih =>
    intro m k j h
    rw [storeBytes, ih _ _ _ (by omega)]
    exact get_put_other 0 m k j b (by omega)

/-- After a store each place holds the byte stored there, or what it held. -/
theorem get_storeBytes (bs : List Byte) : ∀ (m : List Host.Cell) (k j : Nat),
    get 0 (storeBytes m k bs) j = if k ≤ j ∧ j < k + bs.length then bs.getD (j - k) 0 else get 0 m j := by
  induction bs with
  | nil => intro m k j; simp [storeBytes, show ¬ (k ≤ j ∧ j < k) by omega]
  | cons b r ih =>
    intro m k j
    rw [storeBytes]
    by_cases hj : j = k
    · subst hj
      rw [storeBytes_below _ _ _ _ (by omega)]
      simp [show blankByte = (0 : Byte) from rfl]
    · rw [ih, show blankByte = (0 : Byte) from rfl, get_put_other 0 m k j b hj]
      by_cases h : k < j
      · by_cases h2 : j < k + 1 + r.length
        · rw [if_pos ⟨by omega, h2⟩, if_pos (by simp only [List.length_cons]; omega)]
          obtain ⟨n, hn⟩ : ∃ n, j - k = n + 1 := ⟨j - k - 1, by omega⟩
          rw [hn, show j - (k + 1) = n by omega]
          simp
        · rw [if_neg (by omega), if_neg (by simp only [List.length_cons]; omega)]
      · rw [if_neg (by omega), if_neg (by omega)]

theorem byteAt_rawStore (s : State) (k j : Nat) (bs : List Byte) :
    (s.rawStore k bs).byteAt j = if k ≤ j ∧ j < k + bs.length then bs.getD (j - k) 0 else s.byteAt j := get_storeBytes bs s.mem k j

/-- Entries left out keep the canonical form. -/
theorem wf_filter (f : Host.Cell → Bool) : ∀ (m : List Host.Cell), Memory.wf m → Memory.wf (m.filter f)
  | [], h => h
  | (j, v) :: r, h => by
    have hr := (wf_cons (0 : Byte) j v r).1 h
    have ih := wf_filter f r hr.2.2
    have hab : ∀ (r : List Host.Cell) (j : Nat), above j r = true → above j (r.filter f) = true := by
      intro r j ha
      induction r with
      | nil => rfl
      | cons x r ih2 =>
        obtain ⟨i, w⟩ := x
        simp only [above, Bool.and_eq_true, decide_eq_true_eq] at ha
        simp only [List.filter_cons]
        split
        · simp only [above, Bool.and_eq_true, decide_eq_true_eq]; exact ⟨ha.1, ih2 ha.2⟩
        · exact ih2 ha.2
    simp only [List.filter_cons]
    split
    · exact (wf_cons (0 : Byte) j v _).2 ⟨hr.1, hab r j hr.2.1, ih⟩
    · exact ih

theorem reset_wf : Memory.wf State.reset.mem := rfl

/-! ### What no operation but the clock's changes -/

/-- The clock's step and the power cap are as they were, and memory that had its canonical form has it still. -/
structure Kept (s t : State) : Prop where
  step : t.step = s.step
  watts : t.watts = s.watts
  mem : Memory.wf s.mem → Memory.wf t.mem

namespace Kept

theorem rfl' (s : State) : Kept s s := ⟨rfl, rfl, id⟩
theorem trans {s t u : State} (h : Kept s t) (g : Kept t u) : Kept s u := ⟨g.step.trans h.step, g.watts.trans h.watts, fun m => g.mem (h.mem m)⟩

/-- A state that differs in none of the three. -/
theorem same {a s t : State} (h : Kept a s) (h1 : t.step = s.step) (h2 : t.watts = s.watts) (h3 : t.mem = s.mem) : Kept a t :=
  h.trans ⟨h1, h2, fun m => by rw [h3]; exact m⟩

theorem foldl {β : Type} {a : State} {f : State → β → State} (hf : ∀ s x, Kept s (f s x)) : ∀ (l : List β) {s : State}, Kept a s → Kept a (l.foldl f s)
  | [], _, h => h
  | x :: r, _, h => foldl hf r (h.trans (hf _ x))

/-- The same of a fold that carries something else with the state. -/
theorem foldl_fst {β γ : Type} {a : State} {f : State × γ → β → State × γ} (hf : ∀ s x, Kept s.1 (f s x).1) :
    ∀ (l : List β) {s : State × γ}, Kept a s.1 → Kept a (l.foldl f s).1
  | [], _, h => h
  | x :: r, _, h => foldl_fst hf r (h.trans (hf _ x))

variable {a s : State}

theorem setCore (h : Kept a s) (c : Nat) (x : Core) : Kept a (s.setCore c x) := h.same rfl rfl rfl
theorem modCore (h : Kept a s) (c : Nat) (f : Core → Core) : Kept a (s.modCore c f) := h.same rfl rfl rfl
theorem setWarp (h : Kept a s) (c i : Nat) (w : Warp) : Kept a (s.setWarp c i w) := h.same rfl rfl rfl
theorem modWarp (h : Kept a s) (c i : Nat) (f : Warp → Warp) : Kept a (s.modWarp c i f) := h.same rfl rfl rfl
theorem setWg (h : Kept a s) (k : Nat) (x : Workgroup) : Kept a (s.setWg k x) := h.same rfl rfl rfl
theorem modWg (h : Kept a s) (k : Nat) (f : Workgroup → Workgroup) : Kept a (s.modWg k f) := h.same rfl rfl rfl
theorem nextFree (h : Kept a s) : Kept a s.nextFree := h.same rfl rfl rfl
theorem setLaunch (h : Kept a s) (k : Nat) (x : Launch) : Kept a (s.setLaunch k x) := h.same rfl rfl rfl
theorem modLaunch (h : Kept a s) (k : Nat) (f : Launch → Launch) : Kept a (s.modLaunch k f) := h.same rfl rfl rfl
theorem setPart (h : Kept a s) (p : Nat) (x : Partition) : Kept a (s.setPart p x) := h.same rfl rfl rfl
theorem modPart (h : Kept a s) (p : Nat) (f : Partition → Partition) : Kept a (s.modPart p f) := h.same rfl rfl rfl
theorem setFunc (h : Kept a s) (f : Nat) (x : Func) : Kept a (s.setFunc f x) := h.same rfl rfl rfl
theorem modFunc (h : Kept a s) (f : Nat) (g : Func → Func) : Kept a (s.modFunc f g) := h.same rfl rfl rfl

theorem setIssuerWarp (h : Kept a s) (i : Issuer) (w : Warp) : Kept a (s.setIssuerWarp i w) := by
  cases i
  · exact h.setWarp _ _ w
  · exact h.modPart _ (fun x => { x with prologue := x.prologue.map (fun r => { r with warp := w }) })
theorem modIssuer (h : Kept a s) (i : Issuer) (f : Warp → Warp) : Kept a (s.modIssuer i f) := h.setIssuerWarp i _

/-! ### Memory -/

theorem rawStore (h : Kept a s) (k : Nat) (bs : List Byte) : Kept a (s.rawStore k bs) :=
  h.trans ⟨rfl, rfl, fun m => storeBytes_wf bs s.mem k m⟩

theorem kvTouch (h : Kept a s) (k : Nat) : Kept a (s.kvTouch k) := h.same rfl rfl rfl

theorem setHeader (h : Kept a s) (p : Nat) (pg : Page) (off x : Nat) : Kept a (s.setHeader p pg off x) := by
  simp only [State.setHeader]
  split
  · exact (h.kvTouch _).rawStore _ _
  · exact (h.kvTouch (lineId pg off)).same rfl rfl rfl

theorem setMapBit (h : Kept a s) (p map e : Nat) (b : Bool) : Kept a (s.setMapBit p map e b) := by
  simp only [State.setMapBit]
  split
  · exact h.rawStore _ _
  · exact h

theorem compStore (h : Kept a s) (p : Nat) (r : CompRef) (pg : Page) (off : Nat) (new : List Byte) : Kept a (s.compStore p r pg off new) := by
  simp only [State.compStore]
  split
  · split
    · split
      · exact h.rawStore _ _
      · exact h
    · split
      · exact h
      · exact ((((h.setMapBit _ _ _ _).rawStore _ _).rawStore _ _).rawStore _ _).rawStore _ _
  · split
    · exact (((h.setMapBit _ _ _ _).rawStore _ _).rawStore _ _).rawStore _ _
    · exact (h.rawStore _ _).rawStore _ _

theorem digestUpkeep (h : Kept a s) (k : Nat) (x y : List Byte) : Kept a (s.digestUpkeep k x y) := h.same rfl rfl rfl

theorem writeLine (h : Kept a s) (p : Nat) (pg : Page) (off : Nat) (new : List Byte) (whole : Bool) : Kept a (s.writeLine p pg off new whole) := by
  have key : ∀ t, Kept a t → Kept a (if whole ∧ Sys2Proof.Machine.get false t.poison (lineId pg off) then
      ({ t with poison := put false t.poison (lineId pg off) false }).setHeader p pg off 0 else t) := by
    intro t ht
    split
    · exact (ht.same (t := { t with poison := put false t.poison (lineId pg off) false }) rfl rfl rfl).setHeader _ _ _ _
    · exact ht
  simp only [State.writeLine]
  apply key
  split
  · exact ((h.kvTouch _).digestUpkeep _ _ _).rawStore _ _
  · exact ((h.kvTouch _).digestUpkeep _ _ _).compStore _ _ _ _ _

theorem writeLines (h : Kept a s) (p : Nat) (ws : List ByteWrite) (ls : List (Page × Nat)) : Kept a (s.writeLines p ws ls) := by
  refine Kept.same (s := List.foldl _ s ls) (foldl (fun s x => ?_) ls h) rfl rfl rfl
  obtain ⟨pg, off⟩ := x
  dsimp only
  split
  · exact rfl' s
  · exact (rfl' s).writeLine _ _ _ _ _

theorem hbmStore (h : Kept a s) (p k : Nat) (bs : List Byte) : Kept a (s.hbmStore p k bs) := by
  unfold State.hbmStore
  split
  · exact h
  · exact h.writeLines _ _ _

/-! ### Fault records, storage errors and heat -/

theorem writeRecord (h : Kept a s) (p : Nat) (r : FaultRec) : Kept a (s.writeRecord p r) := by
  simp only [State.writeRecord]
  exact (h.hbmStore _ _ _).modPart _ _

theorem report (h : Kept a s) (r : FaultRec) : Kept a (s.report r) := by
  have key : ∀ t, Kept a t → Kept a (if (t.part r.part).fqRoom ∧ (t.part r.part).fqHeld = [] then t.writeRecord r.part r
      else t.modPart r.part (fun y => { y with fqHeld := y.fqHeld ++ [r], fqovf := true })) := by
    intro t ht
    split
    · exact ht.writeRecord _ _
    · exact ht.modPart _ _
  simp only [State.report]
  apply key
  split
  · exact h.modPart _ _
  · exact h

theorem correctLine (h : Kept a s) (p id : Nat) : Kept a (s.correctLine p id) := by
  unfold State.correctLine
  split
  · exact h.same rfl rfl rfl
  · exact h

theorem lookAt (h : Kept a s) (p : Nat) (g : Option Nat) (r : FaultRec) (ls : List (Page × Nat)) : Kept a (s.lookAt p g r ls) := by
  refine foldl (fun s x => ?_) ls h
  dsimp only
  have hc := (rfl' s).correctLine p (lineId x.1 x.2)
  split
  · apply Kept.report
    apply Kept.modPart
    split
    · apply Kept.modWg
      exact hc.same rfl rfl rfl
    · exact hc.same rfl rfl rfl
  · exact hc

theorem walked (h : Kept a s) (p f va : Nat) (g : Option Nat) (r : FaultRec) : Kept a (s.walked p f va g r) := h.lookAt _ _ _ _

theorem reportPage (h : Kept a s) (r : FaultRec) {g : Option Nat} : Kept a (s.reportPage r g) := by
  simp only [State.reportPage]
  split
  · exact h.walked _ _ _ _ _
  · exact (h.walked _ _ _ _ _).report _

theorem reportProtect (h : Kept a s) (r : FaultRec) {g : Option Nat} : Kept a (s.reportProtect r g) := (h.walked _ _ _ _ _).report _

theorem cachePage (h : Kept a s) (p : Nat) (g : Option Nat) (r : FaultRec) (pg : Page) : Kept a (s.cachePage p g r pg) := by
  unfold State.cachePage
  split
  · exact h
  · exact (h.walked p r.func pg.va g r).same rfl rfl rfl

theorem cachePages (h : Kept a s) (p : Nat) (g : Option Nat) (r : FaultRec) (ls : List (Page × Nat)) : Kept a (s.cachePages p g r ls) := by
  refine foldl (fun s x => ?_) ls h
  exact (rfl' s).cachePage p g r x.1

theorem findErrors (h : Kept a s) (p : Nat) (g : Option Nat) (r : FaultRec) (ls : List (Page × Nat)) : Kept a (s.findErrors p g r ls) :=
  (h.cachePages p g r ls).lookAt p g r ls

theorem reportDropped (h : Kept a s) (p : Nat) (r : FaultRec) (ls : List (Page × Nat)) : Kept a (s.reportDropped p r ls) := by
  refine foldl (fun s x => ?_) ls h
  dsimp only
  split
  · exact (rfl' s).report _
  · exact rfl' s

theorem halveHeat (h : Kept a s) (p port : Nat) : Kept a (s.halveHeat p port) := by
  simp only [State.halveHeat]
  split
  · refine Kept.same (s := List.foldl _ s s.mem) (foldl (fun t c => ?_) s.mem h) rfl rfl rfl
    split
    · exact (rfl' t).hbmStore _ _ _
    · exact rfl' t
  · exact h

theorem ownUnit (h : Kept a s) (p unit owner : Nat) : Kept a (s.ownUnit p unit owner) := h.same rfl rfl rfl

theorem recordHeat (h : Kept a s) (p unit owner : Nat) : Kept a (s.recordHeat p unit owner) := by
  simp only [State.recordHeat]
  exact Kept.same (((h.halveHeat p owner).ownUnit p unit owner).hbmStore p _ _) rfl rfl rfl

theorem heatAccess (h : Kept a s) (p : Nat) (pg : Page) (line requester : Nat) : Kept a (s.heatAccess p pg line requester) := by
  simp only [State.heatAccess]
  split
  · split
    · split
      · apply Kept.recordHeat
        exact h.same rfl rfl rfl
      · exact h.same rfl rfl rfl
    · exact h.same rfl rfl rfl
  · exact h.same rfl rfl rfl

theorem heatLines (h : Kept a s) (p requester : Nat) (ls : List (Page × Nat)) : Kept a (s.heatLines p requester ls) := by
  refine foldl (fun s x => ?_) ls h
  obtain ⟨pg, off⟩ := x
  dsimp only
  split
  · exact (rfl' s).heatAccess _ _ _ _
  · exact rfl' s

/-! ### Wakes and counters -/

theorem markWakeable (h : Kept a s) (c i : Nat) : Kept a (s.markWakeable c i) := by
  simp only [State.markWakeable]
  split
  · exact h
  · exact h.setWarp _ _ _

theorem goOn (h : Kept a s) (c i : Nat) : Kept a (s.goOn c i) := by
  simp only [State.goOn]
  apply Kept.modCore
  apply Kept.modWarp
  split
  · exact h.modWarp _ _ _
  · exact h

theorem wakeWarp (h : Kept a s) (c i : Nat) : Kept a (s.wakeWarp c i) := by
  simp only [State.wakeWarp]
  split
  · split
    · exact h.goOn _ _
    · exact h.setWarp _ _ _
  · exact h.setWarp _ _ _
  · split
    · exact h.setWarp _ _ _
    · exact (h.setWarp _ _ _).markWakeable _ _
  · exact h

theorem wakeSaved (h : Kept a s) (f : Park → Bool) : Kept a (s.wakeSaved f) := h.same rfl rfl rfl

theorem wakeAll (h : Kept a s) (f : Park → Bool) : Kept a (s.wakeAll f) :=
  foldl (fun s _ => foldl (fun s i => (rfl' s).wakeWarp _ i) _ (rfl' s)) _ (h.wakeSaved f)

theorem pushReady (h : Kept a s) (c : Nat) (t : Task) (prio : Nat) : Kept a (s.pushReady c t prio) := h.modCore _ _

theorem readySpawned (h : Kept a s) (k id prio : Nat) : Kept a (s.readySpawned k id prio) := by
  unfold State.readySpawned
  split
  · exact h.pushReady _ _ _
  · exact h.same rfl rfl rfl

theorem counterZero (h : Kept a s) (k : Nat) : Kept a (s.counterZero k) := by
  simp only [State.counterZero]
  apply Kept.wakeAll
  refine Kept.same (foldl (fun s x => ?_) s.parts h) rfl rfl rfl
  exact foldl (fun s t => (rfl' s).readySpawned _ _ _) _ ((rfl' s).modPart _ _)

theorem placeWaiters (h : Kept a s) (sel : Nat → Nat → Nat → Bool) : Kept a (s.placeWaiters sel) := h.same rfl rfl rfl

theorem counterWakes (before : State) (h : Kept a s) : Kept a (State.counterWakes before s) := by
  refine foldl (fun s k => (rfl' s).counterZero k) _ ?_
  split
  · exact h.placeWaiters _
  · exact h

theorem performWrites (h : Kept a s) (p : Nat) (ws : List ByteWrite) : Kept a (s.performWrites p ws) := (h.writeLines p ws _).counterWakes s

end Kept

end Sys2Proof.Machine
end

