-- ==== Sys2Proof/Laws/Kept.lean ====
section
/-! SUPPORT. The operations that words and events share leave the clock's step, the power cap and the canonical form of memory:
completions, walks, barriers, retirement, stopped launches, traps and faults, accesses to memory, the issue of a word. -/
namespace Sys2Proof.Machine.Kept

variable {a s : State}

/-! ### Places of warps, completions, walks -/

theorem parkWarp (h : Kept a s) (c i : Nat) (p : Park) : Kept a (s.parkWarp c i p) := by
  simp only [State.parkWarp]
  exact (h.setWarp _ _ _).modCore _ _

theorem yieldTurn (h : Kept a s) (c i : Nat) : Kept a (s.yieldTurn c i) := by
  simp only [State.yieldTurn]
  apply Kept.modCore
  split
  · exact h.setWarp _ _ _
  · exact h

theorem leaveIssue (h : Kept a s) (c i : Nat) (x : WState) : Kept a (s.leaveIssue c i x) := by
  simp only [State.leaveIssue]
  exact (h.setWarp _ _ _).modCore _ _

theorem complete (h : Kept a s) (p f c ag lid : Nat) (va : Word) (st : Nat) (o : Origin := .other) {xyz : Nat × Nat × Nat} :
    Kept a (s.complete p f c ag lid va st o xyz) := by
  unfold State.complete
  split
  · exact h
  · exact h.same rfl rfl rfl

theorem modWalk (h : Kept a s) (c w : Nat) (f : Walk → Walk) : Kept a (s.modWalk c w f) := h.modCore _ _

theorem walkDone (h : Kept a s) (c w st : Nat) : Kept a (s.walkDone c w st) := by
  simp only [State.walkDone]
  split
  · exact h
  · exact foldl (fun s i => (rfl' s).wakeWarp _ i) _ ((h.modCore _ _).complete _ _ _ _ _ _ _ _)

theorem stopWalk (h : Kept a s) (c w st : Nat) : Kept a (s.stopWalk c w st) := by
  simp only [State.stopWalk]
  split
  · exact h
  · split
    · exact h
    · exact h
    · exact h.walkDone _ _ _
    · exact ((h.modWg _ _).nextFree.modCore _ _).modWalk _ _ _

/-! ### Atomic buffers and barriers -/

theorem applyEntry (h : Kept a s) {p f c : Nat} {g : Option Nat} {r : FaultRec} {e : BufEntry} {t : State}
    (ht : s.applyEntry p f c g r e = .ok t) : Kept a t := by
  simp only [State.applyEntry] at ht
  split at ht
  · cases ht
  · split at ht
    · cases ht
    · rw [← Except.ok.inj ht]
      exact (((h.findErrors _ _ _ _).heatLines _ _ _).reportDropped _ _ _).performWrites _ _

theorem flushEntries (k c : Nat) : ∀ (es : List BufEntry) {s : State}, Kept a s → Kept a (s.flushEntries k c es).1
  | [], _, h => h
  | e :: r, s, h => by
    simp only [State.flushEntries]
    split
    · exact flushEntries k c r (h.modLaunch _ _)
    · split
      · next t ht => exact flushEntries k c r (h.applyEntry ht)
      · split
        · exact flushEntries k c r (h.reportProtect _)
        · exact h

theorem flushBarrier (h : Kept a s) (k g : Nat) : Kept a (s.flushBarrier k g).1 := by
  simp only [State.flushBarrier]
  refine foldl_fst (fun x j => ?_) _ h
  obtain ⟨s, ok⟩ := x
  dsimp only
  split
  · exact rfl' s
  · split
    · dsimp only
      apply Kept.modWg
      apply Kept.reportPage
      apply flushEntries
      exact foldl (fun s j => (rfl' s).modWg j _) _ (foldl (fun s i => (rfl' s).modWarp _ i _) _ (rfl' s))
    · dsimp only
      apply flushEntries
      exact foldl (fun s j => (rfl' s).modWg j _) _ (foldl (fun s i => (rfl' s).modWarp _ i _) _ (rfl' s))

/-- The members of a barrier that stand parked on it wake. -/
theorem wakeMembers (h : Kept a s) (g : Nat) (ms : List (Nat × Nat × Nat)) :
    Kept a (ms.foldl (fun s (_, c, i) => if (s.warp c i).parkOn = some (.barrier g) then s.wakeWarp c i else s) s) := by
  refine foldl (fun s x => ?_) _ h
  obtain ⟨j, c, i⟩ := x
  dsimp only
  split
  · exact (rfl' s).wakeWarp _ _
  · exact rfl' s

theorem completeBarrier (h : Kept a s) (k g : Nat) : Kept a (s.completeBarrier k g) := by
  simp only [State.completeBarrier]
  split
  · split
    · split
      · exact ((foldl (fun s j => (rfl' s).modWg _ _) _ ((h.flushBarrier k g).modFunc _ _))).wakeMembers g _
      · exact h.flushBarrier k g
    · split
      · exact ((foldl (fun s j => (rfl' s).modWg _ _) _ (h.modFunc _ _))).wakeMembers g _
      · exact h
  · exact h

theorem arrive (h : Kept a s) (k g i : Nat) (fl : Bool) : Kept a (s.arrive k g i fl) := h.modWg _ _

/-! ### Retirement and stopped launches -/

theorem accepted (h : Kept a s) : Kept a s.accepted := h.same rfl rfl rfl

theorem startSlice (h : Kept a s) (g : Workgroup) : Kept a (s.startSlice g) := by
  simp only [State.startSlice]
  split
  · exact h
  · exact h.accepted.modPart _ _

theorem dropWg (h : Kept a s) (k : Nat) : Kept a (s.dropWg k) := (h.modPart _ _).setWg _ _

theorem releaseWg (h : Kept a s) (k : Nat) : Kept a (s.releaseWg k) := by
  simp only [State.releaseWg]
  exact ((((foldl (fun s i => (rfl' s).setWarp _ i noWarp) _ h).modCore _ _).dropWg _).modLaunch _ _).startSlice _

theorem discardTasks (h : Kept a s) (k : Nat) : Kept a (s.discardTasks k) := by
  simp only [State.discardTasks]
  exact ((foldl (fun s t => (rfl' s).complete _ _ _ _ _ _ _ _) _ h).modPart _ _).modWg _ _

theorem takeBuffers (h : Kept a s) (c k : Nat) : Kept a (s.takeBuffers c k) := by
  simp only [State.takeBuffers]
  exact (foldl (fun s i => (rfl' s).modWarp _ i _) _ h).modWg _ _

theorem finishWg (h : Kept a s) (k : Nat) : Kept a (s.finishWg k) := by
  simp only [State.finishWg]
  have hx := fun c es => flushEntries k c es (h.takeBuffers (s.wg k).core k)
  split
  · exact ((hx _ _).reportPage _).modWg _ _
  · split
    · exact ((hx _ _).modWg _ _).releaseWg _
    · exact ((hx _ _).modWg _ _).modWg _ _

theorem retireWg (h : Kept a s) (k : Nat) : Kept a (s.retireWg k) := by
  simp only [State.retireWg]
  split
  · exact (h.discardTasks _).finishWg _
  · exact h.discardTasks _

theorem settleDrain (h : Kept a s) (k : Nat) : Kept a (s.settleDrain k) := by
  unfold State.settleDrain
  split
  · exact h.retireWg _
  · exact h

theorem completeBarriers (h : Kept a s) (k : Nat) (gs : List Nat) : Kept a (gs.foldl (fun s g => s.completeBarrier k g) s) :=
  foldl (fun s g => (rfl' s).completeBarrier k g) gs h

theorem endTask (h : Kept a s) (c k t : Nat) : Kept a (s.endTask c k t) := by
  simp only [State.endTask]
  split
  · exact h
  · apply Kept.modWg
    split
    · exact h.complete _ _ _ _ _ _ _ _
    · exact h

theorem retireWarp (h : Kept a s) (c i : Nat) : Kept a (s.retireWarp c i) := by
  have key : ∀ (t : State) (k : Nat) (b : Bool), Kept a t → Kept a (if b then t.retireWg k else t) := by
    intro t k b ht
    split
    · exact ht.retireWg _
    · exact ht
  simp only [State.retireWarp]
  apply key
  have hb := fun f g j => completeBarriers ((((((h.leaveIssue c i .retired).setWarp c i noWarp).modCore c
    (fun x => { x with walks := x.walks.map (fun x => if x.slot = i ∧ x.wg = (s.warp c i).wg then { x with slot := 64 } else x) })).modWg
      (s.warp c i).wg f).modWg (s.warp c i).wg g).modWg (s.warp c i).wg j) (s.warp c i).wg (s.warp c i).grps
  split
  · exact hb _ _ _
  · exact (hb _ _ _).endTask _ _ _

theorem abortSenders (h : Kept a s) (p : Nat) (w : Walk) (f : Walk → Bool) : Kept a (s.abortSenders p w f) := by
  have h := foldl (f := fun s (x : Nat × Walk) => s.stopWalk x.1 x.2.wid 0x41) (fun s _ => (rfl' s).stopWalk _ _ _) ((s.senders p w).filter (fun (_, x) => f x)) h
  simp only [State.abortSenders]
  split
  · exact h.same rfl rfl rfl
  · exact h

theorem abortWalk (h : Kept a s) (c w st : Nat) : Kept a (s.abortWalk c w st) := by
  simp only [State.abortWalk]
  split
  · exact h
  · split
    · exact h
    · exact (h.stopWalk _ _ _).abortSenders _ _ _

theorem removeLaunch (h : Kept a s) (lid : Nat) : Kept a (s.removeLaunch lid) := (h.modPart _ _).setLaunch _ _

theorem endBound (h : Kept a s) (lid st : Nat) : Kept a (s.endBound lid st) := by
  simp only [State.endBound]
  split
  · exact h
  · exact (h.modPart _ _).complete _ _ _ _ _ _ _ _

theorem endLaunch (h : Kept a s) (lid st : Nat) : Kept a (s.endLaunch lid st) := by
  simp only [State.endLaunch]
  split
  · exact h
  · split
    · exact ((h.endBound _ _).modPart _ _).removeLaunch _
    · exact (((h.endBound _ _).modPart _ _).complete _ _ _ _ _ _ _ _).setLaunch _ _

theorem endWalks (h : Kept a s) (c k : Nat) (e : Nat → Bool) (st : Nat → Nat) : Kept a (s.endWalks c k e st) :=
  foldl (fun s _ => ((rfl' s).walkDone _ _ _).abortSenders _ _ _) _ h

theorem stopWgs (h : Kept a s) (lid : Nat) (bad : Option Nat) : Kept a (s.stopWgs lid bad) := by
  refine foldl (fun s k => ?_) _ h
  dsimp only
  exact (foldl (fun s i => ((rfl' s).leaveIssue _ i _).setWarp _ i noWarp) _
    (((foldl (fun s t => (rfl' s).complete _ _ _ _ _ _ _ _) _ ((rfl' s).endWalks _ _ _ _)).modPart _ _).modCore _ _)).dropWg _

theorem endSavedWalks (h : Kept a s) (v : SavedWg) (e : Nat → Bool) (st : Nat) : Kept a (s.endSavedWalks v e st) := by
  refine foldl (fun s w => ?_) _ h
  split
  · exact rfl' s
  · exact ((rfl' s).complete _ _ _ _ _ _ _ _).abortSenders _ _ _

theorem stopSaved (h : Kept a s) (lid : Nat) : Kept a (s.stopSaved lid) := by
  simp only [State.stopSaved]
  refine foldl (fun s c => (rfl' s).modCore _ _) _ (Kept.modFunc (foldl (fun s v => ?_) _ h) _ _)
  split
  · exact foldl (fun s t => (rfl' s).complete _ _ _ _ _ _ _ _) _ ((rfl' s).endSavedWalks _ _ _)
  · exact rfl' s

theorem stopLaunch (h : Kept a s) (lid cause : Nat) (bad : Option Nat) (r : FaultRec) : Kept a (s.stopLaunch lid cause bad r) :=
  (((h.stopWgs _ _).stopSaved _).report _).endLaunch _ _

theorem stopAt (h : Kept a s) (c : Ctx) (cause : Nat) (w i : Word) (va fl : Nat) : Kept a (Machine.stopAt c s cause w i va fl) := h.stopLaunch _ _ _ _

/-! ### Traps and faults -/

theorem takeTrap (h : Kept a s) (c : Ctx) (cause : Nat) (ls : LaneMask) (info w : Word) : Kept a (Machine.takeTrap c s cause ls info w) := by
  simp only [Machine.takeTrap]
  split
  · exact h.stopAt _ _ _ _ _ _
  · split
    · exact h.stopAt _ _ _ _ _ _
    · exact h.setIssuerWarp _ _

theorem freezeAt (h : Kept a s) (c : Ctx) (w : Word) (va fl : Nat) : Kept a (Machine.freezeAt c s w va fl) := by
  simp only [Machine.freezeAt]
  split
  · exact h.stopAt _ _ _ _ _ _
  · exact (h.leaveIssue _ _ _).reportProtect _

theorem parkFault (h : Kept a s) (c : Ctx) (cause : Nat) (w : Word) (va fl : Nat) : Kept a (Machine.parkFault c s cause w va fl) := by
  simp only [Machine.parkFault]
  apply Kept.reportPage
  split
  · exact (h.modIssuer _ _).parkWarp _ _ _
  · exact (h.modIssuer _ _).modIssuer _ _

/-! ### Accesses to device memory -/

theorem readPlaces (h : Kept a s) (c : Ctx) (ps : List (Nat × List (Page × Nat))) : Kept a (Machine.readPlaces c s ps).1 :=
  (h.findErrors _ _ _ _).heatLines _ _ _

theorem writeErrors (h : Kept a s) (p : Nat) (g : Option Nat) (r : FaultRec) (ws : List ByteWrite) (ls : List (Page × Nat)) :
    Kept a (s.writeErrors p g r ws ls) := by
  simp only [State.writeErrors]
  refine Kept.reportDropped (Kept.findErrors (foldl (fun s x => ?_) _ h) _ _ _ _) _ _ _
  obtain ⟨pg, off⟩ := x
  dsimp only
  split
  · exact (rfl' s).same rfl rfl rfl
  · exact rfl' s

theorem tryWrites (h : Kept a s) {p : Nat} {g : Option Nat} {r : FaultRec} {q : Nat} {ws : List ByteWrite} {t : State}
    (ht : s.tryWrites p g r q ws = .ok t) : Kept a t := by
  simp only [State.tryWrites] at ht
  split at ht
  · cases ht
  · rw [← Except.ok.inj ht]
    exact ((h.writeErrors _ _ _ _ _).heatLines _ _ _).performWrites _ _

theorem spLoad (h : Kept a s) (c : Ctx) (es : List (Nat × Nat)) (n k : Nat) (take : Bool) : Kept a (Machine.spLoad c s es n k take).1 := h.setWg _ _

/-! ### The issue of a word -/

/-- The state that an answer carries. -/
def after : Res → State
  | .done s _ | .jump s _ | .stay s _ | .wait s _ | .trap s _ _ _ | .stop s _ _ | .over s => s

theorem slotUsed (h : Kept a s) (who : Issuer) : Kept a (s.slotUsed who) := by
  unfold State.slotUsed
  split
  · exact h.modCore _ _
  · exact h

theorem memFault (h : Kept a s) (c : Ctx) (w : Word) (cause fl va : Nat) : Kept a (after (Machine.memFault c s w cause fl va)) := by
  simp only [Machine.memFault, after]
  apply Kept.slotUsed
  split
  · exact (h.modIssuer _ _).freezeAt _ _ _ _
  · exact h.parkFault _ _ _ _ _

/-- What an access to memory answers: the state after it, or the fault's. -/
def afterLoad {β : Type} : Except Res (State × β) → State
  | .ok (s, _) => s
  | .error r => after r
def afterStore : Except Res State → State
  | .ok s => s
  | .error r => after r

theorem devLoad (h : Kept a s) (c : Ctx) (w : Word) (es : List (Nat × Nat)) (n : Nat) : Kept a (afterLoad (Machine.devLoad c s w es n)) := by
  simp only [Machine.devLoad]
  split
  · exact h.memFault _ _ _ _ _
  · exact h.readPlaces _ _

theorem devStore (h : Kept a s) (c : Ctx) (w : Word) (es : List (Nat × Nat)) (n : Nat) (d : Nat → List Byte) :
    Kept a (afterStore (Machine.devStore c s w es n d)) := by
  simp only [Machine.devStore]
  split
  · exact h.memFault _ _ _ _ _
  · split
    · next ht => exact h.tryWrites ht
    · simp only [afterStore]
      exact h.memFault _ _ _ _ _

theorem loadRecord (h : Kept a s) (c : Ctx) (w : Word) (sp : Bool) (k n : Nat) : Kept a (afterLoad (Machine.loadRecord c s w sp k n)) := by
  simp only [Machine.loadRecord]
  split
  · exact h.spLoad _ _ _ _ _
  · have hl := h.devLoad c w [(0, k)] n
    split
    · next e => rw [e] at hl; exact hl
    · next e => rw [e] at hl; exact hl

theorem launchFlight (h : Kept a s) (c : Ctx) (k : FlightKind) (rs : List Reg) (ws : List RegWrite) (l : Late) (b g : Bool) :
    Kept a (Machine.launchFlight c s k rs ws l b g) := h.modIssuer _ _

theorem fly (h : Kept a s) (c : Ctx) (ws : List RegWrite) : Kept a (after (Machine.fly c s ws)) := by
  simp only [Machine.fly]
  split
  · exact h
  · exact h.launchFlight _ _ _ _ _ _ _

theorem endTurn (h : Kept a s) (c : Ctx) (gw : Bool) : Kept a (s.endTurn c gw) := by
  have h := h.slotUsed c.who
  simp only [State.endTurn]
  split
  · exact h.modPart _ _
  · split
    · exact h.yieldTurn _ _
    · exact h

theorem finish (h : Kept a s) (i : Instr) (c : Ctx) (rs : List Reg) (f : Warp → Warp) : Kept a (Machine.finish i c s rs f) := by
  simp only [Machine.finish]
  exact (h.modIssuer _ _).endTurn _ _

theorem blockWarp (h : Kept a s) (c : Ctx) (b : Block) : Kept a (s.blockWarp c b) := by
  simp only [State.blockWarp]
  split
  · exact h
  · exact (h.yieldTurn _ _).modWarp _ _ _

theorem apply (r : Res) (i : Instr) (c : Ctx) (h : Kept a (after r)) : Kept a (r.apply i c) := by
  cases r <;> simp only [Res.apply]
  · exact Kept.finish h _ _ _ _
  · exact Kept.finish h _ _ _ _
  · exact Kept.finish h _ _ _ _
  · exact Kept.blockWarp h _ _
  · exact (Kept.takeTrap (Kept.modIssuer h _ _) _ _ _ _ _).endTurn _ _
  · exact (Kept.stopAt h _ _ _ _ _ _).slotUsed _
  · exact h

/-- A word whose effect keeps them keeps them, whatever its checks come to. -/
theorem runWord (i : Instr) (body : Ctx → State → Res) (c : Ctx) (h : Kept a s) (hb : Kept a (after (body c s))) : Kept a (Machine.runWord i body c s) := by
  simp only [Machine.runWord]
  split
  · exact apply (.wait s .hold) i c h
  · split
    · exact apply (.stop s _ _) i c h
    · split
      · exact apply (.stop s _ _) i c h
      · split
        · exact apply (.stop s _ _) i c h
        · split
          · exact apply (.trap s _ _ _) i c h
          · split
            · exact apply (.wait s _) i c h
            · split
              · exact apply (.trap s _ _ _) i c h
              · split
                · exact (h.modWg _ _).stopLaunch _ _ _ _
                · exact apply _ i c hb

theorem issueWord {i : Instr} {body : Ctx → State → Res} {t : State} (hb : ∀ c, Kept s (after (body c s)))
    (ht : Machine.issueWord i body s = .next t) : Kept s t := by
  simp only [Machine.issueWord] at ht
  split at ht
  · cases ht
  · injection ht with ht
    exact ht ▸ runWord i body _ (rfl' s) (hb _)

/-! ### The scratchpad's full-empty bits -/

theorem feLoad (h : Kept a s) (c : Ctx) (m : FeMode) (w : Width) (b : BitVec 6) (o : BitVec 20) (d : Operand) :
    Kept a (after (Machine.feLoad c s m w b o d)) := by
  simp only [Machine.feLoad]
  exact ((h.spLoad c _ _ _ _).modIssuer _ _).fly _ _

theorem flown {r : Res} (hr : Kept a (after r)) (h : Kept a s) : Kept a (r.flown s) := by
  unfold Res.flown
  split
  · exact hr
  · exact h

theorem completeFe (h : Kept a s) (c i : Nat) : Kept a (s.completeFe c i) := by
  simp only [State.completeFe]
  split
  · exact (Kept.modWarp (flown (h.feLoad _ _ _ _ _ _) h) _ _ _).wakeWarp _ _
  · exact h.wakeWarp _ _

theorem wakeTakes (c : Nat) (is : List Nat) : ∀ (n : Nat) {s : State}, Kept a s → Kept a (s.wakeTakes c is n)
  | 0, _, h => h
  | n + 1, s, h => by
    simp only [State.wakeTakes]
    split
    · exact h
    · exact wakeTakes c is n (h.completeFe _ _)

theorem refreshSlots (h : Kept a s) (c k : Nat) : Kept a (s.refreshSlots c k) := by
  simp only [State.refreshSlots]
  exact h.modCore _ _

theorem afterFill (h : Kept a s) (k : Nat) : Kept a (s.afterFill k) := by
  simp only [State.afterFill]
  refine wakeTakes _ _ 64 (foldl (fun s i => ?_) _ (h.refreshSlots _ _))
  split
  · exact (rfl' s).completeFe _ _
  · exact rfl' s

theorem fillGranules (h : Kept a s) (k : Nat) (gs : List Nat) : Kept a (s.fillGranules k gs) := by
  simp only [State.fillGranules]
  split
  · exact h
  · exact (h.modWg _ _).afterFill _

theorem engineSpPut (h : Kept a s) (k w x : Nat) (bs : List Byte) : Kept a (s.engineSpPut k w x bs).1 := by
  simp only [State.engineSpPut]
  split
  · exact h
  · split
    · exact h.setWg _ _
    · exact h.setWg _ _

theorem engineSpRead (h : Kept a s) (k w x n : Nat) : Kept a (s.engineSpRead k w x n).1 := by
  simp only [State.engineSpRead]
  split
  · exact h
  · exact h.setWg _ _

/-! ### The journal, turns and time -/

theorem journalRaw (h : Kept a s) (f : Nat) (bs : List Byte) : Kept a (s.journalRaw f bs) := by
  simp only [State.journalRaw]
  split
  · exact (h.hbmStore _ _ _).modFunc _ _
  · exact h
theorem journal (h : Kept a s) (f k l x y : Nat) : Kept a (s.journal f k l x y) := h.journalRaw _ _
theorem jrnTake (h : Kept a s) (f k i : Nat) : Kept a (s.jrnTake f k i) := h.modFunc _ _

theorem select (h : Kept a s) (c i : Nat) (p : Bool) : Kept a (s.select c i p) := by
  simp only [State.select]
  exact (h.modWarp _ _ _).modCore _ _
theorem handOver (h : Kept a s) (c i : Nat) : Kept a (s.handOver c i) := by
  simp only [State.handOver]
  split
  · split
    · exact h
    · exact (h.yieldTurn _ _).select _ _ _
  · exact h

theorem settleCharge (h : Kept a s) (p : Nat) : Kept a (s.settleCharge p) := by
  simp only [State.settleCharge]
  split
  · exact h
  · split
    · exact (Kept.modFunc h _ _).modFunc _ _
    · exact h

theorem advanceTime (h : Kept a s) (dt : Nat) : Kept a (s.advanceTime dt) := by
  simp only [State.advanceTime]
  split
  · exact h
  · refine Kept.same (foldl (fun s c => ?_) _ (foldl (fun s p => (rfl' s).settleCharge p) _ h)) rfl rfl rfl
    exact (rfl' s).setCore _ _

theorem prologueOver (h : Kept a s) {p : Nat} {t : State} (ht : s.prologueOver p = some t) : Kept a t := by
  simp only [State.prologueOver] at ht
  split at ht
  · cases ht
  · split at ht
    · cases ht
    · rw [← Option.some.inj ht]
      exact h.stopLaunch _ _ _ _

/-- What a fetch leaves, the state without its samples too. -/
def OfFetch (a : State) : Fetched → Prop
  | .run s back _ => Kept a s ∧ Kept a back
  | .halt s => Kept a s

/-- The same of the read of a word. -/
def OfWord (a : State) : Except State (State × State × Word) → Prop
  | .ok (s, back, _) => Kept a s ∧ Kept a back
  | .error s => Kept a s

theorem fetchWord (h : Kept a s) (c : Ctx) : OfWord a (Machine.fetchWord c s) := by
  simp only [Machine.fetchWord]
  split
  · simp only [OfWord]
    split
    · exact h.freezeAt _ _ _ _
    · exact h.parkFault _ _ _ _ _
  · split
    · exact h.freezeAt _ _ _ _
    · exact ⟨h.readPlaces _ _, h.findErrors _ _ _ _⟩

theorem fixReg (h : Kept a s) (k : Nat) (w : Word) : Kept a (s.fixReg k w) := by
  unfold State.fixReg
  split
  · exact h.modWg _ _
  · exact h

theorem fetch (h : Kept a s) : OfFetch a s.fetch := by
  simp only [State.fetch]
  split
  · next ht =>
    simp only [State.overrun] at ht
    split at ht
    · exact h.prologueOver ht
    · cases ht
  · split
    · exact h
    · next w e _ =>
      have hf := h.fetchWord (s.ctx w e (hdrOf (.illegal 0)))
      split
      · next ht => rw [ht] at hf; exact ⟨hf.1.fixReg _ _, hf.2.fixReg _ _⟩
      · next ht => rw [ht] at hf; exact hf

theorem issueTurn (h : Kept a s) (c i : Nat) : OfFetch a (s.issueTurn c i) := by
  simp only [State.issueTurn]
  split
  · exact h.handOver _ _
  · exact Kept.fetch ((h.handOver _ _).same rfl rfl rfl)

end Sys2Proof.Machine.Kept
end

