-- ==== Sys2Proof/Laws/Lane.lean ====
section
/-! SUPPORT. Register writes of lane operations, and what a short word with a register or predicate destination does. -/
namespace Sys2Proof.Safety
open Sys2Proof.Machine

/-! ### Register reads after writes -/

theorem laneAt_mkVec (f : Nat → Word) (l : Nat) : laneAt (mkVec f) l = if l < 64 then f l else 0 := by
  simp only [laneAt, mkVec, List.getD_eq_getElem?_getD, Vector.getElem?_toList]
  by_cases h : l < 64 <;> simp [h]

theorem readV_writeV (w : Warp) (r n : Nat) (m : LaneMask) (f : Nat → Word) (l : Nat) (hl : l < 64) :
    (w.writeV r m f).readV n l = if n = r ∧ m.getLsbD l = true then f l else w.readV n l := by
  simp only [Warp.readV, Warp.writeV, get_put]
  by_cases hn : n = r
  · subst hn; simp [laneAt_mkVec, hl]
  · simp [hn]

theorem readS_writeS (w : Warp) (k n : Nat) (x : Word) : (w.writeS k x).readS n = if n = k then x else w.readS n := by
  simp [Warp.readS, Warp.writeS, get_put]

theorem readP_writeP (w : Warp) (k j : Nat) (m v : LaneMask) (l : Nat) (hl : l < 64) :
    ((w.writeP k m v).readP j).getLsbD l = if j = k ∧ k ≠ 0 ∧ m.getLsbD l = true then v.getLsbD l else (w.readP j).getLsbD l := by
  simp only [Warp.writeP]
  by_cases hk : k = 0
  · simp [hk]
  · by_cases hj : j = k
    · subst hj
      simp only [hk, if_false, Warp.readP, get_put, if_true]
      simp only [BitVec.getLsbD_or, BitVec.getLsbD_and, BitVec.getLsbD_not, hl]
      cases h : m.getLsbD l <;> simp [hk]
    · by_cases h0 : j = 0
      · subst h0; simp [Warp.readP, hk, Ne.symm hk]
      · simp [Warp.readP, hk, hj, h0, get_put]

theorem maskOf_getLsbD (f : Nat → Bool) (l : Nat) (hl : l < 64) : (maskOf f).getLsbD l = f l := by
  have key : ∀ n, n ≤ 64 → ∃ k, k < 2 ^ n ∧ (List.range n).foldl (fun acc l => if f l then acc + 2 ^ l else acc) 0 = k ∧
      ∀ j, j < n → k.testBit j = f j := by
    intro n
    induction n with
    | zero => intro _; exact ⟨0, by simp, rfl, by simp⟩
    | succ n ih =>
      intro hn
      obtain ⟨k, hk, he, hb⟩ := ih (by omega)
      rw [List.range_succ, List.foldl_append, he]
      cases hf : f n
      · refine ⟨k, by omega, by simp [hf], fun j hj => ?_⟩
        by_cases h : j = n
        · subst h; rw [hf]; exact Nat.testBit_lt_two_pow hk
        · exact hb j (by omega)
      · refine ⟨k + 2 ^ n, by omega, by simp [hf], fun j hj => ?_⟩
        by_cases h : j = n
        · subst h; rw [hf, Nat.add_comm, Nat.testBit_two_pow_add_eq]; simp [Nat.testBit_lt_two_pow hk]
        · rw [Nat.add_comm, Nat.testBit_two_pow_add_gt (by omega)]; exact hb j (by omega)
  obtain ⟨k, hk, he, hb⟩ := key 64 (by omega)
  simp only [maskOf, lanes, he, BitVec.getLsbD_ofNat]
  simp [hl, hb l hl]

/-! ### A short word's effect on the issuing warp -/

theorem setFrontier_frontier (w w' : Warp) (now : Nat) (f : List Entry) (h : w'.spilled = w.spilled) :
    (w'.setFrontier now f).frontier = (w.setFrontier now f).frontier ∧ (w'.setFrontier now f).spilled = (w.setFrontier now f).spilled := by
  simp only [Warp.setFrontier, h]
  constructor <;> (split <;> simp [Warp.count])

theorem steady_setFrontier (w : Warp) (now : Nat) (f : List Entry) : steady (w.setFrontier now f) = steady w := by
  simp only [steady, Warp.setFrontier]; split <;> simp [Warp.count]

theorem steady_replaceEntry (w : Warp) (now : Nat) (e : Entry) (es : List Entry) : steady (w.replaceEntry now e es) = steady w :=
  steady_setFrontier _ _ _

theorem steady_advance (w : Warp) (now : Nat) (e : Entry) : steady (w.advance now e) = steady w := steady_setFrontier _ _ _

theorem steady_issued (w : Warp) (now : Nat) (i : Instr) (pc : Word) (regs : List Reg) : steady (w.issued now i pc regs) = steady w := by
  simp [steady, Warp.issued, Warp.countWord, Warp.count]

theorem issued_frontier (w : Warp) (now : Nat) (i : Instr) (pc : Word) (regs : List Reg) :
    (w.issued now i pc regs).frontier = w.frontier ∧ (w.issued now i pc regs).spilled = w.spilled := by
  simp [Warp.issued, Warp.countWord, Warp.count]

theorem steady_unscheduled {w g : Warp} (h : unscheduled w = unscheduled g) : steady w = steady g :=
  congrArg (fun w : Warp => ({ w with frontier := [], spilled := [], windows := [], events := [] } : Warp)) h

/-- The state after a word whose effect leaves all but the issuing warp, which becomes `g`. -/
theorem after_finish {i : Instr} {c : Ctx} {s u : State} {g : Warp} (h : Issues i s c) (he : Elsewhere s u)
    (hp : Present u c.who) (hg : u.issuerWarp c.who = g) (regs : List Reg) (front : Warp → Warp) :
    Elsewhere s (finish i c u regs front) ∧
      unscheduled ((finish i c u regs front).issuerWarp s.cur) = unscheduled (front (g.issued s.now i c.e.pc regs)) := by
  have hw := h.who
  have he2 := elsewhere_finish i c u regs front (hw.trans he.cur.symm)
  have hn : u.now = s.now := by
    have := congrArg State.now he.rest
    exact this
  have hu := unscheduled_finish i c u regs front hp
  rw [hg, hn, hw] at hu
  exact ⟨he.trans he2, hu⟩

theorem after_advance {i : Instr} {c : Ctx} {s u : State} {g : Warp} (h : Issues i s c) (he : Elsewhere s u)
    (hp : Present u c.who) (hg : u.issuerWarp c.who = g) (hf : g.frontier = c.w.frontier) (hs : g.spilled = c.w.spilled)
    (regs : List Reg) : Performed s ((Res.done u regs).apply i c) c g := by
  have hn : u.now = s.now := by
    have := congrArg State.now he.rest
    exact this
  obtain ⟨het, hu⟩ := after_finish h he hp hg regs (fun w => w.advance s.now c.e)
  simp only [Res.apply, hn]
  refine ⟨het, ?_, ?_, ?_⟩
  · rw [steady_unscheduled hu, steady_advance, steady_issued]
  · have := congrArg Warp.frontier hu
    simp only [unscheduled] at this
    rw [this]
    have hi := issued_frontier g s.now i c.e.pc regs
    simp only [Warp.advance, Warp.replaceEntry, hi.1, hf]
    exact (setFrontier_frontier _ _ _ _ (hi.2.trans hs)).1
  · have := congrArg Warp.spilled hu
    simp only [unscheduled] at this
    rw [this]
    have hi := issued_frontier g s.now i c.e.pc regs
    simp only [Warp.advance, Warp.replaceEntry, hi.1, hf]
    exact (setFrontier_frontier _ _ _ _ (hi.2.trans hs)).2

/-- The issuing warp after a short word whose effect on it is `g`. -/
theorem after_done {i : Instr} {c : Ctx} {s : State} (h : Issues i s c) (g : Warp → Warp) (regs : List Reg)
    (hf : (g c.w).frontier = c.w.frontier) (hs : (g c.w).spilled = c.w.spilled) :
    Performed s ((Res.done (s.modIssuer c.who g) regs).apply i c) c (g c.w) := by
  have hw := h.who
  have hp := hw ▸ h.present
  refine after_advance h (hw ▸ elsewhere_modIssuer s g) (present_modIssuer hp g) ?_ hf hs regs
  rw [issuerWarp_modIssuer hp, hw, h.warp]

/-- The issuing warp after a short word that does not act on it. -/
theorem after_nothing {i : Instr} {c : Ctx} {s : State} (h : Issues i s c) (regs : List Reg) :
    Performed s ((Res.done s regs).apply i c) c c.w := by
  have hw := h.who
  exact after_advance h (Elsewhere.refl s) (hw ▸ h.present) (by rw [hw, h.warp]) rfl rfl regs

/-- The issuing warp after a branch. -/
theorem after_jump {i : Instr} {c : Ctx} {s u : State} {g : Warp} (h : Issues i s c) (he : Elsewhere s u)
    (hp : Present u c.who) (hg : u.issuerWarp c.who = g) (hf : g.frontier = c.w.frontier) (hs : g.spilled = c.w.spilled)
    (es : List Entry) : Elsewhere s ((Res.jump u es).apply i c) ∧
      steady (((Res.jump u es).apply i c).issuerWarp s.cur) = steady g ∧ Branched s c es (((Res.jump u es).apply i c).issuerWarp s.cur) := by
  have hn : u.now = s.now := by
    have := congrArg State.now he.rest
    exact this
  obtain ⟨het, hu⟩ := after_finish h he hp hg [] (fun w => w.replaceEntry s.now c.e es)
  simp only [Res.apply, hn]
  refine ⟨het, ?_, ?_, ?_⟩
  · rw [steady_unscheduled hu, steady_replaceEntry, steady_issued]
  · have := congrArg Warp.frontier hu
    simp only [unscheduled] at this
    rw [this]
    have hi := issued_frontier g s.now i c.e.pc []
    simp only [Warp.replaceEntry, hi.1, hf]
    exact (setFrontier_frontier _ _ _ _ (hi.2.trans hs)).1
  · have := congrArg Warp.spilled hu
    simp only [unscheduled] at this
    rw [this]
    have hi := issued_frontier g s.now i c.e.pc []
    simp only [Warp.replaceEntry, hi.1, hf]
    exact (setFrontier_frontier _ _ _ _ (hi.2.trans hs)).2

/-! ### Destinations -/

theorem writeDst_keeps (c : Ctx) (w : Warp) (d : Operand) (f : Nat → Word) :
    RegsOnly w (writeDst c w d f) ∧ (writeDst c w d f).frontier = w.frontier ∧ (writeDst c w d f).spilled = w.spilled := by
  cases d <;> simp [writeDst, Warp.writeV, RegsOnly] <;> split <;> simp [Warp.writeS]

theorem writeP_keeps (w : Warp) (k : Nat) (m v : LaneMask) :
    RegsOnly w (w.writeP k m v) ∧ (w.writeP k m v).frontier = w.frontier ∧ (w.writeP k m v).spilled = w.spilled := by
  simp only [Warp.writeP, RegsOnly]; split <;> simp

/-- What a destination's write leaves in the registers, the warp's other fields apart. -/
theorem writeDst_wrote (c : Ctx) (w : Warp) (d : Operand) (f g : Nat → Word) (hfg : ∀ l, l < 64 → g l = f l)
    (hv : w.v = c.w.v) (hs : w.s = c.w.s) (hp : w.p = c.w.p) (hx : w.x = c.w.x) : Wrote c d f (writeDst c w d g) := by
  have hvx (i : BitVec 2) (o : BitVec 6) : vxReg w i o = vxReg c.w i o := by simp [vxReg, Warp.readX, hx]
  have rv (n l : Nat) : w.readV n l = c.w.readV n l := by simp [Warp.readV, hv]
  have rs (n : Nat) : w.readS n = c.w.readS n := by simp [Warp.readS, hs]
  refine ⟨?_, ?_, ?_, ?_⟩
  · intro n l hl
    cases d with
    | v k => simp only [writeDst, readV_writeV _ _ _ _ _ _ hl, vectorOf, Option.some.injEq, hfg l hl, eq_comm, rv]
    | vx a b => simp only [writeDst, readV_writeV _ _ _ _ _ _ hl, vectorOf, Option.some.injEq, hfg l hl, eq_comm, rv]
    | s k =>
      simp only [writeDst, vectorOf]
      split
      · simp [rv]
      · simpa [Warp.writeS, Warp.readV] using rv n l
    | sp k => simpa [writeDst, vectorOf] using rv n l
    | imm k => simpa [writeDst, vectorOf] using rv n l
  · intro n
    cases d with
    | s k =>
      simp only [writeDst]
      by_cases hc : c.act = 0
      · simp [hc, rs]
      · simp only [hc, if_false, readS_writeS, Operand.s.injEq, not_false_eq_true, and_true, ne_eq, hfg 0 (by omega), rs]
        by_cases hkn : n = k
        · simp [hkn]
        · have : n.toNat ≠ k.toNat := fun h => hkn (BitVec.eq_of_toNat_eq h)
          simp [this, Ne.symm hkn]
    | v k => simpa [writeDst, Warp.readS, Warp.writeV] using rs n.toNat
    | vx a b => simpa [writeDst, Warp.readS, Warp.writeV] using rs n.toNat
    | sp k => simpa [writeDst] using rs n.toNat
    | imm k => simpa [writeDst] using rs n.toNat
  · intro k
    have key : (writeDst c w d g).p = w.p := by
      cases d with
      | s k => simp only [writeDst]; split <;> simp [Warp.writeS]
      | _ => simp [writeDst, Warp.writeV]
    simp [Warp.readP, key, hp]
  · intro k
    have key : (writeDst c w d g).x = w.x := by
      cases d with
      | s k => simp only [writeDst]; split <;> simp [Warp.writeS]
      | _ => simp [writeDst, Warp.writeV]
    simp [Warp.readX, key, hx]

theorem writeP_wrote (c : Ctx) (w : Warp) (k : Nat) (f g : Nat → Bool) (hfg : ∀ l, l < 64 → g l = f l)
    (hv : w.v = c.w.v) (hs : w.s = c.w.s) (hp : w.p = c.w.p) (hx : w.x = c.w.x) :
    WroteP c k f (w.writeP k c.act (maskOf g)) := by
  refine ⟨?_, ?_, ?_, ?_⟩
  · intro j l hl
    rw [readP_writeP _ _ _ _ _ _ hl, maskOf_getLsbD _ _ hl, hfg l hl]
    simp [Warp.readP, hp]
  all_goals intros; simp only [Warp.writeP]; split <;> simp [Warp.readV, Warp.readS, Warp.readX, hv, hs, hx]

/-- A short word with a register destination. -/
theorem lane_word {i : Instr} {c : Ctx} {s : State} (h : Issues i s c) (d : Operand) (f g : Ctx → Nat → Word)
    (he : exec i s = issueWord i (laneBody d g) s) (hfg : ∀ l, l < 64 → g c l = f c l) : Writes i s c d (f c) c.w.fpx := by
  have hk := writeDst_keeps c c.w d (g c)
  have hp := after_done h (fun w => writeDst c w d (g c)) [] hk.2.1 hk.2.2
  exact ⟨_, _, he.trans (issueWord_passes h), hp, writeDst_wrote c c.w d (f c) (g c) hfg rfl rfl rfl rfl, hk.1⟩

/-- A short word that writes a predicate. -/
theorem pred_word {i : Instr} {c : Ctx} {s : State} (h : Issues i s c) (k : Nat) (f g : Ctx → Nat → Bool)
    (he : exec i s = issueWord i (predBody k g) s) (hfg : ∀ l, l < 64 → g c l = f c l) : WritesP i s c k (f c) c.w.fpx := by
  have hk := writeP_keeps c.w k c.act (maskOf (g c))
  have hp := after_done h (fun w => w.writeP k c.act (maskOf (g c))) [] hk.2.1 hk.2.2
  exact ⟨_, _, he.trans (issueWord_passes h), hp, writeP_wrote c c.w k (f c) (g c) hfg rfl rfl rfl rfl, hk.1⟩

/-! ### Reading a value in a type -/

theorem setWidth_narrow (t : Ty) (x : Word) : (narrow t x).setWidth (width t) = x.setWidth (width t) := by
  have : width t ≤ 64 := by cases t <;> decide
  apply BitVec.eq_of_getLsbD_eq; intro i hi
  have h64 : i < 64 := by omega
  simp only [narrow]; split
  · rw [BitVec.getLsbD_setWidth, BitVec.getLsbD_signExtend, BitVec.getLsbD_setWidth]; simp [hi, h64]
  · rw [BitVec.getLsbD_setWidth, BitVec.getLsbD_setWidth, BitVec.getLsbD_setWidth]; simp [hi, h64]

theorem intOf_narrow (t : Ty) (x : Word) : intOf t (narrow t x) = intOf t x := by simp [intOf, setWidth_narrow]

end Sys2Proof.Safety
end

