-- ==== Sys2Proof/Tests/Slice0.lean ====
section
/-! SUPPORT. Tests: ill-formed terms that the check refuses, words written out from the encoding tables of the spec, results
from the spec's examples and tables, and a witness of the hypotheses of every statement and of each of its clauses. -/
namespace Sys2Proof.Tests
open Sys2Proof.Machine Sys2Proof.Safety Sys2Proof.Claims

-- One test after another, so that the whole text compiles within the memory of one process.
set_option Elab.async false

/-- The fields of a word that give nothing but its body. -/
def h0 : Hdr := { la := 0, gap := 0, gw := false, guard := 0, gn := false }

/-! ### WellFormed smoke: one ill-formed term for each check (03 R61) -/

/-- 03 R59: lookahead on a short-latency word. -/
def la1 : Hdr := { h0 with la := 1 }

theorem test_lookahead_refused :
    [Instr.nop la1, .exit la1, .bra la1 .lane 0 0 1, .brx la1 (.s 1) 0 0, .parkCtr la1 1, .csrr la1 (.s 1) 0, .iadd la1 .s32 (.v 1) (.v 2) (.v 3),
     .fadd la1 .f32 .rn false (.v 1) (.v 2) (.v 3), .shflx la1 (.v 1) (.v 2) (.v 3), .zip2 la1 0 2, .kvfree la1 (.s 1) (.s 2), .pemit la1 (.s 1) (.s 2),
     .dreg la1 0 (.s 1) (.s 2), .pmrd la1 0 (.s 1)].all (fun i => !i.wf) = true := by decide +kernel

/-- 03 R50, R51, R53: specifiers that are not legal where they stand. -/
theorem test_operands_refused :
    [Instr.iadd h0 .s32 (.imm 1) (.v 1) (.v 2), .iadd h0 .s32 (.sp 12) (.v 1) (.v 2), .iadd h0 .s32 (.v 1) (.sp 15) (.v 2),
     .iadd h0 .s32 (.s 1) (.v 1) (.s 2), .iadd h0 .s32 (.s 1) (.sp 0) (.s 2), .imad h0 .s32 (.s 1) (.s 2) (.s 3) 4,
     .csrw h0 1 (.v 1), .csrw h0 1 (.sp 0), .perm h0 (.v 1) (.v 2) (.v 3), .perm h0 (.s 1) (.v 2) (.s 3), .pmcfg h0 0 (.v 1), .copy h0 false (.v 1),
     .nget h0 (.imm 0) 0 0, .walk h0 false (.imm 0) (.s 1), .shape h0 (.s 1) (.v 1), .kvx h0 false (.s 1) (.v 1) (.s 2),
     .qres h0 false (.s 1) (.v 2) 3, .qres h0 false (.v 3) (.v 2) 3, .redStep h0 .add .s32 .rn false 0 (.s 1) (.v 2),
     .scan h0 .add false .s32 .rn false 0 (.s 1) (.v 2), .mtget h0 false 0 (.s 1) (.v 2), .shfl h0 .up (.abs (.v 1)) (.v 1) (.v 2),
     .bcast h0 (.lane (.v 1)) (.v 1) (.v 2)].all (fun i => !i.wf) = true := by decide +kernel

/-- 06 R110, R112-R119; 07 R128; 10 R195, R197, R209: types, roundings and saturation that an instruction does not accept. -/
theorem test_types_refused :
    [Instr.iadd h0 .f32 (.v 1) (.v 2) (.v 3), .iabs h0 .n32 (.v 1) (.v 2), .fadd h0 .s32 .rn false (.v 1) (.v 2) (.v 3),
     .fadd h0 .t8 .rn false (.v 1) (.v 2) (.v 3), .hadd2 h0 .f32 .rn false (.v 1) (.v 2) (.v 3), .cvt h0 .s32 .s64 .rz false (.v 1) (.v 2),
     .cvt h0 .s32 .f32 .rn true (.v 1) (.v 2), .cvt h0 .t8 .f32 .rn false (.v 1) (.v 2), .cvtw h0 .s32 false .rn (.v 1) (.v 2),
     .red h0 .and .f32 .rn false 0 (.v 1) (.v 2), .red h0 .add .s32 .rz false 0 (.v 1) (.v 2), .red h0 .add .f32 .rn true 0 (.v 1) (.v 2),
     .red h0 .min .s32 .rn true 0 (.v 1) (.v 2), .mov h0 .f32 (.pred 1) (.op (.v 1)), .mov h0 .s32 (.reg (.s 1)) (.pred 1),
     .atom h0 .and .s32 .plain false (some (.v 1)) (.v 2) (some (.v 3)), .atom h0 .add .s8 .plain false (some (.v 1)) (.v 2) (some (.v 3)),
     .cas h0 .s32 .plain false 0 (.v 1) (.v 2) (.v 3), .redm h0 .and .f32 .dev (.v 1) (.v 2), .redm h0 .add .n8 .dev (.v 1) (.v 2),
     .tsweep h0 (.copy 1) .s32 0 1 none, .tsweep h0 .add .t8 0 1 none].all (fun i => !i.wf) = true := by decide +kernel

/-- 03 R48; 07 R124, R130; 08 R157; 10 R186, R187, R193, R195, R197, R200; 12 R242; 13 R248: amounts, orders, scopes, spaces and ranges. -/
theorem test_fields_refused :
    [Instr.shl h0 .s32 (.v 1) (.v 2) (.imm 32), .shl h0 .s32 (.v 1) (.v 2) (.imm (-1)), .bfe h0 .s32 (.v 1) (.v 2) (.imm 3),
     .shfl h0 .up (.abs (.imm (-1))) (.v 1) (.v 2), .redStep h0 .add .s32 .rn false 6 (.v 1) (.v 2), .zip2 h0 255 0, .unzip4 h0 0 253,
     .csrr h0 (.s 1) 7, .csrr h0 (.s 1) 0x107, .ld h0 .g (.rel .dev) .w32 1 0 (.v 1), .st h0 .g (.acq .dev) .w32 1 0 (.v 1),
     .ld h0 (.sp .fill) .plain .w32 1 0 (.v 1), .st h0 (.sp .take) .plain .w32 1 0 (.v 1), .ld h0 (.acc false) .plain .w64 1 0 (.v 1),
     .ld h0 (.acc false) .plain .w32 1 0 (.s 1), .ld h0 .g .plain .w128 1 0 (.v 255), .ld h0 .g .plain .w128 1 0 (.s 63),
     .ld h0 .g (.acq .dev) .w32 1 0x20000 (.v 1), .ldh h0 .plain .w64 1 0 (.v 1), .ldh h0 (.sc .dev) .w16 1 0 (.v 1), .sth h0 (.acq .dev) .w16 1 0 (.v 1),
     .pref h0 .w32 1 0 (.imm 0), .atom h0 .ld .n32 (.rel .dev) false (some (.v 1)) (.v 2) none, .atom h0 .st .n32 .plain false (some (.v 1)) (.v 2) (some (.v 3)),
     .atom h0 .ld .n32 .plain false (some (.v 1)) (.v 2) (some (.v 3)), .redm h0 .add .n32 .core (.v 1) (.v 2), .fence h0 .sc true .wg,
     .mtlink h0 false 0 1, .mtlink h0 false 2 3, .mtlink h0 false 0 5, .mtclr h0 true 0, .mtadd h0 false true 0 (.v 1) (.v 2), .wstat h0 (.s 1) (.s 2) 7, .harg h0 (.s 1) 4,
     .tdec h0 false (.s 1) (.imm (-1)), .pairWord 0 false { op := .iadd, guard := 0, d := 4, b := .v 1, ty := .s32 } { op := .fmul, guard := 0, d := 8, b := .v 1, ty := .f32 },
     .pairWord 0 false { op := .iadd, guard := 0, d := 4, b := .v 1, ty := .f32 } { op := .fmul, guard := 0, d := 9, b := .v 1, ty := .f32 },
     .illegal 0].all (fun i => !i.wf) = true := by decide +kernel

/-! ### Words written out from the encoding tables -/

/-- An FR word: major, dst, a, b and mod at their places (03 R44, R46). -/
def fr (major d a b m : Nat) : Word := BitVec.ofNat 64 (major * 2 ^ 56 + d * 2 ^ 35 + a * 2 ^ 25 + b * 2 ^ 15 + m)
/-- An FI word: major, dst, a and a 25-bit immediate. -/
def fi (major d a imm : Nat) : Word := BitVec.ofNat 64 (major * 2 ^ 56 + d * 2 ^ 35 + a * 2 ^ 25 + imm)
/-- An FM word: data, base, offset field, space, order, width and flags. -/
def fm (major d base off space order width flags : Nat) : Word :=
  BitVec.ofNat 64 (major * 2 ^ 56 + d * 2 ^ 35 + base * 2 ^ 29 + off * 2 ^ 9 + space * 2 ^ 7 + order * 2 ^ 5 + width * 2 ^ 2 + flags)
/-- The mod field of majors 0x10 to 0x4F: C, TYPE, RND, SAT (03 R47). -/
def md (c ty rnd sat : Nat) : Nat := c * 2 ^ 7 + ty * 2 ^ 3 + rnd * 2 + sat

/-- Each word decodes to its instruction. -/
def reads (l : List (Word × Instr)) : Bool := l.all (fun (w, i) => decode w == some i)

/-- 03 R49, R60; 07: control words. Specifier 0x100 + n is s register n, 0x300 + k the immediate k. -/
theorem test_decode_control : reads
    [(fr 0x01 0 0 0 0, .nop h0), (0x0230514100000008, .bra { h0 with guard := 1 } .any 40 50 8), (fr 0x03 0 5 9 (7 * 128), .brx h0 (.v 5) 7 9),
     (BitVec.ofNat 64 (0x04 * 2 ^ 56 + 1 * 2 ^ 50 + 3 * 2 ^ 43 + 6 * 2 ^ 35 + 2 * 2 ^ 32 + 0xFFFFFFFF), .call h0 .all 6 7 0xFFFFFFFF),
     (fr 0x05 0 0x13F 0 0, .ret h0 (.s 63) 0 0), (fr 0x06 0 0 0 0, .exit h0), (fr 0x07 0 0x102 0 0, .parkCtr h0 2), (fr 0x07 0 0x102 0 0x1000, .parkWalk h0 2),
     (fr 0x08 0 0 0 0, .yield h0), (fi 0x09 0 0 200, .bar h0 200), (fi 0x0A 0 0 0xBEEF, .trap h0 0xBEEF), (fr 0x0B 0 0 0 0, .tretRetry h0),
     (fr 0x0B 0 0 0 0x1000, .tretSkip h0), (fi 0x0C 0 0 3, .bkpt h0 3), (fi 0x0D 0x104 0 0x101, .csrr h0 (.s 4) 0x101), (fi 0x0E 0 0x305 0x010, .csrw h0 0x010 (.imm 5)),
     (fr 0x0F 0 0x101 0x102 0, .shape h0 (.s 1) (.s 2))] = true := by decide +kernel

/-- 06 R110-R113: integer words. Specifier 0x200 + 64 i + o is v[xi + o], 0x180 + k a special operand. -/
theorem test_decode_integer : reads
    [(0x1000002002010000, .iadd h0 .s32 (.v 4) (.v 1) (.v 2)), (fr 0x11 1 2 0x3FF (md 0 1 0 0), .isub h0 .s64 (.v 1) (.v 2) (.imm (-1))),
     (fr 0x12 1 2 0x180 (md 0 2 0 0), .imul h0 .s16 (.v 1) (.v 2) (.sp 0)), (fr 0x13 1 2 0x245 (md 0 3 0 0), .imulh h0 .s8 (.v 1) (.v 2) (.vx 1 5)),
     (fr 0x14 1 2 3 (md 250 4 0 0), .imad h0 .n32 (.v 1) (.v 2) (.v 3) 250), (fr 0x15 1 2 0 (md 0 5 0 0), .ineg h0 .n64 (.v 1) (.v 2)),
     (fr 0x16 1 2 0 (md 0 0 0 0), .iabs h0 .s32 (.v 1) (.v 2)), (fr 0x17 0x101 0x102 0x103 (md 0 6 0 0), .imin h0 .n16 (.s 1) (.s 2) (.s 3)),
     (fr 0x18 1 2 3 (md 0 7 0 0), .imax h0 .n8 (.v 1) (.v 2) (.v 3)), (fr 0x19 1 2 3 0, .iadds h0 .s32 (.v 1) (.v 2) (.v 3)),
     (fr 0x1A 1 2 3 0, .isubs h0 .s32 (.v 1) (.v 2) (.v 3)), (fr 0x1B 1 2 3 0, .and h0 .s32 (.v 1) (.v 2) (.v 3)), (fr 0x1C 1 2 3 0, .or h0 .s32 (.v 1) (.v 2) (.v 3)),
     (fr 0x1D 1 2 3 0, .xor h0 .s32 (.v 1) (.v 2) (.v 3)), (fr 0x1E 1 2 0 0, .not h0 .s32 (.v 1) (.v 2)), (fr 0x1F 1 2 3 0, .andn h0 .s32 (.v 1) (.v 2) (.v 3)),
     (fr 0x20 1 2 0x31F 0, .shl h0 .s32 (.v 1) (.v 2) (.imm 31)), (fr 0x21 1 2 3 0, .shr h0 .s32 (.v 1) (.v 2) (.v 3)), (fr 0x22 1 2 3 0, .sar h0 .s32 (.v 1) (.v 2) (.v 3)),
     (fr 0x23 1 2 3 0, .rot h0 .s32 (.v 1) (.v 2) (.v 3)), (fr 0x24 1 2 3 0, .bfe h0 .s32 (.v 1) (.v 2) (.v 3)), (fr 0x25 1 2 3 (md 9 0 0 0), .bfi h0 .s32 (.v 1) (.v 2) (.v 3) 9),
     (fr 0x26 1 2 0 0, .popc h0 .s32 (.v 1) (.v 2)), (fr 0x27 1 2 0 0, .clz h0 .s32 (.v 1) (.v 2)), (fr 0x28 1 2 0 0, .ctz h0 .s32 (.v 1) (.v 2)),
     (fr 0x29 1 2 0 0, .brev h0 .s32 (.v 1) (.v 2)), (0x2A00000805800100, .icmp h0 .s32 1 .lt (.v 2) (.imm 0)), (fr 0x2B 1 2 3 (md 4 0 0 0), .sel h0 .s32 (.v 1) (.v 2) (.v 3) 4),
     (fr 0x2C 1 2 0 (md 0 8 0 0), .mov h0 .f32 (.reg (.v 1)) (.op (.v 2))), (fr 0x2C 3 2 0 (md 1 0 0 0), .mov h0 .s32 (.pred 3) (.op (.v 2))),
     (fr 0x2C 2 0x101 0 (md 2 0 0 0), .mov h0 .s32 (.idx 2) (.op (.s 1))), (fr 0x2C 1 5 0 (md 4 0 0 0), .mov h0 .s32 (.reg (.v 1)) (.pred 5)),
     (BitVec.ofNat 64 (0x2D * 2 ^ 56 + 1 * 2 ^ 35 + 2 * 2 ^ 32 + 0xDEADBEEF), .movi h0 .hi (.v 1) 0xDEADBEEF), (fr 0x2E 1 2 3 (md 7 0 0 0), .lea h0 .s32 (.v 1) (.v 2) (.v 3) 7)] = true := by
  decide +kernel

/-- 06 R114-R121; 03 R54: floating-point words and the pair. -/
theorem test_decode_float : reads
    [(fr 0x30 1 2 3 (md 0 8 3 1), .fadd h0 .f32 .rdn true (.v 1) (.v 2) (.v 3)), (fr 0x31 1 2 3 (md 0 9 2 0), .fsub h0 .f16 .rup false (.v 1) (.v 2) (.v 3)),
     (fr 0x32 1 2 3 (md 0 10 1 0), .fmul h0 .bf16 .rz false (.v 1) (.v 2) (.v 3)), (fr 0x33 1 2 3 (md 4 8 0 0), .fmac h0 .f32 .rn false (.v 1) (.v 2) (.v 3) 4),
     (fr 0x34 1 2 3 (md 0 8 0 0), .fmin h0 .f32 (.v 1) (.v 2) (.v 3)), (fr 0x35 1 2 3 (md 0 8 0 0), .fmax h0 .f32 (.v 1) (.v 2) (.v 3)),
     (fr 0x36 1 2 0 (md 0 8 0 0), .fabs h0 .f32 (.v 1) (.v 2)), (fr 0x37 1 2 0 (md 0 8 0 0), .fneg h0 .f32 (.v 1) (.v 2)),
     (fr 0x38 2 2 3 (md 7 8 0 0), .fcmp h0 .f32 2 .ord (.v 2) (.v 3)), (fr 0x39 1 2 0 (md 0 8 0 0), .fclass h0 .f32 (.v 1) (.v 2)),
     (fr 0x3A 1 2 0 (md 0 8 1 0), .frnd h0 .f32 .rz (.v 1) (.v 2)), (fr 0x3B 1 2 3 (md 0 8 0 0), .fdiv h0 .f32 .rn (.v 1) (.v 2) (.v 3)),
     (0x3C20A05002000040, .fsqrt { h0 with la := 2, guard := 2, gn := true } .f32 .rn (.v 10) (.v 1)), (fr 0x3D 1 2 0 (md 0 8 0 0), .frcp h0 .f32 (.v 1) (.v 2)),
     (fr 0x3E 1 2 0 (md 0 8 0 0), .frsq h0 .f32 (.v 1) (.v 2)), (fr 0x3F 1 2 0 (md 0 8 0 0), .fexp2 h0 .f32 (.v 1) (.v 2)), (fr 0x40 1 2 0 (md 0 8 0 0), .flog2 h0 .f32 (.v 1) (.v 2)),
     (fr 0x41 1 2 0 (md 0 8 0 0), .fsin h0 .f32 (.v 1) (.v 2)), (fr 0x42 1 2 0 (md 0 8 0 0), .fcos h0 .f32 (.v 1) (.v 2)), (fr 0x43 1 2 0 (md 0 8 0 0), .ftanh h0 .f32 (.v 1) (.v 2)),
     (fr 0x44 1 2 3 (md 0 9 0 0), .hadd2 h0 .f16 .rn false (.v 1) (.v 2) (.v 3)), (fr 0x45 1 2 3 (md 0 9 0 0), .hmul2 h0 .f16 .rn false (.v 1) (.v 2) (.v 3)),
     (fr 0x46 1 2 3 (md 4 9 0 0), .hmac2 h0 .f16 .rn false (.v 1) (.v 2) (.v 3) 4), (fr 0x47 1 2 0 (md 0 8 0 0), .cvt h0 .f32 .s32 .rn false (.v 1) (.v 2)),
     (fr 0x47 1 2 0 (md 8 0 1 0), .cvt h0 .s32 .f32 .rz false (.v 1) (.v 2)), (fr 0x48 1 2 0 (md 2 8 0 0), .cvtn h0 false none (.v 1) (.v 2)),
     (fr 0x48 1 2 3 (md 1 8 0 0), .cvtn h0 true (some (.v 3)) (.v 1) (.v 2)), (fr 0x49 1 2 0 (md 1 10 0 0), .cvtw h0 .bf16 true .rn (.v 1) (.v 2)),
     (fr 0x4A 1 2 3 (md 0 8 0 0), .qres h0 false (.v 1) (.v 2) 3),
     (0x8640170208004020, .pairWord 0 false { op := .iadd, guard := 0, d := 4, b := .v 8, ty := .s32 } { op := .fmul, guard := 0, d := 5, b := .imm 2, ty := .f32 })] = true := by
  decide +kernel

/-- 07 R124-R130: cross-lane words. -/
theorem test_decode_cross : reads
    [(0x500000380C004400, .shfl h0 .xor .w1 (.v 7) (.v 6)), (fr 0x50 1 2 0x303 0x6000, .shfl h0 .rot (.abs (.imm 3)) (.v 1) (.v 2)), (fr 0x51 1 2 3 0, .shflx h0 (.v 1) (.v 2) (.v 3)),
     (fr 0x52 1 2 0x101 0, .bcast h0 (.lane (.s 1)) (.v 1) (.v 2)), (fr 0x52 1 2 0 0x4000, .bcast h0 .first (.v 1) (.v 2)), (fr 0x53 1 2 0x101 0, .perm h0 (.v 1) (.v 2) (.s 1)),
     (fr 0x54 0x104 1 0 0x1000, .vote h0 (.count (.s 4)) 1), (fr 0x54 2 1 0 0x5000, .vote h0 (.same 2) 1), (0x553008200A000440, .red { h0 with la := 3 } .add .f32 .rn false 2 (.s 4) (.v 5)),
     (fr 0x55 1 2 0x303 0x1140, .redStep h0 .min .f32 .rn false 3 (.v 1) (.v 2)), (fr 0x56 1 2 0 0x6520, .scan h0 .popc true .n32 .rn false 2 (.v 1) (.v 2)),
     (fr 0x57 8 2 0 0, .zip2 h0 8 2), (fr 0x58 8 2 0 0, .zip3 h0 8 2), (fr 0x59 8 2 0 0, .zip4 h0 8 2), (fr 0x5A 8 2 0 0, .unzip2 h0 8 2), (fr 0x5B 8 2 0 0, .unzip3 h0 8 2),
     (fr 0x5C 8 2 0 0, .unzip4 h0 8 2)] = true := by decide +kernel

/-- 03 R48; 10 R195-R209; 11: memory words. -/
theorem test_decode_memory : reads
    [(0x6000004850008028, .ld h0 .g (.acq .dev) .w32 2 64 (.v 9)), (fm 0x60 9 2 0xFFFF8 1 0 4 2, .ld h0 (.sp .take) .plain .w128 2 0xFFFF8 (.v 9)),
     (fm 0x60 9 2 (1 * 2 ^ 17 + 0x1FFFF) 0 3 3 1, .ld h0 .g (.sc .wg) .w64 2 0xFFFFF (.v 9)), (0x6100082070000048, .st h0 .g (.rel .dev) .w32 3 0 (.s 4)),
     (fm 0x61 9 2 8 2 0 2 1, .st h0 (.acc true) .plain .w32 2 8 (.v 9)), (fm 0x62 9 2 0 0 0 1 0, .ldh h0 .plain .w16 2 0 (.v 9)), (fm 0x63 9 2 0 0 0 2 0, .sth h0 .plain .w32 2 0 (.v 9)),
     (0x640000100A030400, .atom h0 .add .f32 .plain false (some (.v 2)) (.v 5) (some (.v 6))), (fr 0x64 0 5 6 0x42F6, .atom h0 .st .n64 (.sc .host) false none (.v 5) (some (.v 6))),
     (fr 0x65 2 5 6 0x3270, .cas h0 .n32 (.ar .dev) false 3 (.v 2) (.v 5) (.v 6)), (fr 0x66 0 5 6 0x1204, .redm h0 .min .n32 .wg (.v 5) (.v 6)), (fr 0x67 0 0 0 9, .flusha h0 9),
     (fr 0x68 0 0 0 0x7800, .fence h0 .ar true .dev), (fr 0x69 0 0 0 0, .afence h0), (fm 0x6A 9 2 64 0 0 3 0, .pref h0 .w64 2 64 (.v 9)), (fr 0x6B 0 0x101 0 0x4000, .copy h0 true (.s 1)),
     (fr 0x6C 0 0x101 0 0x0D00, .nset h0 (.word 2) 3 (.s 1)), (fr 0x6C 0 0x101 0 0x4C00, .nset h0 .sp 3 (.s 1)), (fr 0x6D 0x101 0 0 0x0D00, .nget h0 (.s 1) 3 2),
     (fr 0x6E 0 0 0 0x0C00, .nrst h0 3), (fr 0x6F 0x101 0x18C 0 0x0214, .tsweep h0 (.copy 1) .n32 2 1 none), (fr 0x6F 0x101 0x102 0 0x1208, .tsweep h0 .add .f32 2 1 (some 2))] = true := by
  decide +kernel

/-- 08 R156; 12 R242; 13 R248; 16 R294, R297, R300; 17 R309, R325; 18 R328: the words of majors 0x70 to 0x7E. -/
theorem test_decode_units : reads
    [(fr 0x70 0 0x101 0 0x0400, .mtcfg h0 false 1 (.s 1)), (fr 0x70 0 0 0x302 0x1000, .mtlink h0 false 0 2), (fr 0x70 0 0 0 0x2C00, .mtclr h0 false 3), (fr 0x70 0 0x101 0x102 0x3000, .mtload h0 false 0 (.s 1) (.s 2)),
     (fr 0x71 0 0x180 1 0x0200, .mtset h0 true 0 (.sp 0) (.v 1)), (0x7100000006021400, .mtadd h0 false false 1 (.v 3) (.v 4)), (fr 0x71 0 3 4 0x1300, .mtadd h0 true true 0 (.v 3) (.v 4)),
     (fr 0x72 1 2 0 0, .mtget h0 false 0 (.v 1) (.v 2)), (fr 0x72 1 2 0 0x1000, .mtpfx h0 false 0 (.v 1) (.v 2)), (0x7220004804002000, .mtfind { h0 with la := 2 } false 0 (.v 9) (.v 2)),
     (fr 0x72 0x104 0 0 0x3000, .mttot h0 false 0 (.s 4)), (fr 0x73 0x103 0x102 0 0, .mtcutIdx h0 false 0 (.s 3) (.s 2)), (fr 0x73 0x103 0x102 0 0x1000, .mtcutMass h0 false 0 (.s 3) (.s 2)),
     (0x7400082A04000000, .walk h0 false (.s 5) (.s 2)), (0x7500083202810300, .wreg h0 3 (.s 6) (.s 1) (.s 2)), (fr 0x75 0x104 0x105 0x306 0x1000, .wstat h0 (.s 4) (.s 5) 6),
     (fr 0x75 0 0x105 0 0x2000, .wcancel h0 (.s 5)), (fr 0x75 0 0 0 0x3000, .mfence h0), (0x7600082001808000, .harg h0 (.s 4) 1), (fr 0x76 0 0 0 0x1000, .hret h0), (fr 0x76 0 0 0 0x1800, .hretAbort h0),
     (fr 0x77 0 0x101 0x102 0, .awin h0 (.s 1) (.s 2)), (0x7820002002810000, .kvx { h0 with la := 2 } false (.v 4) (.v 1) (.s 2)), (0x7900000206000000, .kvseal h0 (.s 3)),
     (0x790000020A831000, .kvfree h0 (.s 5) (.s 6)), (fr 0x7A 0 0x101 0 0x0800, .tspawn h0 true (.s 1)), (0x7A00000209809400, .tdec h0 false (.s 4) (.imm 1)), (fr 0x7A 0x101 0x102 0 0x2000, .launch h0 (.s 1) (.s 2)),
     (0x7B00000204818000, .pemit h0 (.s 2) (.s 3)), (fr 0x7B 0 0 0 0x1000, .pcancel h0), (fr 0x7B 0 0x102 0x103 0x2000, .prepeat h0 (.s 2) (.s 3)), (0x7C2000020A000000, .coll { h0 with la := 2 } (.s 5)),
     (0x7D00000202810003, .dreg h0 3 (.s 1) (.s 2)), (0x7D00000000001003, .dunreg h0 3), (0x7D00082000002043, .dgrd h0 3 .laneA (.s 4)), (0x7E00000206000002, .pmcfg h0 2 (.s 3)),
     (0x7E00082000001002, .pmrd h0 2 (.s 4))] = true := by decide +kernel

/-- 03 R46-R61: words with a reserved field or code are no instructions: an unassigned major, TYPE 13, a reserved mod bit, an
unused specifier, a reserved bit of an s specifier, space 11, width 101, scope 111, order 11 without .sc, sub-operations, the
pair of one bank. -/
theorem test_reserved_refused :
    [(0 : Word), BitVec.allOnes 64, fr 0x2F 1 2 3 0, fr 0x7F 0 0 0 0, fr 0x10 1 2 3 (md 0 13 0 0), fr 0x10 1 2 3 (md 0 0 1 0), fr 0x10 1 2 3 (md 0 0 0 1), fr 0x10 1 2 3 (md 1 0 0 0),
     fr 0x15 1 2 3 0, fr 0x10 0x141 2 3 0, fr 0x01 1 0 0 0, fm 0x60 9 2 0 3 0 2 0, fm 0x60 9 2 0 0 0 5 0, fm 0x60 9 2 (7 * 2 ^ 17) 0 1 2 0, fm 0x60 9 2 0 0 3 2 0, fm 0x60 9 2 0 0 0 2 2,
     fr 0x73 0x103 0x102 0 0x2000, fr 0x7E 0 0 0 0x2000, fr 0x7D 0x104 0 0 0x20C0, fi 0x09 0 0 256, fi 0x0A 0 0 0x10000, 0x864020C208004020].all (fun w => (decode w).isNone) = true := by
  decide +kernel


/-! ### States of the tests -/

/-- A loaded program (DESIGN CHOICE, log 19): function 1, partition 0, launch 1 with one workgroup and one warp, which issues. -/
def base : State := State.reset.loaded

/-- The key of its workgroup. -/
def wk : Nat := wgKey 1 0

/-- The base state with its warp, its workgroup, its launch, its core or its partition changed. -/
def onWarp (f : Warp → Warp) (s : State) : State := s.modWarp 0 0 f
def onWg (f : Workgroup → Workgroup) (s : State) : State := s.modWg wk f
def onLaunch (f : Launch → Launch) (s : State) : State := s.modLaunch 1 f
def onCore (f : Core → Core) (s : State) : State := s.modCore 0 f
def onPart (f : Partition → Partition) (s : State) : State := s.modPart 0 f
def onFunc (f : Func → Func) (s : State) : State := s.modFunc 1 f

/-- A warp with these s registers. -/
def withS (l : List (Nat × Word)) (w : Warp) : Warp := l.foldl (fun w (k, x) => w.writeS k x) w

/-- Bytes at an address of the program's memory. -/
def store (a : Nat) (bs : List Byte) (s : State) : State := s.rawStore (hbmPlace 0 a) bs

/-- The state of most tests: v1 and v2 hold the lanes' numbers, p1 the even lanes, s1 an address, s2 the number 64, s3 one. -/
def start : State :=
  onWarp (fun w => ((withS [(1, 0x30000), (2, 64), (3, 1)] w).writeP 1 (BitVec.allOnes 64) 0x5555555555555555).writeV 1 (BitVec.allOnes 64)
    (fun l => BitVec.ofNat 64 l)) base

/-- The context in which a state issues a word. -/
def ctxOf (i : Instr) (s : State) : Ctx :=
  { s.ctx (s.issuerWarp s.cur) ((s.issuerWarp s.cur).frontier.headD { prio := 0, pc := 0, lanes := 0 }) (hdrOf i) with word := encode i }

/-- The word passes its checks. -/
def passes (i : Instr) (c : Ctx) : Bool :=
  !c.w.heldUp && i.wf && (!c.front || prologueOk i) && !stateIllegal i c && (lookaheadFault i c.w).isNone && (blockOf i c.w).isNone &&
    (indexFault i c.w).isNone && (!usesV i || c.wg.badReg.isNone)

/-- A state issues a word, which passes its checks. -/
def ready (s : State) (i : Instr) : Bool :=
  s.issuer.isSome && passes i (ctxOf i s)

theorem passes_of {i : Instr} {c : Ctx} (h : passes i c = true) : Passes i c := by
  simp only [passes, Bool.and_eq_true, Bool.or_eq_true, Bool.not_eq_true', Option.isNone_iff_eq_none] at h
  obtain ⟨⟨⟨⟨⟨⟨⟨h1, h2⟩, h3⟩, h4⟩, h5⟩, h6⟩, h7⟩, h8⟩ := h
  exact ⟨h1, h2, fun hf => h3.resolve_left (by simp [hf]), h4, h5, h6, h7, fun hu => h8.resolve_left (by simp [hu])⟩

theorem issuer_of {s : State} (h : s.issuer.isSome = true) :
    s.issuer = some (s.issuerWarp s.cur, (s.issuerWarp s.cur).frontier.headD { prio := 0, pc := 0, lanes := 0 }) := by
  simp only [State.issuer] at h ⊢
  split at h <;> simp_all

theorem issues_of {i : Instr} {s : State} (h : ready s i = true) : Issues i s (ctxOf i s) := by
  simp only [ready, Bool.and_eq_true] at h
  exact ⟨⟨_, _, issuer_of h.1, rfl⟩, passes_of h.2⟩

/-- Words that a state issues, each of which meets `p`. -/
theorem issues_all {l : List Instr} {s : State} {p : Instr → Bool} (h : l.all (fun i => p i && ready s i) = true) :
    ∀ i ∈ l, p i = true ∧ Issues i s (ctxOf i s) := by
  intro i hi
  have := List.all_eq_true.1 h i hi
  simp only [Bool.and_eq_true] at this
  exact ⟨this.1, issues_of this.2⟩

/-- The launch of the word that a state issues is open. -/
def launchOpen (s : State) : Bool := (s.launch (ctxOf (.nop h0) s).lid).open_

/-- No exception is raised where none is enabled. -/
theorem raises_disabled {c : Ctx} (h : c.w.trap.en = 0) (fl : List (Nat × FpFlags)) (l : Nat) : raises c fl l = false := by
  simp [raises, h]

/-! ### Witnesses: words that act on the issuing warp -/

def integerWords : List Instr :=
  [.iadd h0 .s32 (.v 4) (.v 1) (.imm 2), .isub h0 .s32 (.v 4) (.v 1) (.imm 2), .imul h0 .s32 (.v 4) (.v 1) (.imm 2), .imulh h0 .s32 (.v 4) (.v 1) (.imm 2),
   .imad h0 .s32 (.v 4) (.v 1) (.imm 2) 1, .ineg h0 .s32 (.v 4) (.v 1), .iabs h0 .s32 (.s 4) (.s 2), .imin h0 .s32 (.v 4) (.v 1) (.imm 2), .imax h0 .s32 (.v 4) (.v 1) (.imm 2),
   .iadds h0 .s8 (.v 4) (.v 1) (.imm 2), .isubs h0 .s8 (.v 4) (.v 1) (.imm 2), .and h0 .n64 (.v 4) (.v 1) (.imm 2), .or h0 .n64 (.v 4) (.v 1) (.imm 2), .xor h0 .n64 (.v 4) (.v 1) (.imm 2),
   .not h0 .n64 (.v 4) (.v 1), .andn h0 .n64 (.v 4) (.v 1) (.imm 2), .shl h0 .s32 (.v 4) (.v 1) (.imm 31), .shr h0 .s32 (.v 4) (.v 1) (.v 1), .sar h0 .s32 (.v 4) (.v 1) (.v 1),
   .rot h0 .s32 (.v 4) (.v 1) (.v 1), .bfe h0 .s32 (.v 4) (.v 1) (.s 2), .bfi h0 .s32 (.v 4) (.v 1) (.s 2) 1, .popc h0 .s32 (.v 4) (.v 1), .clz h0 .s32 (.v 4) (.v 1), .ctz h0 .s32 (.v 4) (.v 1),
   .brev h0 .s32 (.v 4) (.v 1), .sel h0 .n32 (.v 4) (.v 1) (.imm 2) 1, .mov h0 .s32 (.reg (.s 4)) (.op (.s 2)), .mov h0 .f32 (.reg (.vx 0 5)) (.op (.imm 1)),
   .mov h0 .s32 (.reg (.v 4)) (.pred 1), .movi h0 .sx (.s 4) 0x80000000, .movi h0 .zx (.s 4) 0x80000000, .movi h0 .hi (.s 4) 1, .lea h0 .s32 (.v 4) (.s 1) (.v 1) 3]

/-- IntegerLanes: each instruction that it names, guarded by p1 and not. -/
theorem witness_IntegerLanes : ∀ i ∈ integerWords ++ [.iadd { h0 with guard := 1 } .s32 (.v 4) (.v 1) (.imm 2), .iadd { h0 with gn := true } .s32 (.s 4) (.s 1) (.imm 2)],
    (laneEffect i).isSome = true ∧ Issues i start (ctxOf i start) := issues_all (by decide +kernel)

/-- Predicates: each condition and mode. -/
theorem witness_Predicates : ∀ i ∈ ([.icmp h0 .s32 1 .eq (.v 1) (.imm 2), .icmp h0 .s32 0 .ne (.v 1) (.imm 2), .icmp h0 .s32 7 .lt (.v 1) (.imm 2), .icmp h0 .n8 1 .le (.v 1) (.imm 2),
    .icmp h0 .s32 1 .gt (.v 1) (.imm 2), .icmp h0 .s32 1 .ge (.v 1) (.imm 2), .mov h0 .s32 (.pred 2) (.op (.v 1)), .mov h0 .s32 (.pred 2) (.pred 1),
    .vote h0 (.some 2) 1, .vote h0 (.every 2) 1, .vote h0 (.same 2) 0] : List Instr),
    (predEffect i).isSome = true ∧ Issues i start (ctxOf i start) := issues_all (by decide +kernel)

/-- CrossLanes: each instruction and mode. -/
theorem witness_CrossLanes : ∀ i ∈ ([.shfl h0 .up (.abs (.imm 127)) (.v 4) (.v 1), .shfl h0 .down .w1 (.v 4) (.v 1), .shfl h0 .xor .w16 (.v 4) (.v 1), .shfl h0 .rot (.abs (.s 2)) (.v 4) (.v 1),
    .shflx h0 (.v 4) (.v 1) (.v 1), .bcast h0 .first (.s 4) (.v 1), .bcast h0 (.lane (.imm (-1))) (.v 4) (.v 1), .perm h0 (.v 4) (.v 1) (.s 2), .vote h0 (.mask (.s 4)) 1,
    .vote h0 (.count (.v 4)) 1, .vote h0 (.first (.s 4)) 1] : List Instr),
    (crossEffect i).isSome = true ∧ Issues i start (ctxOf i start) := issues_all (by decide +kernel)

/-- ZipRanges: each instruction, with ranges that overlap and that end at the declared count. -/
theorem witness_ZipRanges : ∀ i ∈ ([.zip2 h0 1 2, .zip3 h0 61 2, .zip4 h0 8 60, .unzip2 h0 1 2, .unzip3 h0 8 0, .unzip4 h0 60 1] : List Instr),
    (zipEffect i).isSome = true ∧ Issues i start (ctxOf i start) := issues_all (by decide +kernel)

/-- LongLanes: RED, RED.STEP, SCAN and CVTN, with no active lane as well. -/
theorem witness_LongLanes : ∀ i ∈ ([.red h0 .add .s32 .rn true 1 (.s 4) (.v 1), .red { h0 with gn := true } .min .f32 .rn false 1 (.s 4) (.v 1), .redStep h0 .xor .n64 .rn false 5 (.v 4) (.v 1),
    .scan h0 .max true .s32 .rn false 2 (.v 4) (.v 1), .cvtn h0 false none (.v 4) (.v 1), .cvtn h0 true (some (.imm (-128))) (.v 4) (.v 1)] : List Instr),
    (longEffect i).isSome = true ∧ Issues i start (ctxOf i start) := issues_all (by decide +kernel)

/-- A warp after a RED. -/
def inFlight : Warp → Warp := fun w =>
  { w with nextFlight := 1, flights := [{ id := 0, kind := .timed, pc := 0x20000, word := 0, regs := [.s 4], writes := [.s 4 7], late := .none, holds := false, walkGate := false }] }

theorem witness_Writeback : ∃ f, ((onWarp inFlight start).warp 0 0).flights[0]? = some f ∧ f.kind = .timed ∧ f.late = .none :=
  ⟨_, rfl, by decide +kernel, by decide +kernel⟩

def floatWords : List Instr :=
  [.fadd h0 .f32 .rz true (.v 4) (.v 1) (.imm 2), .fsub h0 .f16 .rn false (.v 4) (.v 1) (.imm 2), .fmul h0 .bf16 .rup false (.v 4) (.v 1) (.imm 2), .fmac h0 .f32 .rdn false (.v 4) (.v 1) (.imm 2) 1,
   .fmin h0 .f32 (.v 4) (.v 1) (.imm 2), .fmax h0 .f32 (.s 4) (.s 2) (.imm 2), .fabs h0 .f32 (.v 4) (.v 1), .fneg h0 .f32 (.v 4) (.v 1), .frnd h0 .f32 .rz (.v 4) (.v 1), .fclass h0 .f32 (.v 4) (.v 1),
   .hadd2 h0 .f16 .rn false (.v 4) (.v 1) (.v 1), .hmul2 h0 .bf16 .rn true (.v 4) (.v 1) (.v 1), .hmac2 h0 .f16 .rn false (.v 4) (.v 1) (.v 1) 1, .cvt h0 .f32 .s32 .rn false (.v 4) (.v 1),
   .cvt h0 .n8 .f16 .rz false (.v 4) (.v 1), .cvt h0 .s8 .s64 .rn true (.v 4) (.v 1)]

theorem start_untrapped (i : Instr) : (ctxOf i start).w.trap.en = 0 := by
  show (start.warp 0 0).trap.en = 0
  decide +kernel

theorem witness_FloatLanes : ∀ i ∈ floatWords, ((fpEffect i).isSome = true ∧ Issues i start (ctxOf i start)) ∧
    ∀ fl l, raises (ctxOf i start) fl l = false := fun i hi =>
  ⟨issues_all (p := fun i => (fpEffect i).isSome) (by decide +kernel) i hi, raises_disabled (start_untrapped i)⟩

theorem witness_FloatCompare : (∀ cc ∈ [FCond.eq, .ne, .lt, .le, .gt, .ge, .un, .ord],
    Issues (.fcmp h0 .f32 1 cc (.v 1) (.imm 2)) start (ctxOf (.fcmp h0 .f32 1 cc (.v 1) (.imm 2)) start) ∧
    ∀ fl l, raises (ctxOf (.fcmp h0 .f32 1 cc (.v 1) (.imm 2)) start) fl l = false) := fun cc hc =>
  ⟨issues_of (List.all_eq_true.1 (by decide +kernel :
      [FCond.eq, .ne, .lt, .le, .gt, .ge, .un, .ord].all (fun cc => ready start (.fcmp h0 .f32 1 cc (.v 1) (.imm 2))) = true) cc hc),
    raises_disabled (start_untrapped _)⟩

theorem witness_FloatLong : ∀ i ∈ ([.fdiv h0 .f32 .rn (.v 4) (.v 1) (.imm 0), .fsqrt h0 .f16 .rup (.v 4) (.v 1), .frcp h0 .f32 (.s 4) (.s 2), .frsq h0 .f32 (.v 4) (.v 1), .fexp2 h0 .f32 (.v 4) (.v 1),
    .flog2 h0 .f32 (.v 4) (.v 1), .fsin h0 .f32 (.v 4) (.v 1), .fcos h0 .bf16 (.v 4) (.v 1), .ftanh h0 .f16 (.v 4) (.v 1), .cvtw h0 .f32 true .rn (.v 4) (.v 1)] : List Instr),
    ((fpLongEffect i).isSome && decide ((ctxOf i start).w.trap.en = 0)) = true ∧ Issues i start (ctxOf i start) := issues_all (by decide +kernel)

/-- A warp with a trap vector. -/
def vectored (s : State) : State := onWarp (fun w => { w with trap := { w.trap with vec := 0x40000 } }) s
theorem canTrap_of {c : Ctx} (h : (!c.front && !c.w.trap.intrap && c.w.trap.vec != 0) = true) : canTrap c := by
  simp only [Bool.and_eq_true, Bool.not_eq_true', bne_iff_ne] at h
  exact ⟨h.1.1, h.1.2, h.2⟩

/-- FloatTrap: every exception enabled, and infinity minus infinity in each lane, which raises FPXI. -/
def fpTrapped : State :=
  onWarp (fun w => ({ w with trap := { w.trap with en := 31, vec := 0x40000 } }).writeV 2 (BitVec.allOnes 64) (fun _ => 0x7F800000)) start

theorem witness_FloatTrap : ∃ (i : Instr) (d : Operand) (f : Ctx → Nat → Nat × FpFlags), fpEffect i = some (d, f) ∧ Issues i fpTrapped (ctxOf i fpTrapped) ∧
    canTrap (ctxOf i fpTrapped) ∧ ∃ l, l < 64 ∧ raises (ctxOf i fpTrapped) (flagsOf (ctxOf i fpTrapped) d (f (ctxOf i fpTrapped))) l = true :=
  ⟨.fsub h0 .f32 .rn false (.v 4) (.v 2) (.v 2), _, _, rfl, issues_of (by decide +kernel), canTrap_of (by decide +kernel), 63, by decide, by decide +kernel⟩

theorem witness_ResidualQuantise : Issues (.qres h0 false (.v 4) (.v 1) 5) start (ctxOf (.qres h0 false (.v 4) (.v 1) 5) start) ∧
    (ctxOf (.qres h0 false (.v 4) (.v 1) 5) start).w.trap.en = 0 ∧ (ctxOf (.qres h0 false (.v 4) (.v 1) 5) start).act ≠ 0 :=
  ⟨issues_of (by decide +kernel), by decide +kernel, by decide +kernel⟩

/-- PairWord: each half reads the register that the other writes. -/
def swapPair : Instr := .pairWord 1 false { op := .mov, guard := 0, d := 1, b := .v 2, ty := .s32 } { op := .fadd, guard := 1, d := 2, b := .v 1, ty := .f32 }

theorem witness_PairWord : Issues swapPair start (ctxOf swapPair start) ∧ ∀ fl l, raises (ctxOf swapPair start) fl l = false :=
  ⟨issues_of (by decide +kernel), raises_disabled (by decide +kernel)⟩

/-- Branches: each kind, none taken as well; BRX and RET to word addresses. -/
theorem witness_Branches : (∀ i ∈ ([.bra { h0 with guard := 1 } .lane 5 9 8, .bra { h0 with gn := true } .any 5 9 8, .bra h0 .all 5 9 0xFFFFFFFF, .call h0 .lane 5 9 8, .call { h0 with gn := true } .lane 5 9 8,
    .brx h0 (.s 1) 1 2, .ret h0 (.s 2) 1 2] : List Instr), (branchEffect i).isSome = true ∧ Issues i start (ctxOf i start)) ∧
    targetsOk (ctxOf (.brx h0 (.s 1) 1 2) start) (.brx h0 (.s 1) 1 2) :=
  ⟨issues_all (by decide +kernel), fun _ _ => by
    simp only [show ∀ l, src64 (ctxOf (.brx h0 (.s 1) 1 2) start) (.s 1) l = (ctxOf (.brx h0 (.s 1) 1 2) start).w.readS 1 from fun _ => rfl]
    decide +kernel⟩

theorem witness_FrontierLanes : (start.warp 0 0).frontier.Pairwise (fun x y => x.pc ≠ y.pc) ∧ 63 < 64 := by decide +kernel

/-- BranchAlignTrap: lane 1 is the lowest lane whose number is no word address. -/
theorem witness_BranchAlignTrap : Issues (.brx h0 (.v 1) 1 2) (vectored start) (ctxOf (.brx h0 (.v 1) 1 2) (vectored start)) ∧
    canTrap (ctxOf (.brx h0 (.v 1) 1 2) (vectored start)) ∧ (ctxOf (.brx h0 (.v 1) 1 2) (vectored start)).act.getLsbD 1 = true ∧
    (src64 (ctxOf (.brx h0 (.v 1) 1 2) (vectored start)) (.v 1) 1).toNat % 8 ≠ 0 ∧
    ∀ j, j < 1 → (ctxOf (.brx h0 (.v 1) 1 2) (vectored start)).act.getLsbD j = true → (src64 (ctxOf (.brx h0 (.v 1) 1 2) (vectored start)) (.v 1) j).toNat % 8 = 0 :=
  ⟨issues_of (by decide +kernel), canTrap_of (by decide +kernel), by decide +kernel, by decide +kernel, by decide +kernel⟩

/-- The header of a word that no lane performs. -/
def hOff : Hdr := { h0 with gn := true }

/-- NothingActive: NOP, BKPT, and each control word with no active lane. -/
theorem witness_NothingActive : (∀ i ∈ ([.nop h0, .bkpt h0 5] : List Instr), (!(ctxOf i start).launch.debug) = true ∧ Issues i start (ctxOf i start)) ∧
    ∀ i ∈ ([.exit hOff, .parkCtr hOff 1, .parkWalk hOff 1, .yield hOff, .bar hOff 3, .flusha hOff 3, .trap hOff 3, .bkpt hOff 3, .tretRetry hOff, .tretSkip hOff, .csrw hOff 1 (.s 1),
      .shape hOff (.s 1) (.s 2)] : List Instr), (guardedOff i && !(ctxOf i start).front && (ctxOf i start).act == 0) = true ∧ Issues i start (ctxOf i start) :=
  ⟨issues_all (by decide +kernel), issues_all (by decide +kernel)⟩

/-- The base launch with its debug flag. -/
def debugged : State := onLaunch (fun l => { l with record := (List.replicate 128 0).set 88 1 }) (vectored start)

theorem witness_UserTraps : (∀ i ∈ ([.trap h0 0xBEEF] : List Instr), ((userTrap (ctxOf i (vectored start)) i).isSome && (ctxOf i (vectored start)).act != 0) = true ∧ Issues i (vectored start) (ctxOf i (vectored start))) ∧
    (∀ i ∈ ([.bkpt h0 7] : List Instr), ((userTrap (ctxOf i debugged) i).isSome && (ctxOf i debugged).act != 0) = true ∧ Issues i debugged (ctxOf i debugged)) ∧
    canTrap (ctxOf (.trap h0 0xBEEF) (vectored start)) ∧ canTrap (ctxOf (.bkpt h0 7) debugged) :=
  ⟨issues_all (by decide +kernel), issues_all (by decide +kernel), canTrap_of (by decide +kernel), canTrap_of (by decide +kernel)⟩

/-- A warp in its trap handler. -/
def inHandler (w : Warp) : Warp :=
  { w with frontier := [{ prio := 255, pc := 0x40000, lanes := 3 }]
           trap := { w.trap with intrap := true, pc := 0x20000, saved := some { frontier := w.frontier, spilled := [], e := w.frontier.headD { prio := 0, pc := 0, lanes := 0 } } } }
def trapped : State := onWarp inHandler start

theorem witness_TrapReturn : ∀ i ∈ ([.tretRetry h0, .tretSkip h0] : List Instr),
    ((tretSkips i).isSome && (ctxOf i trapped).act != 0 && (ctxOf i trapped).w.trap.intrap && (ctxOf i trapped).w.frontier.length == 1 && (ctxOf i trapped).w.spilled == [] &&
      (ctxOf i trapped).w.trap.saved.isSome) = true ∧ Issues i trapped (ctxOf i trapped) := issues_all (by decide +kernel)

theorem witness_StatusReads : ∀ i ∈ ([.csrr h0 (.s 4) 0x000, .csrr h0 (.v 4) 0x101, .csrr h0 (.s 4) 0x202, .pmrd h0 3 (.v 4), .pmcfg h0 0 (.imm 11)] : List Instr),
    ((ctxOf i start).act != 0 && !pmBad 11) = true ∧ Issues i start (ctxOf i start) := issues_all (by decide +kernel)


/-! ### Witnesses: memory words -/

/-- Lines that are quiet, and byte writes to plain memory, told by evaluation. -/
def cleanAll (s : State) (p : Nat) (ls : List (Page × Nat)) : Bool :=
  ls.all (fun x => !Sys2Proof.Machine.get false s.badMem (lineId x.1 x.2) && !Sys2Proof.Machine.get false s.softMem (lineId x.1 x.2) && !s.linkDown p x.1)
theorem clean_of {s : State} {p : Nat} {ls : List (Page × Nat)} (h : cleanAll s p ls = true) : ∀ x ∈ ls, clean s p x := fun x hx => by
  have := List.all_eq_true.1 h x hx
  simp only [Bool.and_eq_true, Bool.not_eq_true'] at this
  exact ⟨this.1.1, this.1.2, this.2⟩
def quietAll (s : State) (p f : Nat) (ls : List (Page × Nat)) : Bool :=
  cleanAll s p ls && ls.all (fun x => !x.1.heat && cleanAll s p (s.tableLines p f x.1.va))
theorem quiet_of {s : State} {p f : Nat} {ls : List (Page × Nat)} (h : quietAll s p f ls = true) : ∀ x ∈ ls, quiet s p f x := fun x hx => by
  simp only [quietAll, Bool.and_eq_true] at h
  have := List.all_eq_true.1 h.2 x hx
  simp only [Bool.and_eq_true, Bool.not_eq_true'] at this
  exact ⟨this.1, clean_of h.1 x hx, clean_of this.2⟩
def plainAll (s : State) (p f : Nat) (ws : List ByteWrite) : Bool :=
  ws.all (fun w => decide (w.page.comp = none) && decide (w.page.place % 64 = 0)) && quietAll s p f (ws.map (fun w => (w.page, w.off / 64 * 64)))
theorem plain_of {s : State} {p f : Nat} {ws : List ByteWrite} (h : plainAll s p f ws = true) : ∀ x ∈ ws, plainWrite s p f x := fun x hx => by
  simp only [plainAll, Bool.and_eq_true] at h
  have h1 := List.all_eq_true.1 h.1 x hx
  simp only [Bool.and_eq_true, decide_eq_true_eq] at h1
  exact ⟨h1.1, h1.2, quiet_of h.2 _ (List.mem_map_of_mem hx)⟩

/-- The word has an active lane, and its effect is there. -/
def memoryOk (s : State) (i : Instr) : Bool :=
  (ctxOf i s).act != 0 && (memoryEffect i (ctxOf i s) s).isSome

/-- Lanes 0 and 63 alone. -/
def few (w : Warp) : Warp := { w with frontier := w.frontier.map (fun e => { e with lanes := 0x8000000000000001 }) }

/-- Two lanes, a scratchpad's first granules full, and the accumulator's rows in the window. -/
def scratch : State :=
  onWarp (fun w => few (withS [(4, 0)] w)) (onWg (fun g => { g with fe := [(0, true), (15, true), (63, true)], awlimit := 64 }) start)

/-- MemoryWords: every memory word that it names, in each space, shape and mode. -/
theorem witness_MemoryWords : (∀ i ∈ ([.ld h0 .g .plain .w32 1 0 (.v 9), .ld h0 .g (.acq .dev) .w64 1 8 (.s 9), .ld h0 .g (.sc .host) .w128 1 0 (.vx 0 9), .ld h0 (.sp .none) .plain .w32 4 0 (.v 9),
    .ld h0 (.sp .keep) .plain .w128 4 0 (.v 9), .ld h0 (.sp .take) .plain .w32 4 0 (.v 9), .ld h0 (.acc false) .plain .w32 4 0 (.v 9), .ld h0 (.acc true) .plain .w32 4 63 (.v 9),
    .st h0 .g (.rel .dev) .w32 1 0 (.v 1), .st h0 .g .plain .w8 1 0 (.s 1), .st h0 (.sp .none) .plain .w16 4 0 (.v 1), .st h0 (.sp .fill) .plain .w64 4 0 (.v 1), .st h0 (.acc false) .plain .w32 4 0 (.v 1),
    .ldh h0 .plain .w32 1 0 (.v 9), .redm h0 .add .n32 .wg (.s 1) (.v 1), .copy h0 false (.s 1), .copy h0 true (.s 4), .nset h0 (.word 0) 15 (.s 1), .nset h0 .sp 3 (.s 2), .nget h0 (.s 9) 3 7, .nrst h0 15,
    .fence h0 .sc false .dev, .fence h0 .ar true .host, .afence h0, .pref h0 .w64 1 64 (.v 9)] : List Instr), memoryOk scratch i = true ∧ Issues i scratch (ctxOf i scratch)) ∧
    ∃ pg : Page, quiet start 0 1 (pg, 0) :=
  ⟨issues_all (by decide +kernel), { place := 0, size := 65536, tier := 0, kind := 0, heat := false, comp := none, ro := false, addr := 0, va := 0 }, quiet_of (ls := [(_, 0)]) (by decide +kernel) _ (List.mem_cons_self ..)⟩

/-- Places of the elements of an FM word. -/
def placesOf (acc : Access) (i : Instr) (es : List (Nat × Nat)) (n : Nat) (s : State) : List (Nat × List (Page × Nat)) :=
  match s.placeAll (ctxOf i s).part (ctxOf i s).func es n acc with
  | .ok ps => ps
  | _ => []

def storeWord : Instr := .st h0 .g .plain .w16 1 0 (.v 1)
def storeCtx : Ctx := ctxOf storeWord scratch
def storePlaces : List (Nat × List (Page × Nat)) := placesOf { write := true } storeWord (elements storeCtx .w16 1 0 (.v 1)) 2 scratch

/-- StoreGlobal: halfwords in two lines of plain memory. -/
theorem witness_StoreGlobal : Issues storeWord scratch storeCtx ∧
    scratch.placeAll storeCtx.part storeCtx.func (elements storeCtx .w16 1 0 (.v 1)) (widthBytes .w16) { write := true } = .ok storePlaces ∧
    (∀ x ∈ elemWrites storePlaces (storeData storeCtx .w16 (.v 1)), plainWrite scratch storeCtx.part storeCtx.func x) ∧
    (∀ x ∈ elemWrites storePlaces (storeData storeCtx .w16 (.v 1)), get false scratch.poison (lineId x.page x.off) = false) := by
  exact ⟨issues_of (by decide +kernel), by decide +kernel, plain_of (by decide +kernel), by decide +kernel⟩

def headerWord : Instr := .sth h0 .plain .w16 1 0 (.s 3)
def headerCtx : Ctx := ctxOf headerWord scratch
def headerPlaces : List (Nat × List (Page × Nat)) := placesOf { write := true } headerWord (fmElems headerCtx 1 0 64 (.s 3)) 1 scratch

theorem witness_StoreHeaders : Issues headerWord scratch headerCtx ∧ headerCtx.act ≠ 0 ∧
    scratch.placeAll headerCtx.part headerCtx.func (fmElems headerCtx 1 0 64 (.s 3)) 1 { write := true } = .ok headerPlaces ∧
    (∀ x ∈ headerPlaces, ∀ b ∈ x.2, b.1.tier ≠ 1 ∧ quiet scratch headerCtx.part headerCtx.func (b.1, b.2 / 64 * 64)) := by
  refine ⟨issues_of (by decide +kernel), by decide +kernel, by decide +kernel, ?_⟩
  have h : headerPlaces.all (fun x => x.2.all (fun b => decide (b.1.tier ≠ 1) && quietAll scratch headerCtx.part headerCtx.func [(b.1, b.2 / 64 * 64)])) = true := by decide +kernel
  intro x hx b hb
  have := List.all_eq_true.1 (List.all_eq_true.1 h x hx) b hb
  simp only [Bool.and_eq_true, decide_eq_true_eq] at this
  exact ⟨this.1, quiet_of this.2 _ (List.mem_cons_self ..)⟩

/-- OOBFLAG set, and recorded in cycle 0, one cycle ago. -/
def flagged : State := onWg (fun g => { g with oob := { g.oob with flag := true, kind := 2, since := 0 } }) { (start) with now := 1 }

/-- StoreScratch: the last lanes lie above the scratchpad; FLAG clear with nothing recorded, and FLAG that an earlier cycle set. -/
theorem witness_StoreScratch : (∀ s ∈ [start, flagged], ∀ i ∈ ([.st h0 (.sp .none) .plain .w64 1 0x7FFF (.v 1), .st h0 (.sp .none) .plain .w32 2 0 (.v 1)] : List Instr),
    ((ctxOf i s).act != 0) = true ∧ Issues i s (ctxOf i s)) ∧
    ((start.wg wk).oob.flag = false ∧ (start.wg wk).oob.seen = none ∧ (elements (ctxOf (.st h0 (.sp .none) .plain .w64 1 0x7FFF (.v 1)) start) .w64 1 0x7FFF (.v 1)).any
      (fun x => !(start.wg wk).spIn x.2 (widthBytes .w64)) = true) ∧
    (flagged.wg wk).oob.flag = true ∧ (flagged.wg wk).oob.since ≠ flagged.now :=
  ⟨fun s hs => by
    simp only [List.mem_cons, List.not_mem_nil, or_false] at hs
    obtain rfl | rfl := hs <;> exact issues_all (by decide +kernel), by decide +kernel, by decide +kernel⟩

/-- Atomics on device memory, whose places are plain, and on the scratchpad, each lane at its own address or all at one. -/
def atomics : List Instr :=
  [.atom h0 .add .n32 .plain false (some (.v 9)) (.s 1) (some (.v 1)), .atom h0 .ld .n64 (.acq .dev) false (some (.s 9)) (.s 1) none, .atom h0 .st .n16 (.rel .dev) false none (.s 1) (some (.s 3)),
   .atom h0 .xchg .n64 (.ar .wg) true (some (.s 9)) (.s 2) (some (.s 3)), .cas h0 .n64 (.sc .dev) false 2 (.v 9) (.s 1) (.v 1), .cas h0 .n32 .plain true 0 (.s 9) (.s 2) (.s 3)]

def atomicOk (s : State) (i : Instr) : Bool :=
  let c := ctxOf i s
  c.act != 0 && (match atomic c i with
    | none => false
    | some x => misaligned c x.scalar (atomElems c x.scalar x.addr) (width x.ty / 8) == 0 &&
      (x.sp || (match s.placeAll c.part c.func (atomElems c x.scalar x.addr) (width x.ty / 8) { write := x.writes } with
        | .ok ps => quietAll s c.part c.func (placeLines (ps.flatMap Prod.snd)) &&
          ps.all (fun y => y.2.all (fun b => b.1.comp.isNone && b.1.place % 64 == 0)) &&
          (match atomDev c x.store (width x.ty / 8) (readPlaces c s ps).1 ps with | .ok _ => true | .error _ => false)
        | _ => false)))

theorem witness_Atomics : (∀ i ∈ atomics, atomicOk scratch i = true ∧ Issues i scratch (ctxOf i scratch)) ∧ scratch.poison = [] := ⟨issues_all (by decide +kernel), by decide +kernel⟩

/-- BufferBound: a full buffer that merges an entry. -/
def fullBuffer : List BufEntry := (List.range 64).map (fun k => { key := k, va := k, op := .add, ty := .n32, scope := .dev, partial_ := 1 })

theorem witness_BufferBound : (match bufferAll fullBuffer [{ key := 63, va := 63, op := .add, ty := .n32, scope := .dev, partial_ := 2 }] with | .ok out => out.length == 64 | _ => false) = true ∧
    fullBuffer.length ≤ 64 ∧ fullBuffer.Pairwise (fun x y => x.key ≠ y.key) := by decide +kernel

theorem witness_SweepWord : ∀ i ∈ ([.tsweep h0 (.copy 1) .n8 0 9 none, .tsweep h0 .add .s8 2 9 (some 1)] : List Instr),
    ((ctxOf i start).act != 0 && !(ctxOf i start).front && !(start.core 0).sweepsOn 0 [0, 1, 2]) = true ∧ Issues i start (ctxOf i start) := issues_all (by decide +kernel)

/-! ### Witnesses: mass words -/

def massWords : List Instr :=
  [.mtcfg h0 false 0 (.s 1), .mtlink h0 false 0 2, .mtclr h0 false 0, .mtload h0 true 0 (.s 4) (.s 3), .mtset h0 false 0 (.sp 0) (.v 1), .mtadd h0 true true 0 (.sp 0) (.v 1), .mtget h0 false 0 (.v 9) (.v 1),
   .mtpfx h0 false 0 (.v 9) (.v 1), .mtfind h0 true 0 (.v 9) (.v 1), .mttot h0 false 0 (.s 9), .mtcutIdx h0 false 0 (.s 9) (.s 3), .mtcutMass h0 false 3 (.s 9) (.s 3)]

theorem witness_MassArrival : ∀ i ∈ massWords, ((massOperands i).isSome && (ctxOf i start).act != 0 &&
    (match i with | .mtload _ _ _ a _ => (src64 (ctxOf i start) a 0).toNat % 4 == 0 | _ => true)) = true ∧ Issues i start (ctxOf i start) := issues_all (by decide +kernel)

/-- MassArrival: a queue in order, to which an instruction of the same cycle comes from an earlier scheduler. -/
def queued (slot at_ : Nat) : MassOp := { slot := slot, instr := .nop h0, act := 0, a := zeroVec, b := zeroVec, flight := 0, at_ := at_ }
theorem witness_MassArrival_order : [queued 48 3, queued 17 4, queued 32 4].Pairwise arrivesBefore ∧ (∀ x ∈ [queued 48 3, queued 17 4, queued 32 4], x.at_ ≤ (queued 0 4).at_) ∧
    ((insertArrival (queued 0 4) [queued 48 3, queued 17 4, queued 32 4]).map MassOp.slot) = [48, 0, 17, 32] := by
  unfold arrivesBefore
  refine ⟨?_, ?_, ?_⟩ <;> decide +kernel

/-- A workgroup that owns two registers, m0 of 16 leaves with no fraction bits, leaf 0 with mass 5. -/
def massOwner (g : Workgroup) : Workgroup :=
  { g with massOwned := 2, mass := [(0, { conf := true, f := 0, n := 16, leaves := [(0, 5)] })] }

/-- The first entry of the issuing warp. -/
def entryOf (s : State) : Entry := (s.issuerWarp s.cur).frontier.headD { prio := 0, pc := 0, lanes := 0 }

/-- A mass instruction at the head of the unit's queue. -/
def massAt (i : Instr) (s : State) : State :=
  onWarp (fun w => { w with nextFlight := 1, flights := [{ id := 0, kind := .mass, pc := 0x20000, word := encode i, regs := [], writes := [], late := .none, holds := true, walkGate := false }] })
    (onCore (fun k => { k with massQ := [{ slot := 0, instr := i, act := 3, a := zeroVec, b := mkVec (fun _ => 1), flight := 0, at_ := 0 }] }) (onWg massOwner { s with now := 1 }))

/-- The unit may start the instruction of `massAt`, whose effect meets `p`. -/
def massReady (p : MassOut → Bool) (i : Instr) : Bool :=
  let s := massAt i (vectored start)
  !s.massBusy 0 && (match (s.core 0).massQ with
    | o :: _ => decide (o.at_ < s.now) && !massRebuilding (s.wg (s.warp 0 o.slot).wg) o && (s.warp 0 o.slot).trap.vec != 0 && !(s.warp 0 o.slot).trap.intrap &&
        (match (s.warp 0 o.slot).flights.find? (fun y => y.id == o.flight) with
          | some f => p (massEffect (s.wg (s.warp 0 o.slot).wg) (oobBy (s.ctxAt (.warp 0 o.slot) (s.warp 0 o.slot) (flightEntry (s.warp 0 o.slot) f) (hdrOf o.instr)) s) o)
          | none => false)
    | [] => false)

/-- MassStart: an instruction that acts on m0, and one that names a register which the workgroup does not own. -/
theorem witness_MassStart : massReady (fun o => match o with | .ok _ _ d => d.isSome | _ => false) (.mttot h0 true 0 (.s 9)) = true ∧
    massReady (fun o => match o with | .ok _ _ _ => true | _ => false) (.mtadd h0 true true 0 (.v 1) (.v 1)) = true ∧
    massReady (fun o => match o with | .fail r _ _ => r == 1 | _ => false) (.mtclr h0 false 3) = true := by decide +kernel

/-- MassArithmetic: two lanes add to one leaf; a target in the second of two leaves; a limit that reaches a target. -/
theorem witness_MassArithmetic :
    (match massAdd (massOwner noWg) 0 true true { slot := 0, instr := .mtadd h0 true true 0 (.v 1) (.v 1), act := 3, a := zeroVec, b := mkVec (fun _ => 1), flight := 0, at_ := 0 } with
      | .ok g _ none => g.leaf 0 0 == 7 | _ => false) = true ∧
    [(0, 4), (3, 2)].Pairwise (fun x y : Nat × Nat => x.1 < y.1) ∧ 4 < ([(0, 4), (3, 2)].map (Prod.snd : Nat × Nat → Nat)).sum ∧
    (cutIndex [(0, 4), (3, 2)] 5).isSome = true := by decide +kernel

/-! ### Witnesses: walk, task, KV, collective, digest and counter words -/

/-- A walk record: GEMM of 16 by 16 by 16 in FP32 tiles, two slots a ring, raised one step ahead, handlers 1, 2 and 3. -/
def walkRecord : List Byte :=
  [0, 0, 1, 1, 16, 0, 0, 0, 16, 0, 0, 0, 16, 0, 0, 0, 16, 16, 16, 0x22, 1, 2, 3, 1] ++ bytesLE 4 0 ++ bytesLE 4 2048 ++ List.replicate 96 0

/-- A task record: entry 0x20000, kind 3, one warp; and a launch record. -/
def taskRecord : List Byte := bytesLE 8 0x20000 ++ List.replicate 28 0 ++ [3, 0, 0, 1] ++ List.replicate 24 0

/-- A KV descriptor: sequence table at 0x31000 with one entry, blocks of 16 positions, rows of 64 bytes; four blocks from 0x32000. -/
def kvDescriptor : List Byte := bytesLE 8 0x31000 ++ bytesLE 4 1 ++ [4, 0, 0, 0] ++ bytesLE 4 64 ++ List.replicate 44 0
def kvMemory (s : State) : State :=
  store 0x31100 ([0, 1, 2, 3].flatMap (fun k => bytesLE 16 (2 ^ 63 + 0x32000 + 0x400 * k))) (store 0x31000 (bytesLE 8 0x31100 ++ bytesLE 4 4 ++ bytesLE 4 0 ++ bytesLE 4 0) s)

def handlerTeams : List Team := [1, 2, 3].map (fun k => { h := k, team := 0, slots := [] })

/-- The state of these words: records in memory, teams of handlers, a descriptor, a counter of five at 0x30400. -/
def queues : State :=
  onPart (fun p => { p with queue := [] }) (onWg (fun g => { g with kvtab := 1, kvDesc := some kvDescriptor, awlimit := 64, teams := handlerTeams })
    (onWarp (fun w => few (withS [(4, 0x30100), (5, 0x30200), (6, 0x30400), (7, 0), (8, 0x30500)] w))
      (kvMemory (store 0x30500 kvDescriptor (store 0x30400 (bytesLE 4 5) (store 0x30200 walkRecord (store 0x30100 taskRecord start)))))))

def recordOk (s : State) (i : Instr) : Bool :=
  (ctxOf i s).act != 0 && (match recordRead i (ctxOf i s) s with
    | some (r, bs) => (recordEffect i (ctxOf i s) r bs).isSome
    | none => false)

/-- RecordWords: each word with its record; a walk that is refused (an all-zero record), a task that waits for a counter. -/
theorem witness_RecordWords : ∀ i ∈ ([.walk h0 false (.s 9) (.s 5), .walk h0 true (.s 9) (.s 7), .tspawn h0 false (.s 4), .launch h0 (.s 9) (.s 1), .kvseal h0 (.s 1), .coll h0 (.s 1)] : List Instr),
    recordOk queues i = true ∧ Issues i queues (ctxOf i queues) := issues_all (by decide +kernel)

/-- The walk of the first record is accepted. -/
theorem test_walk_accepted : (match recordRead (.walk h0 false (.s 9) (.s 5)) (ctxOf (.walk h0 false (.s 9) (.s 5)) queues) queues with
    | some (r, bs) => let w := walkOf (ctxOf (.walk h0 false (.s 9) (.s 5)) queues) r bs
      (walkReason (ctxOf (.walk h0 false (.s 9) (.s 5)) queues) r w.1 w.2).isNone
    | none => false) = true := by decide +kernel

def unitOk (s : State) (i : Instr) : Bool :=
  (ctxOf i s).act != 0 && (unitEffect i (ctxOf i s) s).isSome

/-- UnitWords of a work warp. -/
theorem witness_UnitWords : ∀ i ∈ ([.mov h0 .s32 (.idx 3) (.op (.s 2)), .shape h0 (.s 2) (.s 2), .csrw h0 0x001 (.s 3), .csrw h0 0x104 (.s 3), .csrw h0 0x106 (.imm 0), .csrw h0 0x106 (.imm 1), .wstat h0 (.s 9) (.s 3) 6,
    .wcancel h0 (.s 3), .mfence h0, .tdec h0 false (.s 6) (.imm 5), .tdec h0 true (.s 6) (.imm 0), .kvfree h0 (.s 7) (.imm 16), .kvx h0 false (.v 9) (.v 1) (.s 7), .kvx h0 true (.s 9) (.imm 0) (.s 7),
    .dreg h0 63 (.s 1) (.s 2), .dunreg h0 0, .dgrd h0 63 .laneB (.s 9)] : List Instr), unitOk queues i = true ∧ Issues i queues (ctxOf i queues) := issues_all (by decide +kernel)

/-- The warp as the first of a handler team, its upcall in the queue. -/
def handling : State :=
  onCore (fun k => { k with upcalls := [{ place := 5, wid := 256, wg := wk, h := 1, kind := .proda, accw := 0, tilem := 0, tilen := 0, tilek := 0, slot := 0, seq := 0, vm := 0, vn := 0, vk := 0, idx := 0, team := some 0 }] })
    (onWg (fun g => { g with teams := [{ h := 1, team := 0, slots := [0], upcall := some 5 }] })
      (onWarp (fun w => { w with team := some { h := 1, team := 0, pos := 0 }, num := 16, uparg := some 5 }) queues))

/-- UnitWords of a handler warp. -/
theorem witness_UnitWords_handler : ∀ i ∈ ([.harg h0 (.v 9) 3] : List Instr), unitOk handling i = true ∧ Issues i handling (ctxOf i handling) := issues_all (by decide +kernel)


/-! ### Witnesses: words that wait, leave, stop and trap -/

/-- A word that reads s4 while a RED to s4 is in flight. -/
def pendingRead : Instr := .iadd h0 .s32 (.v 4) (.s 4) (.imm 1)

/-- Full queues of copies, walks, KV commands and collectives; a sweep of nest 3 runs. -/
def fullQueues : State :=
  let by_ : Issued := { slot := 0, wg := wk, func := 1, part := 0, lid := 1, warpNum := 0, pc := 0, word := 0 }
  onPart (fun p => { p with colls := List.replicate 64 { by_ := by_, core := 0xFFFF, desc := [] } })
    (onCore (fun k => { k.modSched 0 (fun x => { x with sweeps := [{ by_ := by_, op := .add, ty := .n8, ns := 3, d := 9, ctr := none, flight := 0, dst := [], src := [] }] }) with
        copies := List.replicate 16 { by_ := by_, desc := [] }, kvs := List.replicate 16 { by_ := by_, bytes := [], blkb := 0 }
        walks := List.replicate 8 { wid := 7, wg := wk, depth := 0, parent := none, slot := 0, fromHandler := false, record := [], tm := 16, tn := 16, tk := 16 } }) start)

/-- Launch storage, and storage of spawned tasks, are full: how much there is, is open (DESIGN CHOICE, log 7). -/
def fullLaunches : State := onPart (fun p => { p with queue := List.replicate (Config.launchStorage + 1) 9 }) start
def taskful (g : Workgroup) : Workgroup := { g with tasks := List.replicate (Config.taskStorage + 1) { id := 1, record := [] } }
def fullTasks : State := onWg taskful start

theorem fullLaunches_full : fullLaunches.roomFull 0 0 .launch = true := by
  have h : fullLaunches.wgPart (fullLaunches.wg (fullLaunches.warp 0 0).wg) = 0 := by decide +kernel
  have hq : (fullLaunches.part 0).queue.length = Config.launchStorage + 1 := by
    simp [fullLaunches, onPart, State.modPart, State.setPart, State.part, get_put_same]
  simp [State.roomFull, h, hq]

theorem fullTasks_full : fullTasks.roomFull 0 0 .spawn = true := by
  have h : fullTasks.wgPart (fullTasks.wg (fullTasks.warp 0 0).wg) = 0 := by decide +kernel
  have hw : fullTasks.wgs = [(wk, taskful (start.wg wk))] := by
    have hn : taskful (start.wg wk) ≠ noWg := fun hc => absurd (congrArg Workgroup.live hc) (by decide +kernel)
    have he : erase start.wgs wk = [] := by decide +kernel
    show put noWg start.wgs wk (taskful (start.wg wk)) = _
    simp [put, hn, he, insertKey]
  have hp : (fullTasks.launch (taskful (start.wg wk)).lid).part = 0 := by decide +kernel
  simp only [State.roomFull, h, State.storedTasks, hw, List.foldl_cons, List.foldl_nil, hp, if_pos, decide_eq_true_eq]
  simp [taskful]

/-- BlockedWords: full queues; a WALK behind a WREG or AWIN; words on the nest of a sweep; a word on a pending register. -/
theorem witness_BlockedWords :
    (∀ i ∈ ([.copy h0 false (.s 1), .walk h0 false (.s 9) (.s 1), .kvseal h0 (.s 1), .coll h0 (.s 1)] : List Instr),
      ((ctxOf i fullQueues).act != 0 && !(ctxOf i fullQueues).front && (match roomOf i with
        | some (r, a, n) => (src64 (ctxOf i fullQueues) a 0).toNat % n == 0 && fullQueues.gateOpen 0 wk && fullQueues.roomFull 0 0 r
        | none => false)) = true ∧ Issues i fullQueues (ctxOf i fullQueues)) ∧
    (let s := onWarp (fun w => { inFlight w with flights := (inFlight w).flights.map (fun f => { f with walkGate := true }) }) start
     ∀ i ∈ ([.walk h0 false (.s 9) (.s 1)] : List Instr), ((ctxOf i s).act != 0 && !(ctxOf i s).front && (src64 (ctxOf i s) (.s 1) 0).toNat % 8 == 0 && !s.gateOpen 0 wk) = true ∧
       Issues i s (ctxOf i s)) ∧
    (∀ i ∈ ([.nset h0 (.word 0) 3 (.s 1), .nget h0 (.s 9) 3 7, .nrst h0 3, .tsweep h0 .add .n8 3 9 none, .tsweep h0 (.copy 3) .n8 0 9 none] : List Instr),
      ((ctxOf i fullQueues).act != 0 && !(ctxOf i fullQueues).front && (match nestsOf i with | some ns => (fullQueues.core 0).sweepsOn 0 ns | none => false)) = true ∧
      Issues i fullQueues (ctxOf i fullQueues)) ∧
    (let s := onWarp inFlight start
     s.issuer = some (s.warp 0 0, entryOf s) ∧ (s.warp 0 0).heldUp = false ∧ pendingRead.wf = true ∧ isEvent pendingRead = false ∧ (ctxOf pendingRead s).front = false ∧
       stateIllegal pendingRead (ctxOf pendingRead s) = false ∧ lookaheadFault pendingRead (s.warp 0 0) = none ∧ (blockOf pendingRead (s.warp 0 0)).isSome = true) :=
  ⟨issues_all (by decide +kernel), issues_all (by decide +kernel), issues_all (by decide +kernel), issuer_of (by decide +kernel), by decide +kernel, by decide +kernel, by decide +kernel,
   by decide +kernel, by decide +kernel, by decide +kernel, by decide +kernel⟩

theorem witness_BlockedWords_storage :
    (Issues (.launch h0 (.s 9) (.s 1)) fullLaunches (ctxOf (.launch h0 (.s 9) (.s 1)) fullLaunches) ∧ (ctxOf (.launch h0 (.s 9) (.s 1)) fullLaunches).act ≠ 0 ∧
      (src64 (ctxOf (.launch h0 (.s 9) (.s 1)) fullLaunches) (.s 1) 0).toNat % 8 = 0 ∧ fullLaunches.launchTurn 1 (src64 (ctxOf (.launch h0 (.s 9) (.s 1)) fullLaunches) (.s 1) 0) = true ∧
      fullLaunches.roomFull 0 0 .launch = true) ∧
    Issues (.tspawn h0 false (.s 1)) fullTasks (ctxOf (.tspawn h0 false (.s 1)) fullTasks) ∧ (ctxOf (.tspawn h0 false (.s 1)) fullTasks).act ≠ 0 ∧
      (src64 (ctxOf (.tspawn h0 false (.s 1)) fullTasks) (.s 1) 0).toNat % 8 = 0 ∧ fullTasks.roomFull 0 0 .spawn = true :=
  ⟨⟨issues_of (by decide +kernel), by decide +kernel, by decide +kernel, by decide +kernel, fullLaunches_full⟩, issues_of (by decide +kernel), by decide +kernel, by decide +kernel, fullTasks_full⟩

/-- The function's journal replays, and holds the launch of another record before that of the word's. -/
def replayed : State :=
  store 0x3E000 (journalBytes 1 1 0 0 0 ++ journalBytes 1 2 0 0 0)
    (onFunc (fun f => { f with jrn := 0x3E002, jrnPos := 2, jrnWords := [(1, 0x30000, false)] }) start)

theorem witness_BlockedWords_recorded : Issues (.launch h0 (.s 9) (.s 1)) replayed (ctxOf (.launch h0 (.s 9) (.s 1)) replayed) ∧
    (ctxOf (.launch h0 (.s 9) (.s 1)) replayed).act ≠ 0 ∧ (ctxOf (.launch h0 (.s 9) (.s 1)) replayed).front = false ∧
    (src64 (ctxOf (.launch h0 (.s 9) (.s 1)) replayed) (.s 1) 0).toNat % 8 = 0 ∧
    replayed.launchTurn 1 (src64 (ctxOf (.launch h0 (.s 9) (.s 1)) replayed) (.s 1) 0) = false :=
  ⟨issues_of (by decide +kernel), by decide +kernel, by decide +kernel, by decide +kernel, by decide +kernel⟩

/-- LanesLeave: half of the lanes go, or all of them; a work warp and a handler warp. -/
theorem witness_LanesLeave :
    (∀ i ∈ ([.exit { h0 with guard := 1 }] : List Instr), (leaves i && (ctxOf i start).act != 0 && !(ctxOf i start).front &&
      ((ctxOf i start).w.replaceEntry start.now (ctxOf i start).e (withoutActive (ctxOf i start))).frontier.length != 0) = true ∧ Issues i start (ctxOf i start)) ∧
    (∀ i ∈ ([.hret { h0 with guard := 1 }, .hretAbort { h0 with guard := 1 }] : List Instr), (leaves i && (ctxOf i handling).act != 0 && !(ctxOf i handling).front &&
      ((ctxOf i handling).w.replaceEntry handling.now (ctxOf i handling).e (withoutActive (ctxOf i handling))).frontier.length != 0) = true ∧ Issues i handling (ctxOf i handling)) ∧
    (∀ i ∈ ([.exit h0] : List Instr), ((ctxOf i start).act != 0 && start.cur == .warp 0 0 &&
      ((ctxOf i start).w.replaceEntry start.now (ctxOf i start).e (withoutActive (ctxOf i start))).frontier.length == 0) = true ∧ Issues i start (ctxOf i start)) ∧
    (∀ i ∈ ([.hret h0, .hretAbort h0] : List Instr), ((ctxOf i handling).act != 0 && handling.cur == .warp 0 0 &&
      ((ctxOf i handling).w.replaceEntry handling.now (ctxOf i handling).e (withoutActive (ctxOf i handling))).frontier.length == 0) = true ∧ Issues i handling (ctxOf i handling)) ∧
    start.cur = .warp 0 0 :=
  ⟨issues_all (by decide +kernel), issues_all (by decide +kernel), issues_all (by decide +kernel), issues_all (by decide +kernel), by decide +kernel⟩

/-- The counter at an address of the program, as a park finds it. -/
def counterPlaces (s : State) (a : Nat) : List (Page × Nat) :=
  match s.placeAll 0 1 [(0, a)] 4 {} with
  | .ok [(0, ps)] => ps
  | _ => []

/-- Waits: a counter that is five and one that is zero; a walk that is not there; a YIELD. -/
theorem witness_Waits :
    (∀ i ∈ ([.parkCtr h0 6, .parkCtr h0 1] : List Instr), ((ctxOf i queues).act != 0) = true ∧ Issues i queues (ctxOf i queues)) ∧
    (∀ a ∈ [0x30400, 0x30000], a % 4 = 0 ∧ queues.placeAll 0 1 [(0, a)] 4 {} = .ok [(0, counterPlaces queues a)] ∧ (match counterPlaces queues a with
      | (pg, off) :: _ =>
        pg.tier != 2 &&
          ((readPlaces (ctxOf (.parkCtr h0 6) queues) queues [(0, counterPlaces queues a)]).1.countAt (pg.place + off) == (if a = 0x30400 then 5 else 0))
      | [] => false) = true) ∧
    (∀ i ∈ ([.parkWalk h0 3, .yield h0] : List Instr), ((ctxOf i start).act != 0 && ((start.core 0).walk 1).isNone && start.cur == .warp 0 0) = true ∧ Issues i start (ctxOf i start)) :=
  ⟨issues_all (by decide +kernel), by decide +kernel, issues_all (by decide +kernel)⟩

/-- A walk of the workgroup, accepted from the record above. -/
def aWalk : Walk :=
  { wid := 256, wg := wk, depth := 0, parent := none, slot := 0, fromHandler := false, record := walkRecord, tm := 16, tn := 16, tk := 16
    slotsA := [.free, .free], slotsB := [.free, .free] }
def withWalk (f : Walk → Walk) (s : State) : State := onCore (fun k => { k with walks := [f aWalk] }) s

theorem witness_Waits_walk : Issues (.parkWalk h0 2) (withWalk id (onWarp (withS [(2, 256)]) start)) (ctxOf (.parkWalk h0 2) (withWalk id (onWarp (withS [(2, 256)]) start))) ∧
    (ctxOf (.parkWalk h0 2) (withWalk id (onWarp (withS [(2, 256)]) start))).act ≠ 0 ∧
    ((withWalk id (onWarp (withS [(2, 256)]) start)).core 0).walk 256 = some aWalk ∧ aWalk.state ≠ .done ∧ aWalk.wg = wk :=
  ⟨issues_of (by decide +kernel), by decide +kernel, by decide +kernel, by decide, rfl⟩

/-- A second warp of the workgroup, which has not arrived. -/
def twoWarps (s : State) : State := s.setWarp 0 1 { (s.warp 0 0) with state := .ready, num := 1 }

theorem witness_Barriers :
    (∀ i ∈ ([.bar h0 0, .flusha h0 0] : List Instr), ((ctxOf i (twoWarps start)).act != 0 && !badGroup (ctxOf i (twoWarps start)) 0 && (twoWarps start).cur == .warp 0 0 && decide (0 < 64) &&
      !((twoWarps start).arrive wk 0 0 false).barrierFull wk 0 && !((twoWarps start).arrive wk 0 0 true).barrierFull wk 0) = true ∧ Issues i (twoWarps start) (ctxOf i (twoWarps start))) ∧
    (∀ i ∈ ([.bar h0 0] : List Instr), ((ctxOf i start).act != 0 && !badGroup (ctxOf i start) 0 && start.cur == .warp 0 0 && (start.instanceWgs wk 0).contains wk && (start.arrive wk 0 0 false).barrierFull wk 0 &&
      !(start.instanceWgs wk 0).any (fun j => get false (start.wg j).flushing 0)) = true ∧ Issues i start (ctxOf i start)) :=
  ⟨issues_all (by decide +kernel), issues_all (by decide +kernel)⟩

/-- The state of WREG and AWIN: s5 = a configuration of one team of one warp with one register, s6 = the entry. -/
def setup : State := onWarp (withS [(5, 0x10000), (6, 0x40000)]) start
def setupCtx : Ctx := ctxOf (.wreg h0 15 (.s 9) (.s 6) (.s 5)) setup

theorem witness_HandlerSetup :
    (Issues (.wreg h0 15 (.s 9) (.s 6) (.s 5)) setup setupCtx ∧ setupCtx.act ≠ 0 ∧ (src64 setupCtx (.s 6) 0).toNat % 8 = 0 ∧ wregBad (src64 setupCtx (.s 5) 0) = false ∧
      setupCtx.wg.wregs.contains 15 = false ∧ (get {} setupCtx.launch.handlers 15).set = false ∧
      footprint (wregEntry (src64 setupCtx (.s 6) 0) (src64 setupCtx (.s 5) 0)).budget ≤ setupCtx.wg.part.regs * 32768) ∧
    (∀ i ∈ ([.awin h0 (.imm 0) (.s 2), .awin h0 (.s 2) (.s 2)] : List Instr), ((ctxOf i start).act != 0 &&
      (match i with
       | .awin _ a b => decide ((src64 (ctxOf i start) a 0).toNat ≤ (src64 (ctxOf i start) b 0).toNat) && decide ((src64 (ctxOf i start) b 0).toNat ≤ (ctxOf i start).wg.part.acc * 64)
       | _ => false)) = true ∧ Issues i start (ctxOf i start)) ∧
    (let s := onWarp (fun w => { inFlight w with flights := (inFlight w).flights.map (fun f => { f with late := .window 0 64, writes := [] }) }) start
     ∃ f, (s.warp 0 0).flights[0]? = some f ∧ f.kind = .timed ∧ f.late = .window 0 64) :=
  ⟨⟨issues_of (by decide +kernel), by decide +kernel, by decide +kernel, by decide +kernel, by decide +kernel, by decide +kernel, by decide +kernel⟩, issues_all (by decide +kernel),
   _, rfl, by decide +kernel, by decide +kernel⟩

/-- A prologue of launch 1 that issues. -/
def fronted : State :=
  { onPart (fun p => { p with prologue := some { lid := 1, words := 5, warp := { (withS [(0, 7), (2, 3), (3, 0x0000000100000002)] {}) with
      state := .ready, nregs := 64, frontier := [{ prio := 0, pc := 0x20000, lanes := 1 }] } } })
      (onLaunch (fun l => { l with state := .prologue, record := (List.replicate 64 0) ++ bytesLE 8 0x20000 ++ List.replicate 8 0 ++ [1, 0, 1, 1] ++ List.replicate 44 0 }) start) with cur := .prologue 0 }

/-- PrologueEnds: a grid of 3 by 2 by 1 and one with no workgroup. -/
theorem witness_PrologueEnds : (∀ i ∈ ([.pemit h0 (.s 2) (.s 3), .pemit h0 (.imm 0) (.s 3), .prepeat h0 (.s 2) (.s 3)] : List Instr), ((ctxOf i fronted).act != 0 && (ctxOf i fronted).launch.coll.isNone &&
      (match i with
       | .pemit _ a b | .prepeat _ a b => (fronted.emitBad (ctxOf i fronted).lid (src64 (ctxOf i fronted) a 0).toNat (bits (src64 (ctxOf i fronted) b 0) 0 32) (bits (src64 (ctxOf i fronted) b 0) 32 32)).isNone
       | _ => false)) = true ∧ Issues i fronted (ctxOf i fronted)) ∧
    ∀ i ∈ ([.pcancel h0] : List Instr), ((ctxOf i fronted).act != 0 && (ctxOf i fronted).launch.coll.isNone && (ctxOf i fronted).part == (ctxOf i fronted).launch.part && launchOpen fronted) = true ∧ Issues i fronted (ctxOf i fronted) :=
  ⟨issues_all (by decide +kernel), issues_all (by decide +kernel)⟩

/-- LaunchStops: a word that is no instruction, in a warp and in a prologue; a warp in its trap handler, and one with no vector. -/
theorem witness_LaunchStops :
    (∀ s ∈ [start, fronted], s.issuer = some (s.issuerWarp s.cur, entryOf s) ∧ (s.issuerWarp s.cur).heldUp = false ∧ launchOpen s = true) ∧
    (∀ s ∈ [start, trapped], (ctxOf (.trap h0 5) s).front = false ∧ launchOpen s = true ∧
      ((s.issuerWarp (ctxOf (.trap h0 5) s).who).trap.intrap = true ∨ (s.issuerWarp (ctxOf (.trap h0 5) s).who).trap.vec = 0) ∧
      Issues (.trap h0 5) s (ctxOf (.trap h0 5) s) ∧ (ctxOf (.trap h0 5) s).act ≠ 0) ∧
    (start.wg wk).live = true ∧ (start.wg wk).lid = 1 ∧ (start.warp (start.wg wk).core 0).wg = wk := by
  refine ⟨fun s hs => ?_, fun s hs => ?_, by decide +kernel⟩
  all_goals
    simp only [List.mem_cons, List.not_mem_nil, or_false] at hs
    obtain rfl | rfl := hs
  · exact ⟨issuer_of (by decide +kernel), by decide +kernel, by decide +kernel⟩
  · exact ⟨issuer_of (by decide +kernel), by decide +kernel, by decide +kernel⟩
  · exact ⟨by decide +kernel, by decide +kernel, by decide +kernel, issues_of (by decide +kernel), by decide +kernel⟩
  · exact ⟨by decide +kernel, by decide +kernel, by decide +kernel, issues_of (by decide +kernel), by decide +kernel⟩

/-- The example of 03 R59: FSQRT with la=2 at 0x200, and v10 read inside its window. -/
def windowed : State := vectored (onWarp (fun w => { w with windows := [{ left := 1, pc := 0x200, regs := [.v 10] }] }) start)

/-- What the checks before a precise trap find of a word. -/
def checked (s : State) (i : Instr) : Bool := s.issuer.isSome && !(ctxOf i s).w.heldUp && i.wf && !isEvent i && !stateIllegal i (ctxOf i s)

/-- PreciseTraps: words that touch v10 in its window, the pair among them; words that name v63, the last register, and v64. -/
theorem witness_PreciseTraps :
    (∀ i ∈ ([.iadd h0 .s32 (.v 12) (.v 10) (.v 4), .ld h0 .g .plain .w32 1 0 (.v 10),
        .pairWord 0 false { op := .mov, guard := 0, d := 1, b := .v 10, ty := .s32 } { op := .fadd, guard := 0, d := 2, b := .v 1, ty := .f32 }] : List Instr),
      checked windowed i = true ∧ lookaheadFault i (ctxOf i windowed).w = some ({ left := 1, pc := 0x200, regs := [.v 10] }, .v 10) ∧ canTrap (ctxOf i windowed)) ∧
    (∀ i ∈ ([.iadd h0 .s32 (.v 64) (.v 63) (.v 4), .st h0 .g .plain .w32 1 0 (.v 64)] : List Instr),
      checked (vectored start) i = true ∧ lookaheadFault i (ctxOf i (vectored start)).w = none ∧ blockOf i (ctxOf i (vectored start)).w = none ∧
      indexFault i (ctxOf i (vectored start)).w = some 64 ∧ canTrap (ctxOf i (vectored start))) ∧
    indexFault (.iadd h0 .s32 (.v 63) (.v 63) (.v 4)) ((vectored start).warp 0 0) = none := by
  refine ⟨?_, ?_, by decide +kernel⟩
  all_goals
    intro i hi
    simp only [List.mem_cons, List.not_mem_nil, or_false] at hi
  · obtain rfl | rfl | rfl := hi <;> exact ⟨by decide +kernel, by decide +kernel, canTrap_of (by decide +kernel)⟩
  · obtain rfl | rfl := hi <;> exact ⟨by decide +kernel, by decide +kernel, by decide +kernel, by decide +kernel, canTrap_of (by decide +kernel)⟩

/-- Predicates: MOV to an index register, with an active lane and with none; a write of p7 and one of p0. -/
theorem witness_IndexMove : ∀ i ∈ ([.mov h0 .s64 (.idx 3) (.op (.s 1)), .mov hOff .n8 (.idx 0) (.op (.imm (-1)))] : List Instr),
    true = true ∧ Issues i start (ctxOf i start) := issues_all (p := fun _ => true) (by decide +kernel)

/-- ZipRanges: the word of ZIP2; a range that passes v255; ranges that reach the declared count, of the source and of both. -/
theorem witness_ZipChecks : decode (fr 0x57 254 2 0 0) = some (.zip2 h0 254 2) ∧ (Instr.zip3 h0 2 254).wf = false ∧ zipRange (.zip3 h0 2 254) = some (2, 3, 254) ∧
    launchOpen start = true ∧ ((vectored start).warp 0 0).heldUp = false ∧ (vectored start).issuer = some ((vectored start).warp 0 0, entryOf (vectored start)) ∧
    (∀ i ∈ ([.zip3 h0 2 62, .unzip4 h0 61 61] : List Instr), i.wf = true ∧ lookaheadFault i ((vectored start).warp 0 0) = none ∧ blockOf i ((vectored start).warp 0 0) = none) ∧
    ((vectored start).warp 0 0).nregs = 64 ∧ canTrap (ctxOf (.zip3 h0 2 62) (vectored start)) :=
  ⟨by decide +kernel, by decide +kernel, by decide +kernel, by decide +kernel, by decide +kernel, issuer_of (by decide +kernel), by decide +kernel, by decide +kernel,
   canTrap_of (by decide +kernel)⟩

/-- NothingActive: NOP with GAP and GW, and its word. -/
theorem witness_Nop : Issues (.nop { h0 with gap := 3, gw := true }) start (ctxOf (.nop { h0 with gap := 3, gw := true }) start) ∧ start.cur = .warp 0 0 ∧
    decode (fr 0x01 0 0 0 0) = some (.nop h0) := ⟨issues_of (by decide +kernel), by decide +kernel, by decide +kernel⟩

/-- UserTraps: TRAP and BKPT with no active lane, BKPT without the debug flag, and their words. -/
theorem witness_UserTrapsOff : (∀ i ∈ ([.trap hOff 3, .bkpt hOff 3] : List Instr), ((ctxOf i start).act == 0) = true ∧ Issues i start (ctxOf i start)) ∧
    (Issues (.bkpt h0 5) start (ctxOf (.bkpt h0 5) start) ∧ (ctxOf (.bkpt h0 5) start).launch.debug = false) ∧
    decode (fi 0x0A 0 0 0xBEEF) = some (.trap h0 0xBEEF) ∧ decode (fi 0x0C 0 0 0xFFFF) = some (.bkpt h0 0xFFFF) :=
  ⟨issues_all (by decide +kernel), ⟨issues_of (by decide +kernel), by decide +kernel⟩, by decide +kernel, by decide +kernel⟩

/-- A trap handler's warp whose lanes have parted. -/
def parted : State := onWarp (fun w => { w with frontier := w.frontier ++ [{ prio := 1, pc := 0x40010, lanes := 4 }] }) trapped

/-- TrapReturn: no active lane; outside a trap, and with two entries; the words of both modes. -/
theorem witness_TrapReturnChecks : (∀ i ∈ ([.tretRetry hOff, .tretSkip hOff] : List Instr), ((tretSkips i).isSome && (ctxOf i trapped).act == 0) = true ∧ Issues i trapped (ctxOf i trapped)) ∧
    (∀ i ∈ ([.tretRetry h0, .tretSkip h0] : List Instr), ((ctxOf i start).act != 0 && !(ctxOf i start).w.trap.intrap) = true ∧ Issues i start (ctxOf i start)) ∧
    (∀ i ∈ ([.tretRetry h0, .tretSkip h0] : List Instr), ((ctxOf i parted).act != 0 && (ctxOf i parted).w.frontier.length == 2) = true ∧ Issues i parted (ctxOf i parted)) ∧
    launchOpen start = true ∧ launchOpen parted = true ∧ decode (fr 0x0B 0 0 0 0) = some (.tretRetry h0) ∧ decode (fr 0x0B 0 0 0 0x1000) = some (.tretSkip h0) :=
  ⟨issues_all (by decide +kernel), issues_all (by decide +kernel), issues_all (by decide +kernel), by decide +kernel, by decide +kernel, by decide +kernel, by decide +kernel⟩


/-! ### Witnesses: steps of schedulers, registers and units -/

/-- Warps 0 and 17 of the workgroup, each READY, with no warp ISSUING. -/
def idleCore : State := onCore (fun k => { k with scheds := [] }) (onWarp (fun w => { w with state := .ready, sched := { w.sched with waited := 4032, gapUntil := 7 } })
  { (start.setWarp 0 15 { (start.warp 0 0) with state := .ready, num := 1, sched := { order := 1 } }) with now := 7 })

theorem witness_SchedulerEvents :
    (((idleCore.core 0).sched 0).issuing = none ∧ 0 ∈ schedSlots 0 ∧ idleCore.selectable 0 0 = true ∧
      ∀ j ∈ schedSlots 0, idleCore.selectable 0 j = true → (idleCore.warp 0 0).sched.order < (idleCore.warp 0 j).sched.order ∨ j = 0) ∧
    ((idleCore.warp 0 0).sched.gapUntil ≠ 0 ∧ (idleCore.warp 0 0).sched.gapUntil ≤ idleCore.now) ∧
    ((idleCore.warp 0 0).state = .ready ∧ 4032 ≤ (idleCore.warp 0 0).sched.waited ∧ (idleCore.warp 0 0).sched.promoted = none) := by decide +kernel

/-- A wakeable warp in slot 1 of a full register region, and a warp in slot 0 that is parked and may be a victim. -/
def swapping (f : Warp → Warp) : State :=
  onWarp (fun w => f { w with sched := { w.sched with victim := true }, state := .parked (.barrier 3) })
    { (start.setWarp 0 1 { (start.warp 0 0) with state := .swapped .ready, res := .saveArea, sched := { wakeable := true } }) with now := 65536 }

/-- The register region holds the footprint of one warp. -/
def fullRegion (s : State) : State := onWg (fun g => { g with part := { g.part with swap := 1 } }) s

/-- SwapEvents, each clause: a victim, a free place, the ends of moves, a storage error, the three waits, each at its bound. -/
theorem witness_SwapEvents :
    (let s := swapping id
     s.firstWakeable 0 wk = some 1 ∧ s.moving 0 wk = false ∧ s.regRoom 0 wk (s.warp 0 1).nregs = false ∧ s.victim 0 wk 1 = some 0) ∧
    (let s := swapping (fun w => { w with res := .saveArea })
     s.firstWakeable 0 wk = some 1 ∧ (s.warp 0 1).wg = (s.warp 0 0).wg ∧ s.moving 0 wk = false ∧ s.regRoom 0 wk (s.warp 0 1).nregs = true) ∧
    (let s := onWarp (fun w => { w with res := .movingOut true, state := .swapped .dormant }) start
     (s.warp 0 0).res = .movingOut true ∧ (s.warp 0 0).state ≠ .swapped .ready ∧ s.firstWakeable 0 wk = none) ∧
    (∀ b ∈ [true, false], let s := onWg (fun g => { g with badSwap := if b then none else some 5 }) (onWarp (fun w => { w with res := .movingIn b, state := .swapped .dormant }) start)
     (s.warp 0 0).res = .movingIn b ∧ (s.warp 0 0).state = .swapped .dormant ∧ (b = false ∨ (s.wg wk).badSwap = none)) ∧
    (let s := onWg (fun g => { g with badSwap := some 5 }) (onWarp (fun w => { w with res := .movingIn true, state := .frozen .ready }) start)
     launchOpen s = true ∧ (s.warp 0 0).res = .movingIn true ∧ (s.wg (s.warp 0 0).wg).badSwap = some 5) ∧
    (let s := swapping (fun w => { w with sched := { w.sched with parkedSince := 65280 } })
     (s.warp 0 0).state = .parked (.barrier 3) ∧ (s.warp 0 0).sched.parkedSince + 256 ≤ s.now) ∧
    (let s := swapping (fun w => { w with state := .ready })
     s.firstWakeable 0 (s.warp 0 1).wg = some 1 ∧ (s.warp 0 1).sched.wakeableSince + 8192 ≤ s.now ∧ s.moving 0 (s.warp 0 1).wg = false ∧
      s.regRoom 0 (s.warp 0 1).wg (s.warp 0 1).nregs = false ∧ s.victim 0 (s.warp 0 1).wg 1 = some 0) ∧
    (let s := fullRegion (swapping id)
     (s.warp 0 0).state = .parked (.barrier 3) ∧ (s.warp 0 0).sched.parkedSince + 65536 ≤ s.now ∧ s.mayLeave 0 0 = true ∧ s.moving 0 (s.warp 0 0).wg = false ∧
      s.swapRoom 0 (s.warp 0 0).wg (s.warp 0 0).nregs = true) := by decide +kernel

/-- A heat port at its turn, with samples on their way; the table stands at the bottom of memory. -/
def heated (h : HeatPort) : State := { (start) with heat := [(portKey 0 0, h)], samples := [{ unit := 5, owner := 0 }] }

def digestSlot : DigestSlot := { state := .building, base := 0, len := 65536 }
def building (s : State) : State := onFunc (fun f => { f with digests := [(3, digestSlot)] }) s
def digestPieces : List (Nat × Nat × Nat) := match (building start).buildPieces 0 1 1 0 with | .pieces ps => ps | _ => []

theorem witness_UnitEvents :
    (onWg (fun g => { g with mass := [(2, { conf := true, rebuilding := true })] }) start).rebuilding 0 = some (wk, 2) ∧
    ((heated {}).samples[0]? = some { unit := 5, owner := 0 } ∧ 0 / 512 = 0 ∧
      (Sys2Proof.Machine.get noPort (heated {}).heat (portKey 0 (0 % 512))).halve = false ∧ (heated {}).heatAddr 0 5 + 1 ≤ ((heated {}).part 0).hbmSize) ∧
    (Memory.wf (heated { halve := true }).mem ∧ (Sys2Proof.Machine.get noPort (heated { halve := true }).heat (portKey 0 0)).halve = true ∧
      (heated { halve := true }).heatAddr 0 0 + ((heated { halve := true }).part 0).heatUnits ≤ ((heated { halve := true }).part 0).hbmSize) ∧
    (start.wg wk).live = true ∧
    ((building start).digest 1 3).state = .building ∧ ((building start).digest 1 3).pause = none ∧
    (building start).buildPieces ((building start).func 1).part 1 (((building start).digest 1 3).len / 65536) ((building start).digest 1 3).base = .pieces digestPieces ∧
    piecesMeet digestPieces ((((building start).func 1).digests.filter (fun (j, x) => j != 3 && x.state == .ready)).flatMap (fun (_, x) => x.pages)) = false := by
  decide +kernel

/-- UnitEvents, KVTAB with EN and a descriptor in memory. -/
theorem witness_UnitEvents_kvtab : (queues.warp 0 0).frontier = [entryOf queues] ∧ (0x30501 : BitVec 64).getLsbD 0 = true ∧
    (match loadRecord (queues.ctxAt (.warp 0 0) (queues.warp 0 0) (entryOf queues) (hdrOf (.illegal 0))) queues 0 false (bits 0x30501 6 51 * 64) 64 with
      | .ok (_, d) => d == kvDescriptor
      | .error _ => false) = true := by decide +kernel

/-! ### Witnesses: walks -/

/-- A handler team of one warp, DORMANT in slot 0. -/
def dormantTeam (s : State) : State :=
  onWg (fun g => { g with awlimit := 64, teams := [{ h := 1, team := 0, slots := [0] }] }) (onWarp (fun w => { w with state := .dormant, team := some { h := 1, team := 0, pos := 0 }, num := 16 }) s)

theorem witness_WalkQueue :
    (let s := withWalk id start
     (s.core 0).walk 256 = some aWalk ∧ aWalk.state = .queued ∧ (s.wg aWalk.wg).halting = false ∧ ∀ x ∈ (s.core 0).before aWalk, x.over = true ∨ x.state ≠ .queued ∧ x.allRaised = true) ∧
    (let s := onCore (fun k => { k with consumeDue := [(256, 0)] }) (withWalk (fun w => { w with state := .running }) start)
     ((s.core 0).walk 256).isSome = true ∧ (s.core 0).consumeDue = [(256, 0)] ∧ (s.core 0).roomFor 1 = true ∧ (s.core 0).freePlace = some 0) ∧
    (let s := withWalk (fun w => { w with state := .running }) start
     (s.core 0).consumeDue = [] ∧ (s.wg wk).halting = false ∧ s.tileDue 0 = false ∧
       ({ aWalk with state := .running } : Walk).nextRaise (s.core 0) = some (true, some 0)) ∧
    (let w : Walk := { aWalk with state := .running, record := aWalk.record.set 0 1 }
     let s := withWalk (fun _ => w) start
     (s.core 0).walk 256 = some w ∧ (s.core 0).consumeDue = [] ∧ (s.wg wk).halting = false ∧ s.tileDue 0 = false ∧ w.nextRaise (s.core 0) = some (true, none)) ∧
    (let s := dormantTeam (withWalk (fun w => { w with state := .running }) start)
     let t := onCore (fun k => { k with upcalls := [{ aWalk.upcallA 0 with h := 1 }] }) s
     (t.nextUpcall 0).isSome = true ∧ (t.warp 0 0).state = .dormant) := by decide +kernel

/-- A running walk whose slots of the first step are READY; its buffer is armed. -/
def stepping (f : Walk → Walk) : State :=
  onWg (fun g => { g with awlimit := 64 }) (withWalk (fun w => f { w with state := .running, raisedA := 1, raisedB := 1, slotsA := [.ready, .free], slotsB := [.ready, .free]
                                                                          buf0 := { state := .accumulating, tile := 0 } }) start)
def armed : Walk := (((stepping id).armBuffer 0 256).core 0).walk 256 |>.getD aWalk

theorem witness_WalkSteps :
    (let u := (stepping id).armBuffer 0 256
     (u.core 0).walk 256 = some armed ∧ armed.mayBegin (u.core 0) = true ∧ armed.stepsPerTile ≠ 0 ∧ armed.canBegin = true ∧
      (∀ r ∈ stepRanges armed armed.finished, ∀ l ∈ spLines r.1 r.2, Sys2Proof.Machine.get false (u.wg armed.wg).badLines l = false) ∧
      (stepRows armed armed.finished ((u.wg armed.wg).slotsRead armed armed.finished)).isSome = true) ∧
    (let s := { (stepping (fun w => { w with multiplying := true, begun := 1, endsAt := 16 })) with now := 16 }
     ((s.core 0).walk 256).map (fun w => w.multiplying && decide (w.endsAt ≤ s.now)) = some true) := by decide +kernel

/-- A sender to device 3, with a drain due for 16,777,216 cycles; and an owner of two splits that has finished its own steps. -/
def sender : Walk := { aWalk with record := (aWalk.record.set 34 1).set 40 3, state := .running, tilesDone := 1, drainSince := some 0 }
def owner : Walk := { aWalk with record := ((aWalk.record.set 1 4).set 36 2).set 38 7, state := .running, finished := 1, begun := 1, buf0 := { state := .accumulating, tile := 0 } }

theorem witness_WalkSteps_drain :
    (let s := withWalk (fun _ => sender) start
     (s.core 0).walk 256 = some sender ∧ sender.drainDue = true ∧ sender.peerdev = 3 ∧ sender.state ≠ .queued ∧ s.inFabric (s.wgPart (s.wg sender.wg)) 3 = false ∧
       ({ (s) with fabric := [(0, 3)] }).inFabric (s.wgPart (s.wg sender.wg)) 3 = true) ∧
    (let s := withWalk (fun _ => owner) start
     (s.core 0).walk 256 = some owner ∧ owner.drainDue = false ∧ owner.awaits = some (0, 1) ∧ (s.core 0).drainLater owner 0 s.now = false ∧ s.mismatched owner = false) ∧
    (let s := { (withWalk (fun _ => sender) start) with now := 16777216 }
     (s.core 0).walk 256 = some sender ∧ sender.drainSince = some 0 ∧ sender.drainDue = true ∧ sender.state ≠ .queued ∧ 0 + 16777216 ≤ s.now ∧ s.owners sender = []) ∧
    (let s := withWalk (fun w => { w with state := .finishing, tilesDone := 1 }) start
     ((s.core 0).walk 256).map (fun w => (s.core 0).walkOver w) = some true) := by decide +kernel


/-! ### Witnesses: engines, counters and launches -/

def issued : Issued := { slot := 0, wg := wk, func := 1, part := 0, lid := 1, warpNum := 0, pc := 0x20000, word := 0 }

/-- A copy of two lines from 0x31000 to the scratchpad with their headers at 256, its counter at 0x30400. -/
def copyDesc : List Byte :=
  bytesLE 8 0x31000 ++ bytesLE 8 0 ++ bytesLE 4 128 ++ bytesLE 4 1 ++ bytesLE 16 0 ++ bytesLE 8 0x30400 ++ bytesLE 4 256 ++ bytesLE 4 18 ++ bytesLE 8 0
def aCopy : CopyCmd := { by_ := issued, desc := copyDesc }
def copying (c : CopyCmd) : State := onCore (fun k => { k with copies := [c] }) queues

/-- A sum of four bytes from 0x31000 on into s9. -/
def aSweep : SweepCmd :=
  { by_ := issued, op := .add, ty := .n8, ns := 0, d := 9, ctr := some 0x30400, flight := 0, dst := []
    src := [0x31000, 4 + 2 ^ 32, 1 + 2 ^ 32, 1, 0, 0, 0, 0] }
def sweeping (c : SweepCmd) : State :=
  onWarp (fun w => { w with nextFlight := 1, flights := [{ id := 0, kind := .timed, pc := 0x20000, word := 0, regs := [.s 9], writes := [], late := .none, holds := false, walkGate := false }] })
    (onCore (fun k => k.modSched 0 (fun x => { x with sweeps := [c] })) queues)

/-- A command of the KV engine on the entry at 0x31100, its counter at 0x30400; a parity group of one line a block at 0x33000. -/
def kvCommand (group ctrl : Nat) : KvCmd := { by_ := issued, bytes := bytesLE 8 0x31100 ++ bytesLE 8 group ++ bytesLE 8 0x30400 ++ bytesLE 4 ctrl ++ bytesLE 4 0, blkb := 64 }
def kvGroupRecord (count : Nat) : List Byte := bytesLE 8 0x32000 ++ bytesLE 8 0x35000 ++ bytesLE 48 0 ++ bytesLE 8 0x34000 ++ [BitVec.ofNat 8 count, 0, 0, 0] ++ bytesLE 4 64 ++ bytesLE 48 0
def kvAt (entry : Nat) (g : List Byte) (c : KvCmd) : State :=
  onCore (fun k => { k with kvs := [c] }) (store 0x35000 [9, 8, 7] (store 0x34000 [1, 2, 3] (store 0x33000 g (store 0x31100 (bytesLE 16 entry) queues))))
/-- An entry that is valid, sealed where the second argument is one, with the slot and the address of its group. -/
def kvEntry (sealed group : Nat) : Nat := 2 ^ 63 + sealed * 2 ^ 62 + 0x32000 + group * 2 ^ 64

/-- What the first KV command reads of its entry and its group. -/
def kvReads (s : State) (c : KvCmd) (p : State → List Byte → List Byte → Bool) : Bool :=
  !s.kvBusy 0 c && decide (c.read = none) && (match s.kvStart 0 c with
    | .ok (u, e, g) => p u e g
    | .error _ => false)

/-- EngineSteps: copies and sweeps that run to their end, descriptors that are malformed, completions. -/
theorem witness_EngineSteps :
    ((copying aCopy).core 0).copies = [aCopy] ∧ copyOk copyDesc = true ∧ copyOk (copyDesc.set 53 4) = false ∧
    (copying aCopy).engineHalted issued = false ∧ (copyRun 0 (copyTotal copyDesc - aCopy.pos) aCopy (copying aCopy)).2.2 = none ∧ aCopy.state = .queued ∧
    (((sweeping aSweep).core 0).sched 0).sweeps = [aSweep] ∧
    (sweeping aSweep).engineHalted issued = false ∧ (sweepRun 0 (nestFuel aSweep.src) aSweep (sweeping aSweep)).2.2 = none ∧ aSweep.state = .queued ∧
    (sweeping aSweep).issuerAlive issued = true ∧ ((sweeping aSweep).warp 0 0).flights.any (fun f => f.id == 0) = true ∧
    kvCmdOk (kvCommand 0 63).bytes = false ∧ kvCmdOk (kvCommand 0 32).bytes = true ∧ kvIsRebuild (kvCommand 0 32).bytes = true ∧ kvIsRebuild (kvCommand 0 0).bytes = false := by
  decide +kernel

/-- EngineSteps, KV commands: a malformed one; a seal, a seal of an entry that is sealed, and into a group that is full; a rebuild that is
not in a group, a rebuild. -/
theorem witness_EngineSteps_kv :
    kvReads (kvAt (kvEntry 0 0) [] (kvCommand 0 63)) (kvCommand 0 63) (fun _ _ _ => !kvCmdOk (kvCommand 0 63).bytes) = true ∧
    kvReads (kvAt (kvEntry 0 0) (kvGroupRecord 8) (kvCommand 0x33000 0)) (kvCommand 0x33000 0) (fun _ e g => kvValid e && !kvSealed e && field g 72 1 == 8) = true ∧
    kvReads (kvAt (kvEntry 0 0) [] (kvCommand 0 0)) (kvCommand 0 0) (fun u e _ => kvValid e && !kvSealed e &&
      (match u.kvPut 0 issued 0x31100 8 (field e 0 8 % 2 ^ 62 + 3 * 2 ^ 62) with
        | .ok _ => true
        | .error _ => false)) = true ∧
    kvReads (kvAt (kvEntry 1 0) [] (kvCommand 0 0)) (kvCommand 0 0) (fun _ e _ => kvSealed e) = true ∧
    kvReads (kvAt (kvEntry 1 0) [] (kvCommand 0 32)) (kvCommand 0 32) (fun _ e _ => kvSealed e && kvGroup e == 0) = true ∧
    kvReads (kvAt (kvEntry 0 0x33000) [] (kvCommand 0x33000 32)) (kvCommand 0x33000 32) (fun _ e _ => !kvSealed e) = true ∧
    kvReads (kvAt (kvEntry 1 0x34000) [] (kvCommand 0x33000 32)) (kvCommand 0x33000 32) (fun _ e _ => kvSealed e && kvGroup e != 0x33000) = true ∧
    kvReads (kvAt (kvEntry 1 0x33000) (kvGroupRecord 2) (kvCommand 0x33000 32)) (kvCommand 0x33000 32) (fun v e g =>
      kvSealed e && kvGroup e == 0x33000 && (match kvRewrite 0 (v.kvGroupPlace (kvCommand 0x33000 32)) (field g (8 * kvSlot e) 8) (kvOthers g (kvSlot e)) (field g 76 4 / 64) { kvCommand 0x33000 32 with read := some (e, g) } v with
        | (_, _, none) => true
        | _ => false)) = true := by decide +kernel

/-- A decrement of the counter at an address; of 0x30400 it is five, of 0x30404 zero. -/
def decrement (va : Word) (status : Nat) (o : Origin := .launch) : State :=
  { (queues) with decs := [{ part := 0, func := 1, core := 0, agent := 1, va := va, status := status, lid := 1, origin := o }] }
def counterAt (s : State) (va : Word) : List (Page × Nat) :=
  match s.counterPlace 0 1 (counterVa va) { write := true } with
  | .ok ps => ps
  | _ => []

/-- CounterDecrements: a counter of five, and one of zero; the arithmetic at the ends of COUNT and STATUS. -/
theorem witness_CounterDecrements : (decrement 0x30400 0x14).counterPlace 0 1 (counterVa 0x30400) { write := true } = .ok (counterAt (decrement 0x30400 0x14) 0x30400) ∧
    (decrement 0x30404 0).counterPlace 0 1 (counterVa 0x30404) { write := true } = .ok (counterAt (decrement 0x30404 0) 0x30404) ∧
    (∀ x ∈ placeLines (counterAt (decrement 0x30400 0x14) 0x30400), quiet (decrement 0x30400 0x14) 0 1 x) ∧
    (∀ x ∈ placeLines (counterAt (decrement 0x30404 0) 0x30404), quiet (decrement 0x30404 0) 0 1 x) ∧
    (∀ x ∈ counterWrites (counterAt (decrement 0x30400 0x14) 0x30400) (decWord ((decrement 0x30400 0x14).counterWord 0 (counterAt (decrement 0x30400 0x14) 0x30400)) 1 0x14), plainWrite (decrement 0x30400 0x14) 0 1 x) ∧
    (decrement 0x30400 0x14).counterWord 0 (counterAt (decrement 0x30400 0x14) 0x30400) % 2 ^ 24 = 5 ∧
    (decrement 0x30404 0).counterWord 0 (counterAt (decrement 0x30404 0) 0x30404) = 0 ∧ ((decrement 0x30404 0).part 0).fqRoom = false ∧ ((decrement 0x30400 0x14).decs.map Dec.page) = [none] ∧ ((decrement 0x30400 0x14).decs.map Dec.origin) = [.launch] ∧
    (2 ^ 24 - 1) % 2 ^ 24 ≤ (2 ^ 32 - 1) % 2 ^ 24 ∧ 2 ^ 32 - 1 < 2 ^ 32 ∧ 0 < 127 ∧ 127 < 128 :=
  ⟨by decide +kernel, by decide +kernel, quiet_of (by decide +kernel), quiet_of (by decide +kernel), plain_of (by decide +kernel), by decide +kernel, by decide +kernel, by decide +kernel,
    by decide +kernel, by decide +kernel, by decide, by decide, by decide, by decide⟩

/-- CounterDecrements, of a command that waits for it: closing, it stands first in its core's copies. -/
def closingCopy : State := onCore (fun k => { k with copies := [{ aCopy with state := .closing 3 }] }) (decrement 0x30400 0x14 (.cmd 3))
theorem witness_CounterDecrements_cmd : closingCopy.counterPlace 0 1 (counterVa 0x30400) { write := true } = .ok (counterAt closingCopy 0x30400) ∧
    (∀ x ∈ placeLines (counterAt closingCopy 0x30400), quiet closingCopy 0 1 x) ∧ closingCopy.counterWord 0 (counterAt closingCopy 0x30400) % 2 ^ 24 = 5 ∧
    (∀ x ∈ counterWrites (counterAt closingCopy 0x30400) (decWord (closingCopy.counterWord 0 (counterAt closingCopy 0x30400)) 1 0x14), plainWrite closingCopy 0 1 x) ∧
    closingCopy.decs.map (fun d => (d.origin, d.page)) = [(.cmd 3, none)] :=
  ⟨by decide +kernel, quiet_of (by decide +kernel), by decide +kernel, plain_of (by decide +kernel), by decide +kernel⟩

/-- 17 R305: the copy leaves its queue with the decrement. -/
theorem test_copy_closes : (match exec (.dependenceDecrement 0) closingCopy with | .next t => decide ((t.core 0).copies = []) | _ => false) = true := by decide +kernel

/-- A launch record of a grid, of one warp of 64 registers a workgroup, with DONE at 0x30400 and a prologue where that is not 0. -/
def launchRec (x prologue : Nat) : List Byte :=
  bytesLE 8 0x20000 ++ bytesLE 8 77 ++ bytesLE 8 0 ++ bytesLE 8 0x30400 ++ bytesLE 8 x ++ bytesLE 8 1 ++ bytesLE 8 1 ++ bytesLE 8 0 ++ bytesLE 8 prologue ++ bytesLE 8 0 ++
    [1, 63, 1, 1, 0, 4, 0, 7, 0] ++ List.replicate 39 0

/-- Launch 2 of the function waits in the queue; its workgroup 0 is 2^32. -/
def waiting (f : Launch → Launch) : State :=
  onPart (fun p => { p with queue := [1, 2], nextLaunch := 3 })
    (onCore (fun k => { k with banks := 128 }) (queues.setLaunch 2 (f { noLaunch with live := true, func := 1, part := 0, src := 0x30600, record := launchRec 3 0, ready := true })))

def startableB (s : State) (lid : Nat) : Bool :=
  let l := s.launch lid
  l.live && decide (l.state = .waiting) && l.ready && decide (l.heldPage = none) && (decide (l.prologueAt = 0) || s.frontFree l)
theorem startable_of {s : State} {lid : Nat} (h : startableB s lid = true) : startable s lid := by
  simpa only [startableB, startable, Bool.and_eq_true, Bool.or_eq_true, decide_eq_true_eq, and_assoc] using h

/-- LaunchSteps: the start of a launch with a bad record, with a grid, with no workgroup, and with a prologue. -/
theorem witness_LaunchSteps :
    (startable (waiting (fun l => { l with record := (launchRec 3 0).set 80 17 })) 2 ∧ ((waiting (fun l => { l with record := (launchRec 3 0).set 80 17 })).launch 2).recordBad = true) ∧
    ∀ s ∈ [waiting id, waiting (fun l => { l with record := launchRec 0 0 }), waiting (fun l => { l with record := launchRec 3 0x20000 })],
      startable s 2 ∧ (s.launch 2).recordBad = false ∧ (s.launch 2).grouptab = 0 ∧ (s.launch 2).collAt = 0 ∧
      s.placeBad { s.launch 2 with groups := [] } ((s.launch 2).recGrid.1 * (s.launch 2).recGrid.2.1 * (s.launch 2).recGrid.2.2) = false := by
  refine ⟨⟨startable_of (by decide +kernel), by decide +kernel⟩, ?_⟩
  intro s hs
  simp only [List.mem_cons, List.not_mem_nil, or_false] at hs
  obtain rfl | rfl | rfl := hs
  all_goals exact ⟨startable_of (by decide +kernel), by decide +kernel, by decide +kernel, by decide +kernel, by decide +kernel⟩

/-- A launch whose grid is emitted. -/
def emitted : State := onLaunch (fun l => { l with retired := 0 }) (onPart (fun p => { p with queue := [2] }) (waiting (fun l => { l with state := .dispatching, nx := 3, ny := 1, nz := 1, arg := 77 })))
/-- Its first workgroup, and a spawned task, are tasks of core 0. -/
def tasked : State := onWg (fun g => { g with tasks := [{ id := 3, record := taskRecord }] }) (onCore (fun k => { k with ready := [⟨.workgroup 2 0, 7, 1⟩, ⟨.spawned wk 3, 0, 0⟩] }) emitted)

/-- LaunchSteps: a prologue of 65,536 words, one that runs again, the dispatcher, the ready queue, the end of a launch. -/
theorem witness_LaunchSteps_run :
    (let s := onPart (fun p => { p with prologue := some { lid := 2, warp := noWarp, words := 65536 } }) (waiting (fun l => { l with state := .prologue }))
     (s.part 0).prologue = some { lid := 2, warp := noWarp, words := 65536 } ∧ (s.launch 2).open_ = true) ∧
    (let s := waiting (fun l => { l with record := launchRec 3 0x20000, state := .running, nx := 2, ny := 1, nz := 1, retired := 2, pwarp := some (withS [(5, 9)] noWarp) })
     s.rerunLaunch 0 = some 2 ∧ (s.launch 2).pwarp = some (withS [(5, 9)] noWarp) ∧ (s.launch 2).devParts = []) ∧
    ((emitted.part 0).turn = some 1 ∧ (emitted.func 1).ctx.request = none ∧ (emitted.func 1).ctx.asked = false ∧ 2 ∈ (emitted.part 0).queue ∧ (emitted.launch 2).live = true ∧
      (emitted.launch 2).func = 1 ∧ (emitted.serve 2).isSome = true ∧ emitted.rotatedOf 1 = [] ∧ ∀ j ∈ (emitted.part 0).queue, j ≠ 2 → emitted.servedBefore 2 j = true) ∧
    (emitted.launch 2).state = .dispatching ∧ (emitted.launch 2).groups = [] ∧ emitted.dispatchCore 2 = some 0 ∧
    (tasked.nextUpcall 0).isNone = true ∧ ((tasked.startFirst 0).map (fun x => x.1.isWg)) = some true ∧
    (tasked.startTask 0 (.workgroup 2 0)).isSome = true ∧ (tasked.startTask 0 (.spawned wk 3)).isSome = true ∧
    (let s := waiting (fun l => { l with state := .running, nx := 2, ny := 1, nz := 1, retired := 2 })
     s.launchOver 2 = true ∧ (s.launch 2).devParts = []) := by decide +kernel

/-- Workgroup 0 of launch 2 was rotated out, before the launch became dispatchable or after it. -/
def rotatedWg : SavedWg :=
  { key := wgKey 2 0, wg := { noWg with live := true, lid := 2, full := { alloc := 4, swap := 0, acc := 0, regs := 4 } }, warps := [(0, { noWarp with state := .ready, wg := wgKey 2 0, nregs := 64 })]
    walks := [], upcalls := [], copies := [], sweeps := [], ready := [], stamp := 4 }
def rotated (order : Nat) : State :=
  (onFunc (fun f => { f with ctx := { f.ctx with saved := [rotatedWg] } }) emitted).modLaunch 2 (fun l => { l with next := 1, order := order, rotated := [wgKey 2 0] })

theorem witness_LaunchSteps_rotated :
    (let s := rotated 3
     (s.part 0).turn = some 1 ∧ (s.func 1).ctx.request = none ∧ (s.func 1).ctx.asked = false ∧ s.rotatedOf 1 = [rotatedWg] ∧ s.olderThan rotatedWg 2 = true ∧ 2 ∈ (s.part 0).queue ∧
       (s.launch 2).live = true ∧ (s.launch 2).func = 1 ∧ (s.serve 2).isSome = true ∧ ∀ j ∈ (s.part 0).queue, j ≠ 2 → s.servedBefore 2 j = true) ∧
    (let s := rotated 4
     (s.part 0).turn = some 1 ∧ (s.func 1).ctx.request = none ∧ (s.func 1).ctx.asked = false ∧ s.rotatedOf 1 = [rotatedWg] ∧ s.olderQueued 1 rotatedWg = false ∧ (s.restoreNext 0 1 rotatedWg).isSome = true ∧
       ∀ j ∈ (s.part 0).queue, s.olderThan rotatedWg j = false) := by decide +kernel

/-! ### Witnesses: collectives, requests and turns -/

/-- A ring of two floats in group 3, summed; its counter at 0x30400. -/
def collDesc : List Byte := [3, 0, 0, 0, 0, 0, 0, 0] ++ bytesLE 4 2 ++ bytesLE 4 0 ++ bytesLE 8 0x31000 ++ bytesLE 8 0x32000 ++ bytesLE 8 0 ++ bytesLE 8 0x30400 ++ bytesLE 16 0
/-- The entry of a group of three members, of which this one has the rank `r`. -/
def groupEntry (r : Nat) : List Byte := [1, 0, 2, 0, BitVec.ofNat 8 r, 0, 0, 0] ++ List.replicate 24 0 ++ bytesLE 4 9 ++ bytesLE 4 0 ++ List.replicate 24 0
def aColl : Collective := { by_ := issued, core := 0xFFFF, desc := collDesc }
/-- A collective that stands alone in the queue, its group's entry at 0x380C0. -/
def collecting (c : Collective) (r : Nat) : State := onPart (fun p => { p with cgtbase := 0x38001, colls := [c] }) (store 0x380C0 (groupEntry r) queues)
def runningColl (r : Nat) : Collective := { aColl with state := .running, entry := groupEntry r, mine := .f32 [0x3F800000, 0x40000000] }
/-- The same through the switch, and with a vote. -/
def pushColl : Collective := { runningColl 0 with desc := collDesc.set 3 1 }
def voteColl (votes : List (Nat × List VoteTriple)) (st : CollState) : Collective := { runningColl 0 with desc := collDesc.set 4 0x37, state := st, votes := votes }

/-- A queued collective with a flag byte, and the flag byte of its group's entry. -/
def startColl (b : Byte) : Collective := { aColl with desc := collDesc.set 4 b }
def startEntry (fl : Byte) : List Byte := (groupEntry 0).set 0 fl
def starting (b fl : Byte) : State := store 0x380C0 [fl] (collecting (startColl b) 0)

/-- CollectiveSteps: a start that a lost member, or a reserved bit, fails, and one that runs. -/
theorem witness_CollectiveSteps :
    (∀ x ∈ [((0x40 : Byte), (1 : Byte), 1), (0, 3, 0x16), (0, 1, 0)],
      (starting x.1 x.2.1).collAt 0 0 = some (startColl x.1) ∧ (startColl x.1).state = .queued ∧ (startColl x.1).page = none ∧ (starting x.1 x.2.1).firstQueued 0 0 = true ∧
      (starting x.1 x.2.1).groupEntry 0 3 = some (startEntry x.2.1) ∧ (starting x.1 x.2.1).collTurn (startColl x.1) ((starting x.1 x.2.1).takeSeq (startColl x.1) (startEntry x.2.1)).2 = true ∧
      (starting x.1 x.2.1).collBad (startColl x.1) (startEntry x.2.1) = x.2.2) ∧
    (match ({ aColl with entry := groupEntry 0 } : Collective).readMine (collecting aColl 0) with
      | .ok _ => true
      | .error _ => false) = true ∧ aColl.range.2 ≠ 0 ∧ entrySize (groupEntry 0) ≠ 1 := by decide +kernel

/-- CollectiveSteps: chunks that reach their owner and that pass on, a line, votes, completions. -/
theorem witness_CollectiveSteps_run :
    (∀ r ∈ [0, 1], let c := runningColl r
      let s := collecting c r
      s.collAt 0 0 = some c ∧ c.state = .running ∧ collPush c.desc = false ∧ 1 < entrySize c.entry ∧ c.hops.contains (.reduce, 1) = false ∧ c.hops.contains (.gather, 1) = false ∧
      collIsType (.f32 [0x40000000]) (collType c.desc) = true ∧ collLen (.f32 [0x40000000]) = (c.chunk 1).2 ∧ entryRank c.entry ≠ 2 % entrySize c.entry) ∧
    ({ (runningColl 0).info with op := 1 } ≠ (runningColl 0).info ∧ (runningColl 0).state = .running) ∧
    ((collecting pushColl 0).collAt 0 0 = some pushColl ∧ collPush pushColl.desc = true ∧ pushColl.lineBase = 0 ∧ linesOf pushColl.desc pushColl.range.2 = 1) ∧
    (∀ c ∈ [voteColl [] .running, voteColl [(0, []), (2, [])] .voting], (collecting c 0).collAt 0 0 = some c ∧ c.status = 0 ∧ c.slice = none ∧ 1 < entrySize c.entry ∧ 1 ≠ entryRank c.entry ∧
      c.votes.any (fun (r, _) => r == 1) = false) ∧
    ((voteColl [(0, []), (2, [])] .voting).votes.length + 1 = entrySize (groupEntry 0) ∧ (∀ x ∈ (voteColl [(0, []), (2, [])] .voting).votes, x.2 = []) ∧
      ∃ x ∈ (voteColl [(0, []), (2, [])] .voting).votes, x.1 = entryRank (groupEntry 0)) ∧
    (let c := { runningColl 0 with state := .finishing, results := [(0, some (.f32 [1])), (1, some (.f32 [2]))] }
     c.range.2 = 2 ∧ (match c.writeDst (collecting c 0) (collBytes c.result) (collHeaders c.result) with
      | .ok u => (match c.writeRes u with
        | .ok _ => true
        | .error _ => false)
      | .error _ => false) = true) := by decide +kernel

/-- CollectiveLoss: a collective at its timeout of 10,000 microseconds; a member lost. -/
theorem witness_CollectiveLoss :
    (let s := { (collecting (runningColl 0) 0) with wall := usec 10000 }
     s.collAt 0 0 = some (runningColl 0) ∧ (runningColl 0).open_ = true ∧
       (runningColl 0).progress + usec (entryTimeout (runningColl 0).entry) ≤ s.wall ∧ collGroup (runningColl 0).desc = 3) ∧
    ({ runningColl 0 with state := .finishing } : Collective).open_ = true := by decide +kernel

/-- A second context in the partition; the resident one has used its quantum. -/
def shared : State := onPart (fun p => { p with runq := [1, 2] }) (onFunc (fun f => { f with ctx := { f.ctx with charging := true } }) <| { (start) with now := 2500000, wall := usec 3000 }.setLaunch 9 { noLaunch with live := true, func := 2 })
/-- A workgroup under a soft request, its warp held at a boundary. -/
def requested (s : State) : State :=
  onWg (fun g => { g with request := some 0 }) (onWarp (fun w => { w with state := .parked (.counter 0 0), sched := { w.sched with held := true } }) s)

/-- Requests: the ends of a quantum and of a slice, a save, BARDEFER, GRACE and KILL at their bounds. -/
theorem witness_Requests :
    (shared.quantumOver 0 = some 1 ∧ (shared.wg wk).live = true ∧ shared.wgFunc (shared.wg wk) = 1) ∧
    (requested start).softReady wk = true ∧
    (let s := { (onWg (fun g => { g with request := some 0, arrived := [(0, 2)] }) (twoWarps start)) with wall := usec 5 }
     (onCore (fun k => { k with warps := k.warps }) (s.setWarp 0 1 { (s.warp 0 1) with state := .parked (.barrier 0), sched := { (s.warp 0 1).sched with held := true } })).barrierOver wk = true) ∧
    (let s := { (requested start) with wall := usec 20 }
     wk ∈ s.partWgs 0 ∧ s.graceOver wk = true) ∧
    (let s := onLaunch (fun l => { l with state := .dispatching, nx := 2, next := 1 }) shared
     s.sliceOver wk = true ∧ (s.wg wk).lin < 2 ^ 32 ∧ (s.wg wk).lid = 1 ∧ (s.wg wk).lin = 0 ∧ (s.launch 1).groups = [] ∧ wk = wgKey 1 0) ∧
    (let s := { (requested start) with wall := usec 2000 }
     (s.partWgs 0).find? (fun j => s.killOver j) = some wk ∧ s.wgFunc (s.wg wk) = 1 ∧ s.hasContext 1 = true ∧ (s.launch 1).open_ = true ∧ (s.launch 1).func = 1) ∧
    (let s := onWg (fun g => { g with restoring := true }) shared
     s.quantumOver 0 = some 1 ∧ s.anyRestoring 1 = true ∧ (s.wg wk).live = true) ∧ shared.anyRestoring 1 = false := by decide +kernel

/-- Turns: a save that has settled, a context whose turn comes with a deficit of one and one that passes, a restore, releases. -/
theorem witness_Turns :
    (let s := onWg (fun g => { g with saving := true }) (requested start)
     (s.wg wk).live = true ∧ (s.wg wk).saving = true ∧ s.settled wk = true) ∧
    (let s := onWg (fun g => { g with saving := true, area := some (areaPlace wk) }) (requested start)
     (s.wg wk).live = true ∧ (s.wg wk).saving = true ∧ s.settled wk = true ∧ (s.imageOf wk).wg.area = some (areaPlace wk)) ∧
    (∀ d ∈ [(-1249999 : Int), -1250000], let s := onFunc (fun f => { f with ctx := { f.ctx with deficit := d } }) (onPart (fun p => { p with turn := none }) start)
     (s.part 0).turn = none ∧ (s.part 0).en = true ∧ s.hot = false ∧ (s.part 0).resume = none ∧ s.nextContext 0 = some 1 ∧ s.comingBack 1 = [] ∧
       (s.func 1).ctx.deficit + ((s.func 1).weight * (s.part 0).qbase : Nat) = if d = -1250000 then 0 else 1) ∧
    (let s := onWg (fun g => { g with restoring := true }) start
     (s.wg wk).live = true ∧ (s.wg wk).restoring = true ∧ (s.wg wk).flushWait = none ∧ (s.wg wk).haltDue = false ∧ (s.func 1).ctx.asked = false ∧ s.wgs.all (fun x => x.2.flushing == []) = true) ∧
    (∀ b ∈ [Base.ready, .dormant, .parked (.barrier 1)], ((onWarp (fun w => { w with state := .frozen b }) start).warp 0 0).state = .frozen b ∧
      ((onWarp (fun w => { w with state := .frozen b }) start).warp 0 0).heldCommand = .none ∧ ((onWarp (fun w => { w with state := .frozen b }) start).warp 0 0).frontier.length = 1) := by
  decide +kernel

/-- 14, the example after R267: sixteen work warps of 64 registers, one mass register and two walks take 2,316,352 bytes. -/
theorem test_image_size :
    ({ key := wk
       wg := { noWg with full := { alloc := 64, swap := 8, acc := 8, regs := 8 }, massOwned := 1 }
       warps := (List.range 16).map (fun i => (i, { noWarp with nregs := 64 })), walks := [aWalk, aWalk], upcalls := [], consumeDue := []
       copies := [], sweeps := [], ready := [] } : SavedWg).imageSize = 2316352 := by decide +kernel

/-! ### Witnesses: the host, the device and the step -/

/-- A command: OP, ADDR and COUNT. -/
def command (op addr count : Nat) : List Byte := [BitVec.ofNat 8 op] ++ List.replicate 7 0 ++ bytesLE 8 addr ++ bytesLE 4 count ++ List.replicate 44 0
/-- The function's queue of 16 entries at 0x39000 holds one command; a launch record stands at 0x30600. -/
def commanded (e : List Byte) : State :=
  store 0x39000 e (store 0x30600 (launchRec 1 0) (onFunc (fun f => { f with cqbase := 0x39000, cqen := true, cqlog := 4, cqtail := 1 }) queues))
/-- The command is there, and `p` holds of it. -/
def takes (s : State) (p : State → List Byte → Bool) : Bool := match s.command 1 with | .ready u e => p u e | _ => false

/-- A written record of the page at 0x50000, and a record that waits for room. -/
def faulted (s : State) : State := onPart (fun p => { p with opened := [{ rec_ := { cause := 0x11, func := 1, va := 0x50000 }, seq := some 0 }] }) s
def roomy : State := onPart (fun p => { p with fqen := true, fqlog := 4, fqbase := 0x3A000, fqHeld := [{ cause := 1 }] }) queues

theorem witness_HostCommands :
    (∀ op ∈ [0, 4, 0xFF], (match (commanded (command op 0 0)).command 1 with | .skip _ => true | _ => false) = true) ∧
    takes (commanded (command 1 0x30600 0)) (fun u e => cmdOp e == 1 && (match u.fwRead (u.fwRecord 1 0 0) (u.func 1).part 1 (cmdAddr e).toNat 128 with
      | .ok _ r => fieldW r 16 8 == 0
      | _ => false)) = true ∧
    (∀ n ∈ [1, 5], takes (commanded (command 3 0x30400 n)) (fun u e => cmdOp e == 3 && (match u.counterPlace (u.func 1).part 1 (counterVa (cmdAddr e)) { write := true } with
      | .ok ps => quietAll u (u.func 1).part 1 (placeLines ps) && decide (0 < cmdCount e) && decide (cmdCount e ≤ u.counterWord (u.func 1).part ps % 2 ^ 24) &&
          plainAll u (u.func 1).part 1 (counterWrites ps (decWord (u.counterWord (u.func 1).part ps) (cmdCount e) 0))
      | _ => false)) = true) ∧
    (∀ n ∈ [0, 1, 2 ^ 24 - 1], takes (faulted (commanded (command 2 0x50000 n))) (fun u e => cmdOp e == 2 && decide (cmdCount e < 2 ^ 24) && u.launches.all (fun x => x.2.heldPage == none) &&
      u.wgs.all (fun x => x.2.flushWait == none)) = true) ∧
    takes (commanded (command 0x10 0x3B000 256)) (fun _ e => cmdOp e == 0x10) = true ∧
    ((roomy.part 0).fqHeld = [{ cause := 1 }] ∧ (roomy.part 0).fqRoom = true ∧ bits (roomy.part 0).fqbase 12 45 * 4096 + 64 * 2 ^ 4 ≤ (roomy.part 0).hbmSize) := by
  decide +kernel

/-- HostRegisters: LOG2N at its ends, queues on and off, a tail one past the queue. -/
theorem witness_HostRegisters :
    start.funcUp 1 = true ∧ (start.func 1).cqen = false ∧ (start.part 0).fqen = false ∧ (start.part 1).en = false ∧ (start.part 0).en = true ∧ (start.func 1).jrnOn = false ∧
    (start.func 1).jrnReplays = false ∧ ((commanded []).func 1).cqen = true ∧ ((17 : BitVec 32) - ((commanded []).func 1).cqhead).toNat = 2 ^ 4 + 1 ∧
    [(9 : BitVec 64), 33].all (fun v => v.getLsbD 0 && decide (4 ≤ bits v 1 5) && decide (bits v 1 5 ≤ 16)) = true ∧
    [(7 : BitVec 64), 35].all (fun v => v.getLsbD 0 && (decide (bits v 1 5 < 4) || decide (16 < bits v 1 5))) = true ∧
    start.funcUp 0 = true ∧ start.hasContext 1 = true ∧ start.hasContext 5 = false ∧ 15 < 16 ∧ 1024 ≤ 1024 ∧
    hostReg 1 0x20 = some .tlt ∧ hostReg 0 (0x50000 + 256 * 15 + 0x28 + 8 * 5) = some (.partchan 15 5) ∧ hostReg 0 (0x50000 + 256 * 15 + 8 + 8 * 3) = some (.partcore 15 3) ∧
    hostReg 0 (0x50000 + 256 * 15 + 0x60) = some (.partheat 15) ∧ hostReg 0 (0x90000 + 8 * 1024) = some (.jrnctl 1024) ∧ hostReg 0 0x80000 = some .pwrcap ∧ hostReg 0 (0x20000 + 8 * 1024) = some (.vfweight 1024) ∧ hostReg 0 (0x20000 + 8 * 1025) = none := by decide +kernel

/-- DeviceEvents: a window that ends, at the temperatures where the rules meet; host reads and writes; packets. -/
theorem witness_DeviceEvents :
    (let s := { (onPart (fun p => { p with cxl := 8 }) start) with wall := usec 1000 }
     (s.part 0).cxl.getLsbD 3 = true ∧ s.windowEnd + usec 1000 ≤ s.wall ∧ s.funcs.all (fun x => !x.2.jrnOn) = true) ∧
    start.hostPlaces 1 0x30000 8 false = some ((List.range 8).map (fun k => ((match start.translateIn 0 1 0x30000 {} with
      | .ok pg => pg
      | _ => hbmPage 0), 0x30000 + k))) ∧ start.hostPlaces 2 0 1 true = none ∧
    quietAll start 0 1 (placeLines ((start.hostPlaces 1 0x30000 8 false).getD [])) = true ∧
    plainAll start 0 1 (((start.hostPlaces 1 0x30000 8 true).getD []).zip [1, 2, 3, 4, 5, 6, 7, 8] |>.map (fun ((pg, off), b) => ByteWrite.mk pg off b)) = true := by decide +kernel

/-- A tenant table of two entries at 0x3C000: entry 1 is valid, takes up to 64 bytes for 0x3D000 from devices 5 to 9. -/
def tenantRow : List Byte := bytesLE 8 0x30600 ++ bytesLE 8 0x3D000 ++ bytesLE 4 64 ++ bytesLE 4 5 ++ bytesLE 4 9 ++ [1, 0, 0, 0] ++ bytesLE 8 7 ++ List.replicate 24 0
def tenant : State := store 0x3C040 tenantRow (store 0x30600 (launchRec 1 0) (onFunc (fun f => { f with tlt := 0x3C021 }) queues))

theorem witness_DeviceEvents_packet : tenant.packetHeard 1 = true ∧ tenant.packetHeard 1025 = false ∧ tenant.maySubmit 1 = true ∧ (tenant.func 1).tlt.getLsbD 5 = true ∧ 1 < 2 ^ min 12 (bits (tenant.func 1).tlt 0 5) ∧ 2 ^ min 12 (bits (tenant.func 1).tlt 0 5) ≤ 2 ∧
    (match tenant.tenantEntry 1 1 with
      | .ok _ e => packetOk e 8 5 64 && packetOk e 8 9 0 && !packetOk e 7 5 64 && !packetOk e 8 4 64 && !packetOk e 8 10 64 && !packetOk e 8 5 65
      | _ => false) = true ∧
    tenant.launchFull 1 = false ∧ (tenant.func 1).jrnReplays = false := by decide +kernel

/-- DeviceEvents, an accepted packet: its entry, its arguments (none), its number written, and the record of its entry read. -/
def fwDone : FwRead → Option (State × List Byte)
  | .ok s bs => some (s, bs)
  | .fault _ _ _ => none
def smallTenant : State := store 0x3C040 tenantRow (onPart (fun p => { p with queue := [] }) (onFunc (fun f => { f with tlt := 0x3C021 }) base))
def packetEntry : Option (State × List Byte) := fwDone (smallTenant.tenantEntry 1 1)
def packetArgs : Option (State × List Byte) := packetEntry.bind (fun (u, e) =>
  fwDone (u.fwWriteAll (u.fwRecord 1 0 0) 0 1 [] (pieces (field e 8 8) 0) 0))
def packetSeq : Option (State × List Byte) := packetArgs.bind (fun (t, _) =>
  fwDone (t.fwWrite (t.fwRecord 1 0 0) 0 1 (bits (t.func 1).tlt 6 51 * 64 + 64 * 1 + 32) (bytesLE 8 8)))
def packetRecord : Option (State × List Byte) := packetSeq.bind (fun (t, _) =>
  fwDone ((t.modFunc 1 (fun x => { x with lastSeq := 8 })).fwRead (t.fwRecord 1 0 0) 0 1 0x30600 128))

theorem witness_DeviceEvents_accepted : smallTenant.packetHeard 1 = true ∧ smallTenant.maySubmit 1 = true ∧ (smallTenant.func 1).tlt.getLsbD 5 = true ∧
    1 < 2 ^ min 12 (bits (smallTenant.func 1).tlt 0 5) ∧ smallTenant.launchFull 1 = false ∧ (smallTenant.func 1).jrnReplays = false ∧
    packetEntry.map (fun x => packetOk x.2 8 5 0) = some true ∧ packetArgs.isSome = true ∧ packetSeq.isSome = true ∧ packetRecord.isSome = true := by decide +kernel

/-- StepRuns: the agenda's next turn is scheduler 0 of core 0, whose warp's next word is the example of 03 R60; or an event. -/
def stepped : State := { (store 0x20000 (bytesLE 8 0x1000002002010000) start) with agenda := [{ dt := 0, what := .issue 0 0 }] }

theorem witness_StepRuns :
    (match stepped.nextTurn with | .fetched (.run _ _ x) => x == 0x1000002002010000 | _ => false) = true ∧
    (match (State.handOver { (stepped) with agenda := [] } 0 0).issueSlot 0 0 with
      | some slot => let v := { (State.handOver { (stepped) with agenda := [] } 0 0) with cur := .warp 0 slot }
        match v.issuer with
        | some (w, e) => let c := v.ctx w e (hdrOf (.illegal 0))
          e.pc.toNat % 8 == 0 && decide (e.pc.toNat + 8 ≤ 2 ^ 57) && (match v.translateIn c.part c.func e.pc.toNat { fetch := true } with
            | .ok pg => decide (e.pc.toNat + 8 ≤ pg.va + pg.size) && quietAll v c.part c.func (placeLines ((List.range 8).map (fun k => (pg, e.pc.toNat + k - pg.va)))) &&
              !(v.wg w.wg).softReg &&
              (decode (BitVec.ofNat 64 (numLE ((List.range 8).map (fun k => v.readByte c.part pg (e.pc.toNat + k - pg.va)))))).isSome
            | _ => false)
        | none => false
      | none => false) = true ∧ isEvent .deviceReset = true := by decide +kernel

/-- MachineInvariant: a loaded program's state, which steps. -/
theorem witness_MachineInvariant : (8 ≤ stepped.step ∧ stepped.step ≤ 16) ∧ (1000 ≤ stepped.watts ∧ stepped.watts ≤ 2800) ∧ Memory.wf stepped.mem ∧
    (match step stepped with | .next _ => true | _ => false) = true := by decide +kernel

theorem witness_EncodeDecode : ∃ i : Instr, i.wf = true ∧ isEvent i = false := ⟨.nop h0, by decide, rfl⟩
theorem witness_DecodeEncode : decode 0x1000002002010000 = some (.iadd h0 .s32 (.v 4) (.v 1) (.v 2)) := by decide +kernel

/-! ### The spec's worked examples -/

/-- 02, a worked divergence: the branch at 0x100 with priorities 40 and 50, lanes 0 to 23 taken. -/
theorem test_divergence : (match exec (.bra { h0 with guard := 1 } .lane 40 50 8)
      (onWarp (fun w => { w.writeP 1 (BitVec.allOnes 64) 0xFFFFFF with frontier := [{ prio := 30, pc := 0x100, lanes := BitVec.allOnes 64 }] }) start) with
    | .next t => decide ((t.warp 0 0).frontier = [{ prio := 50, pc := 0x108, lanes := 0xFFFFFFFFFF000000 }, { prio := 40, pc := 0x140, lanes := 0xFFFFFF }])
    | _ => false) = true := by decide +kernel

/-- 05, after R93: 2^24 and fifteen ones sum to 16,777,232 in one group. -/
theorem test_wide_adder : addGroup 0 (([0x4B800000] ++ List.replicate 15 0x3F800000).map (unpack fmtF32)) = 0x4B800008 := by decide +kernel

/-- 05 R96, the example: scale 1, codes 0x48, 0x1A and 0x30, residuals 0, 0 and 0.03125. -/
theorem test_residual_line : (let r := residualLine 8 ([0x40300000, 0x3EA00000, 0x3F800000] ++ List.replicate 61 0) ([0x3E800000, 0, 0x3D000000] ++ List.replicate 61 0)
    decide (r.1 = 1) && r.2.1.take 4 == [0x48, 0x1A, 0x30, 0] && r.2.2.take 4 == [0, 0, 0x3D000000, 0]) = true := by decide +kernel

/-- 08, drawing from the top of a distribution: the table with 16 fraction bits and eight leaves, cut at five. -/
def sampler (limit : Option Nat) : Workgroup :=
  { massOwned := 1, mass := [(0, { conf := true, f := 16, n := 8, limit := limit, leaves := [(0, 24576), (1, 16384), (2, 8192), (3, 8192), (4, 4096), (5, 2048), (6, 2048)] })] }

def noOne : OobBy := { now := 0, rank := 0, warp := 0 }

/-- 08: the cut at 0.9 of the mass is five, and the draws at 0.1171875, 0.46875, 0.703125 and 0.908203125 are 0, 1, 2 and 4. -/
theorem test_sampler :
    (match massEffect (sampler none) noOne { slot := 0, instr := .mtcutMass h0 false 0 (.s 3) (.s 2), act := 15, a := mkVec (fun _ => 0x3F666666), b := zeroVec, flight := 0, at_ := 0 } with
      | .ok g _ (some d) => laneAt d 0 == 5 && (g.massReg 0).limit == some 5
      | _ => false) = true ∧
    (match massEffect (sampler (some 5)) noOne { slot := 0, instr := .mtfind h0 false 0 (.v 6) (.v 5), act := 15, a := mkVec (fun l => [0x3DF00000, 0x3EF00000, 0x3F340000, 0x3F688000].getD l 0), b := zeroVec, flight := 0, at_ := 0 } with
      | .ok _ _ (some d) => (List.range 4).map (fun l => laneAt d l) == [0, 1, 2, 4]
      | _ => false) = true := by decide +kernel

/-- 09, after R180: sixteen times 1.5 and 1,000 to 1,015 compress by B4D1; multiples of 0x100 do not compress. -/
theorem test_compression :
    compScheme ((List.range 16).flatMap (fun _ => bytesLE 4 0x3FC00000)) = 1 ∧ compScheme ((List.range 16).flatMap (fun i => bytesLE 4 (1000 + i))) = 1 ∧
    compScheme ((List.range 16).flatMap (fun i => bytesLE 4 (0x100 * i))) = 3 ∧ compScheme (bytesLE 64 0) = 0 := by decide +kernel

/-- 15, after R277: the leaf of a RELCON, HBM, heat-sampled page at partition offset 0x2_4000_0000. -/
theorem test_leaf : ((leafPage 0 1 0x8700000240000003 0x1004020030000 16 (fun d => { desc := d })).map (fun pg => (pg.heat, pg.kind, pg.tier, pg.addr, pg.size, pg.ro))) =
    some (true, 1, 0, 0x240000000, 65536, false) := by decide +kernel

/-- 03 R64; 06 R110: the step issues the example of 03 R60, which adds v1 and v2. -/
theorem test_step_adds : (match step stepped with | .next t => (t.warp 0 0).readV 4 63 == 63 && ((t.warp 0 0).frontier.map Entry.pc == [0x20008]) | _ => false) = true := by decide +kernel

end Sys2Proof.Tests
end

section
/-! PROOFS. Words that write a predicate or an index register (06 R99, R112, R113; 07 R127). -/
namespace Sys2Proof.Safety
open Sys2Proof.Machine Sys2Proof.Claims

/-! ### What the words that write predicates perform -/

theorem exec_icmp (h : Hdr) (t : Ty) (p : BitVec 3) (cc : ICond) (a b : Operand) (s : State) :
    exec (.icmp h t p cc a b) s =
      issueWord (.icmp h t p cc a b) (predBody p.toNat (fun c l => icmpLane t cc (srcInt c t a l) (srcInt c t b l))) s := rfl

theorem exec_mov (h : Hdr) (t : Ty) (d : MovDst) (a : MovSrc) (s : State) :
    exec (.mov h t d a) s = issueWord (.mov h t d a) (movBody t d a) s := rfl

theorem exec_vote (h : Hdr) (d : VoteDst) (p : BitVec 3) (s : State) :
    exec (.vote h d p) s = issueWord (.vote h d p) (voteBody d p) s := rfl

/-! ### Integer comparisons -/

/-- A comparison sees only the integers that its operands represent in the type. -/
theorem icmpLane_srcInt (c : Ctx) (t : Ty) (cc : ICond) (a b : Operand) (l : Nat) :
    icmpLane t cc (srcInt c t a l) (srcInt c t b l) = icmpLane t cc (src64 c a l) (src64 c b l) := by
  simp only [icmpLane, srcInt, intOf_narrow]

theorem icmp_writesP {h : Hdr} {t : Ty} {p : BitVec 3} {cc : ICond} {a b : Operand} {s : State} {c : Ctx}
    (hi : Issues (.icmp h t p cc a b) s c) :
    WritesP (.icmp h t p cc a b) s c p.toNat (fun l => icmpLane t cc (src64 c a l) (src64 c b l)) c.w.fpx :=
  pred_word hi p.toNat (fun c l => icmpLane t cc (src64 c a l) (src64 c b l)) _ (exec_icmp h t p cc a b s)
    (fun l _ => icmpLane_srcInt c t cc a b l)

/-! ### Moves -/

theorem isFloat_of_isInt {t : Ty} (h : t.isInt = true) : t.isFloat = false := by
  cases t <;> simp_all [Ty.isInt, Ty.isFloat]

theorem narrow_zero (t : Ty) : narrow t 0 = 0 := by cases t <;> rfl

/-- A value narrowed to a type is zero where the low bits that the type reads are. -/
theorem narrow_eq_zero_iff (t : Ty) (x : Word) : narrow t x = 0 ↔ bits x 0 (width t) = 0 := by
  have hbits : bits x 0 (width t) = (x.setWidth (width t)).toNat := by
    simp [bits, BitVec.toNat_setWidth]
  have hzero : (x.setWidth (width t)).toNat = 0 ↔ x.setWidth (width t) = 0 := by
    rw [BitVec.toNat_eq]; simp
  rw [hbits, hzero]
  constructor
  · intro h
    rw [← setWidth_narrow, h]
    exact BitVec.setWidth_zero ..
  · intro h
    have hz : narrow t x = narrow t 0 := by simp [narrow, h]
    rw [hz, narrow_zero]

/-- MOV's test of an integer against zero (06 R113). -/
theorem movValue_op_ne_zero {c : Ctx} {t : Ty} (ht : t.isInt = true) (a : Operand) (l : Nat) :
    (movValue c t (.op a) l != 0) = nonzero c t a l := by
  have hn : (movValue c t (.op a) l = 0) ↔ raw c t a l = 0 := by
    simp only [movValue, isFloat_of_isInt ht, Bool.false_eq_true, if_false, srcInt, raw, narrow_eq_zero_iff]
  simp only [nonzero, isFloat_of_isInt ht, Bool.false_eq_true, if_false, bne, ← hn, decide_not, Bool.beq_eq_decide_eq]

theorem movValue_pred_ne_zero (c : Ctx) (t : Ty) (k : BitVec 3) (l : Nat) :
    (movValue c t (.pred k) l != 0) = (c.w.readP k.toNat).getLsbD l := by
  simp only [movValue]
  cases (c.w.readP k.toNat).getLsbD l <;> decide

/-- A legal MOV to a predicate has an integer type (06 R113). -/
theorem isInt_of_mov_pred {h : Hdr} {t : Ty} {k : BitVec 3} {a : MovSrc} (hwf : (Instr.mov h t (.pred k) a).wf = true) :
    t.isInt = true := by
  cases a <;> simp_all [Instr.wf]

/-- A legal MOV to an index register copies an integer of an operand (06 R113). -/
theorem isInt_of_mov_idx {h : Hdr} {t : Ty} {k : BitVec 2} {a : MovSrc} (hwf : (Instr.mov h t (.idx k) a).wf = true) :
    t.isInt = true := by
  cases a <;> simp_all [Instr.wf]

theorem mov_pred_op_writesP {h : Hdr} {t : Ty} {k : BitVec 3} {a : Operand} {s : State} {c : Ctx}
    (hi : Issues (.mov h t (.pred k) (.op a)) s c) :
    WritesP (.mov h t (.pred k) (.op a)) s c k.toNat (nonzero c t a) c.w.fpx :=
  pred_word hi k.toNat (fun c => nonzero c t a) (fun c l => movValue c t (.op a) l != 0) (exec_mov h t (.pred k) (.op a) s)
    (fun l _ => movValue_op_ne_zero (isInt_of_mov_pred hi.2.legal) a l)

theorem mov_pred_pred_writesP {h : Hdr} {t : Ty} {k j : BitVec 3} {s : State} {c : Ctx}
    (hi : Issues (.mov h t (.pred k) (.pred j)) s c) :
    WritesP (.mov h t (.pred k) (.pred j)) s c k.toNat (fun l => (c.w.readP j.toNat).getLsbD l) c.w.fpx :=
  pred_word hi k.toNat (fun c l => (c.w.readP j.toNat).getLsbD l) (fun c l => movValue c t (.pred j) l != 0)
    (exec_mov h t (.pred k) (.pred j) s) (fun l _ => movValue_pred_ne_zero c t j l)

/-! ### Index registers -/

theorem readX_writeX (w : Warp) (i j : Nat) (x : BitVec 16) :
    (w.writeX i x).readX j = if j = i then x.toNat else w.readX j := by
  simp only [Warp.readX, Warp.writeX, get_put]
  split <;> rfl

theorem mov_idx_value {c : Ctx} {t : Ty} (ht : t.isInt = true) (a : Operand) :
    ((movValue c t (.op a) 0).setWidth 16).toNat = (narrow t (src64 c a 0)).toNat % 65536 := by
  simp only [movValue, isFloat_of_isInt ht, Bool.false_eq_true, if_false, srcInt, BitVec.toNat_setWidth]

/-- MOV to an index register with no active lane does nothing. -/
theorem mov_idx_inactive {h : Hdr} {t : Ty} {k : BitVec 2} {a : MovSrc} {s : State} {c : Ctx}
    (hi : Issues (.mov h t (.idx k) a) s c) (hact : c.act = 0) : Becomes (.mov h t (.idx k) a) s c c.w := by
  refine ⟨_, (exec_mov h t (.idx k) a s).trans (issueWord_passes hi), ?_⟩
  simpa only [movBody, hact, if_true] using after_nothing hi []

/-- MOV to an index register with an active lane writes it whole. -/
theorem mov_idx_active {h : Hdr} {t : Ty} {k : BitVec 2} {a : MovSrc} {s : State} {c : Ctx}
    (hi : Issues (.mov h t (.idx k) a) s c) (hact : c.act ≠ 0) :
    Becomes (.mov h t (.idx k) a) s c (c.w.writeX k.toNat ((movValue c t a 0).setWidth 16)) := by
  refine ⟨_, (exec_mov h t (.idx k) a s).trans (issueWord_passes hi), ?_⟩
  simpa only [movBody, hact, if_false] using
    after_done hi (fun w => w.writeX k.toNat ((movValue c t a 0).setWidth 16)) [] rfl rfl

/-! ### Votes -/

/-- A mask of lanes is known by its lanes. -/
theorem lanesOf_inj {m n : LaneMask} : lanesOf m = lanesOf n ↔ m = n := by
  refine ⟨fun h => BitVec.eq_of_getLsbD_eq fun l hl => ?_, congrArg lanesOf⟩
  have hmem : l ∈ lanesOf m ↔ l ∈ lanesOf n := by rw [h]
  simpa [lanesOf, lanes, hl, ← Bool.eq_iff_iff] using hmem

theorem lanesOf_zero : lanesOf 0 = [] := by simp [lanesOf]

theorem voters_eq_lanesOf (c : Ctx) (p : BitVec 3) : voters c p = lanesOf (c.act &&& c.w.readP p.toNat) := by
  simp only [voters, lanesOf, BitVec.getLsbD_and]

theorem voters_eq_nil_iff (c : Ctx) (p : BitVec 3) : voters c p = [] ↔ c.act &&& c.w.readP p.toNat = 0 := by
  rw [voters_eq_lanesOf, ← lanesOf_zero, lanesOf_inj]

theorem voters_eq_act_iff (c : Ctx) (p : BitVec 3) :
    voters c p = lanesOf c.act ↔ c.act &&& c.w.readP p.toNat = c.act := by
  rw [voters_eq_lanesOf, lanesOf_inj]

theorem vote_some_writesP {h : Hdr} {q p : BitVec 3} {s : State} {c : Ctx} (hi : Issues (.vote h (.some q) p) s c) :
    WritesP (.vote h (.some q) p) s c q.toNat (fun _ => decide (voters c p ≠ [])) c.w.fpx :=
  pred_word hi q.toNat (fun c _ => decide (voters c p ≠ [])) (fun c _ => c.act &&& c.w.readP p.toNat != 0)
    (exec_vote h (.some q) p s) (fun _ _ => by
      simp only [ne_eq, voters_eq_nil_iff, bne, Bool.beq_eq_decide_eq, decide_not])

theorem vote_every_writesP {h : Hdr} {q p : BitVec 3} {s : State} {c : Ctx} (hi : Issues (.vote h (.every q) p) s c) :
    WritesP (.vote h (.every q) p) s c q.toNat (fun _ => decide (voters c p = lanesOf c.act)) c.w.fpx :=
  pred_word hi q.toNat (fun c _ => decide (voters c p = lanesOf c.act)) (fun c _ => c.act &&& c.w.readP p.toNat == c.act)
    (exec_vote h (.every q) p s) (fun _ _ => by simp only [voters_eq_act_iff, Bool.beq_eq_decide_eq])

theorem vote_same_writesP {h : Hdr} {q p : BitVec 3} {s : State} {c : Ctx} (hi : Issues (.vote h (.same q) p) s c) :
    WritesP (.vote h (.same q) p) s c q.toNat
      (fun _ => decide (voters c p = []) || decide (voters c p = lanesOf c.act)) c.w.fpx :=
  pred_word hi q.toNat (fun c _ => decide (voters c p = []) || decide (voters c p = lanesOf c.act))
    (fun c _ => c.act &&& c.w.readP p.toNat == 0 || c.act &&& c.w.readP p.toNat == c.act)
    (exec_vote h (.same q) p s) (fun _ _ => by simp only [voters_eq_nil_iff, voters_eq_act_iff, Bool.beq_eq_decide_eq])

/-! ### The statement's three parts -/

/-- Each word that writes a predicate writes its truth in the active lanes, and nothing else. -/
theorem predEffect_writesP {i : Instr} {k : Nat} {f : Ctx → Nat → Bool} (he : predEffect i = some (k, f)) {s : State}
    {c : Ctx} (hi : Issues i s c) : WritesP i s c k (f c) c.w.fpx := by
  unfold predEffect at he
  split at he <;> cases he
  -- ICMP, one case for each condition; MOV from an operand and from a predicate; VOTE's three modes
  case h_1 | h_2 | h_3 | h_4 | h_5 | h_6 => exact icmp_writesP hi
  case h_7 => exact mov_pred_op_writesP hi
  case h_8 => exact mov_pred_pred_writesP hi
  case h_9 => exact vote_some_writesP hi
  case h_10 => exact vote_every_writesP hi
  case h_11 => exact vote_same_writesP hi

/-- MOV to an index register writes it whole with an active lane, and not at all with none. -/
theorem mov_idx_writes {h : Hdr} {t : Ty} {k : BitVec 2} {a : Operand} {s : State} {c : Ctx}
    (hi : Issues (.mov h t (.idx k) (.op a)) s c) :
    ∃ g, Becomes (.mov h t (.idx k) (.op a)) s c g ∧ RegsOnly c.w g ∧ g.v = c.w.v ∧ g.s = c.w.s ∧ g.p = c.w.p ∧
      ∀ j, g.readX j = if j = k.toNat ∧ c.act ≠ 0 then (narrow t (src64 c a 0)).toNat % 65536 else c.w.readX j := by
  by_cases hact : c.act = 0
  · exact ⟨_, mov_idx_inactive hi hact, rfl, rfl, rfl, rfl, fun j => by simp [hact]⟩
  · refine ⟨_, mov_idx_active hi hact, rfl, rfl, rfl, rfl, fun j => ?_⟩
    rw [readX_writeX, mov_idx_value (isInt_of_mov_idx hi.2.legal)]
    simp only [ne_eq, hact, not_false_eq_true, and_true]

/-- Settles O2: the words of `predEffect` by their cases, the writes in flight by what `writeP` leaves, and MOV to an index
register by whether a lane is active. -/
theorem predicates : Obligations.Predicates := by
  unfold Obligations.Predicates
  refine ⟨fun i k f he s c hi => predEffect_writesP he hi, fun w k act vals j l hl => readP_writeP w k j act vals l hl, ?_⟩
  intro h t k a s c hi
  obtain ⟨g, ⟨t, hexec, hperf⟩, hframe⟩ := mov_idx_writes hi
  exact ⟨t, g, hexec, hperf, hframe⟩

end Sys2Proof.Safety
end

section
/-! PROOFS. A launch that stops has ended: nothing before its end writes the table of launches (03 R62; 17 R305). -/
namespace Sys2Proof.Machine

/-- The table of launches is as it was. -/
def SameLaunches (s t : State) : Prop := t.launches = s.launches

namespace SameLaunches

theorem refl (s : State) : SameLaunches s s := rfl

theorem launch {s t : State} (h : SameLaunches s t) (lid : Nat) : t.launch lid = s.launch lid :=
  congrArg (fun m => get noLaunch m lid) h

variable {a s : State}

theorem same {t : State} (h : SameLaunches a s) (ht : t.launches = s.launches) : SameLaunches a t := Eq.trans ht h

theorem foldl {β : Type} {f : State → β → State} (hf : ∀ s x, SameLaunches s (f s x)) :
    ∀ (l : List β) {s : State}, SameLaunches a s → SameLaunches a (l.foldl f s)
  | [], _, h => h
  | x :: r, s, h => foldl hf r (h.same (hf s x))

theorem modCore (h : SameLaunches a s) (c : Nat) (f : Core → Core) : SameLaunches a (s.modCore c f) := h
theorem modWarp (h : SameLaunches a s) (c i : Nat) (f : Warp → Warp) : SameLaunches a (s.modWarp c i f) := h
theorem setWarp (h : SameLaunches a s) (c i : Nat) (w : Warp) : SameLaunches a (s.setWarp c i w) := h
theorem modPart (h : SameLaunches a s) (p : Nat) (f : Partition → Partition) : SameLaunches a (s.modPart p f) := h
theorem modWg (h : SameLaunches a s) (k : Nat) (f : Workgroup → Workgroup) : SameLaunches a (s.modWg k f) := h
theorem setWg (h : SameLaunches a s) (k : Nat) (x : Workgroup) : SameLaunches a (s.setWg k x) := h
theorem modFunc (h : SameLaunches a s) (f : Nat) (g : Func → Func) : SameLaunches a (s.modFunc f g) := h
theorem nextFree (h : SameLaunches a s) : SameLaunches a s.nextFree := h
theorem rawStore (h : SameLaunches a s) (k : Nat) (bs : List Byte) : SameLaunches a (s.rawStore k bs) := h

/-! ### Memory and fault records -/

theorem setHeader (h : SameLaunches a s) (p : Nat) (pg : Page) (off x : Nat) : SameLaunches a (s.setHeader p pg off x) := by
  simp only [State.setHeader]
  split
  · exact h.same rfl
  · exact h.same rfl

theorem setMapBit (h : SameLaunches a s) (p map e : Nat) (b : Bool) : SameLaunches a (s.setMapBit p map e b) := by
  simp only [State.setMapBit]
  split
  · exact h.same rfl
  · exact h

theorem compStore (h : SameLaunches a s) (p : Nat) (r : CompRef) (pg : Page) (off : Nat) (new : List Byte) :
    SameLaunches a (s.compStore p r pg off new) := by
  simp only [State.compStore]
  split
  · split
    · split
      · exact h.rawStore _ _
      · exact h
    · split
      · exact h
      · exact ((((h.setMapBit _ _ _ _).rawStore _ _).rawStore _ _).rawStore _ _).rawStore _ _
  · split
    · exact (((h.setMapBit _ _ _ _).rawStore _ _).rawStore _ _).rawStore _ _
    · exact (h.rawStore _ _).rawStore _ _

theorem writeLine (h : SameLaunches a s) (p : Nat) (pg : Page) (off : Nat) (new : List Byte) (whole : Bool) :
    SameLaunches a (s.writeLine p pg off new whole) := by
  have hclear : ∀ t, SameLaunches a t → SameLaunches a (if whole ∧ get false t.poison (lineId pg off) then
      ({ t with poison := put false t.poison (lineId pg off) false }).setHeader p pg off 0 else t) := by
    intro t ht
    split
    · exact setHeader (s := { t with poison := put false t.poison (lineId pg off) false }) ht _ _ _ _
    · exact ht
  simp only [State.writeLine]
  apply hclear
  split
  · exact h.same rfl
  · exact compStore (s := (s.kvTouch _).digestUpkeep _ _ _) h _ _ _ _ _

theorem hbmStore (h : SameLaunches a s) (p k : Nat) (bs : List Byte) : SameLaunches a (s.hbmStore p k bs) := by
  unfold State.hbmStore
  split
  · exact h
  · refine same (foldl (fun s x => ?_) _ h) rfl
    dsimp only
    split
    · exact refl s
    · exact (refl s).writeLine _ _ _ _ _

theorem writeRecord (h : SameLaunches a s) (p : Nat) (r : FaultRec) : SameLaunches a (s.writeRecord p r) := by
  simp only [State.writeRecord]
  exact (h.hbmStore _ _ _).modPart _ _

theorem report (h : SameLaunches a s) (r : FaultRec) : SameLaunches a (s.report r) := by
  have hwrite : ∀ t, SameLaunches a t → SameLaunches a (if (t.part r.part).fqRoom ∧ (t.part r.part).fqHeld = [] then
      t.writeRecord r.part r else t.modPart r.part (fun y => { y with fqHeld := y.fqHeld ++ [r], fqovf := true })) := by
    intro t ht
    split
    · exact ht.writeRecord _ _
    · exact ht.modPart _ _
  simp only [State.report]
  apply hwrite
  split
  · exact h.modPart _ _
  · exact h

/-! ### Completions and walks -/

theorem complete (h : SameLaunches a s) (p f c ag lid : Nat) (va : Word) (st : Nat) (o : Origin) (xyz : Nat × Nat × Nat) :
    SameLaunches a (s.complete p f c ag lid va st o xyz) := by
  unfold State.complete
  split
  · exact h
  · exact h.same rfl

theorem goOn (h : SameLaunches a s) (c i : Nat) : SameLaunches a (s.goOn c i) := by
  simp only [State.goOn]
  apply modCore
  apply modWarp
  split
  · exact h.modWarp _ _ _
  · exact h

theorem wakeWarp (h : SameLaunches a s) (c i : Nat) : SameLaunches a (s.wakeWarp c i) := by
  simp only [State.wakeWarp, State.markWakeable]
  split
  · split
    · exact h.goOn _ _
    · exact h.setWarp _ _ _
  · exact h.setWarp _ _ _
  · split
    · exact h.setWarp _ _ _
    · split
      · exact h.setWarp _ _ _
      · exact (h.setWarp _ _ _).setWarp _ _ _
  · exact h

theorem leaveIssue (h : SameLaunches a s) (c i : Nat) (x : WState) : SameLaunches a (s.leaveIssue c i x) :=
  (h.setWarp _ _ _).modCore _ _

theorem walkDone (h : SameLaunches a s) (c w st : Nat) : SameLaunches a (s.walkDone c w st) := by
  simp only [State.walkDone]
  split
  · exact h
  · exact foldl (fun s i => (refl s).wakeWarp _ i) _ ((h.modCore _ _).complete _ _ _ _ _ _ _ _ _)

theorem stopWalk (h : SameLaunches a s) (c w st : Nat) : SameLaunches a (s.stopWalk c w st) := by
  simp only [State.stopWalk]
  split
  · exact h
  · split
    · exact h
    · exact h
    · exact h.walkDone _ _ _
    · exact ((h.modWg _ _).nextFree.modCore _ _).modCore _ _

theorem abortSenders (h : SameLaunches a s) (p : Nat) (w : Walk) (f : Walk → Bool) : SameLaunches a (s.abortSenders p w f) := by
  have hstop := foldl (f := fun s (x : Nat × Walk) => s.stopWalk x.1 x.2.wid 0x41) (fun s _ => (refl s).stopWalk _ _ _)
    ((s.senders p w).filter (fun (_, x) => f x)) h
  simp only [State.abortSenders]
  split
  · exact hstop.same rfl
  · exact hstop

/-! ### The stop -/

theorem endWalks (h : SameLaunches a s) (c k : Nat) (e : Nat → Bool) (st : Nat → Nat) :
    SameLaunches a (s.endWalks c k e st) :=
  foldl (fun s _ => ((refl s).walkDone _ _ _).abortSenders _ _ _) _ h

theorem stopWgs (h : SameLaunches a s) (lid : Nat) (bad : Option Nat) : SameLaunches a (s.stopWgs lid bad) := by
  refine foldl (fun s k => ?_) _ h
  dsimp only
  exact ((foldl (fun s i => ((refl s).leaveIssue _ i _).setWarp _ i noWarp) _
    (((foldl (fun s t => (refl s).complete _ _ _ _ _ _ _ _ _) _ ((refl s).endWalks _ _ _ _)).modPart _ _).modCore _ _)).modPart
      _ _).setWg _ _

theorem endSavedWalks (h : SameLaunches a s) (v : SavedWg) (e : Nat → Bool) (st : Nat) :
    SameLaunches a (s.endSavedWalks v e st) := by
  refine foldl (fun s w => ?_) _ h
  split
  · exact refl s
  · exact ((refl s).complete _ _ _ _ _ _ _ _ _).abortSenders _ _ _

theorem stopSaved (h : SameLaunches a s) (lid : Nat) : SameLaunches a (s.stopSaved lid) := by
  simp only [State.stopSaved]
  refine foldl (fun u _ => (refl u).modCore _ _) _ (modFunc (foldl (fun u v => ?_) _ h) _ _)
  split
  · exact foldl (fun u _ => (refl u).complete _ _ _ _ _ _ _ _ _) _ ((refl u).endSavedWalks _ _ _)
  · exact refl u

theorem slotUsed (h : SameLaunches a s) (who : Issuer) : SameLaunches a (s.slotUsed who) := by
  unfold State.slotUsed
  split
  · exact h.same rfl
  · exact h

end SameLaunches

theorem slotUsed_decs (s : State) (who : Issuer) : (s.slotUsed who).decs = s.decs := by
  unfold State.slotUsed
  split
  · rfl
  · rfl

end Sys2Proof.Machine

namespace Sys2Proof.Safety
open Sys2Proof.Machine Sys2Proof.Claims

/-- The decrement of a counter is due once its completion is reported. -/
theorem due_complete (s : State) (p f c ag lid : Nat) (va : Word) (st : Nat) (o : Origin) (xyz : Nat × Nat × Nat) :
    due (s.complete p f c ag lid va st o xyz) va st ag := by
  intro hva
  simp only [State.complete, hva, if_false, State.decrement]
  exact ⟨_, List.mem_append_right _ (List.mem_singleton_self _), rfl, rfl, rfl⟩

/-- An open launch that ends is over, and its DONE counter's decrement is due. -/
theorem endLaunch_ended (s : State) (lid st : Nat) (hopen : (s.launch lid).open_ = true) :
    ended s (s.endLaunch lid st) lid st := by
  simp only [State.endLaunch, hopen, Bool.not_true, Bool.false_eq_true, if_false]
  split
  case isTrue hva => exact ⟨by rw [State.removeLaunch, setLaunch_launch_same]; rfl, fun h => absurd hva h⟩
  case isFalse =>
    refine ⟨by rw [setLaunch_launch_same]; simp [Launch.open_], ?_⟩
    exact due_complete (State.modPart _ _ _) _ _ _ 8 lid _ st _ _

/-- `ended` reads the launch before the step, and the table of launches and the decrements after it. -/
theorem ended_of_same {s u t r : State} {lid st : Nat} (h : ended u t lid st) (hu : SameLaunches s u)
    (hr : SameLaunches t r) (hd : r.decs = t.decs) : ended s r lid st := by
  obtain ⟨hopen, hdue⟩ := h
  rw [hu.launch lid] at hdue
  refine ⟨by rw [hr.launch lid]; exact hopen, fun hva => ?_⟩
  rw [hd]
  exact hdue hva

/-- A launch that stops has ended with the cause (03 R62). -/
theorem stopLaunch_ended (s : State) (lid cause : Nat) (bad : Option Nat) (r : FaultRec)
    (hopen : (s.launch lid).open_ = true) : ended s (s.stopLaunch lid cause bad r) lid cause := by
  have hu : SameLaunches s (((s.stopWgs lid bad).stopSaved lid).report r) :=
    (((SameLaunches.refl s).stopWgs lid bad).stopSaved lid).report r
  refine ended_of_same (endLaunch_ended _ lid cause ?_) hu (SameLaunches.refl _) rfl
  rw [hu.launch lid]
  exact hopen

/-- A word that stops its launch ends it. -/
theorem stop_ended (i : Instr) (c : Ctx) (s : State) (cause : Nat) (info : Word) (hopen : (s.launch c.lid).open_ = true) :
    ended s ((Res.stop s cause info).apply i c) c.lid cause :=
  ended_of_same (stopLaunch_ended s c.lid cause _ _ hopen) (SameLaunches.refl s) ((SameLaunches.refl _).slotUsed _)
    (slotUsed_decs _ _)

end Sys2Proof.Safety
end

section
/-! PROOFS. A trap that is delivered, and the checks that a word fails before its effect (03 R65; 07 R142). -/
namespace Sys2Proof.Safety
open Sys2Proof.Machine Sys2Proof.Claims

/-! ### The context of an issuing word -/

theorem ctx_who (s : State) (w : Warp) (e : Entry) (h : Hdr) : (s.ctx w e h).who = s.cur := by
  cases hc : s.cur <;> simp [State.ctx, State.ctxAt, hc]

theorem ctx_warp (s : State) (w : Warp) (e : Entry) (h : Hdr) : (s.ctx w e h).w = w := by
  cases hc : s.cur <;> simp [State.ctx, State.ctxAt, hc]

theorem ctx_act (s : State) (w : Warp) (e : Entry) (h : Hdr) : (s.ctx w e h).act = guardLanes w (s.ctx w e h).e h.guard h.gn := by
  cases hc : s.cur <;> simp [State.ctx, State.ctxAt, hc]

theorem issuer_warp {s : State} {w : Warp} {e : Entry} (h : s.issuer = some (w, e)) : s.issuerWarp s.cur = w := by
  simp only [State.issuer] at h
  split at h <;> simp_all

/-- A context that runs no prologue is that of a warp. -/
theorem who_of_front {c : Ctx} (h : c.front = false) : ∃ k j, c.who = .warp k j := by
  cases hw : c.who with
  | warp k j => exact ⟨k, j, rfl⟩
  | prologue p => simp [Ctx.front, hw] at h

/-! ### Delivery -/

/-- What delivery makes of the warp (07 R142). -/
def taken (c : Ctx) (cause : Nat) (lns : LaneMask) (info : Word) (w : Warp) : Warp :=
  { w with
    trap := { w.trap with pc := c.e.pc, cause := cause, lanes := lns, info := info, intrap := true
                          saved := some { frontier := w.frontier, spilled := w.spilled, e := c.e } }
    frontier := [{ prio := 255, pc := w.trap.vec, lanes := c.e.lanes }]
    spilled := []
    windows := [] }

theorem takeTrap_eq_taken {c : Ctx} {s : State} (hfront : c.front = false) (hin : (s.issuerWarp c.who).trap.intrap = false)
    (hvec : (s.issuerWarp c.who).trap.vec ≠ 0) (cause : Nat) (lns : LaneMask) (info word : Word) :
    takeTrap c s cause lns info word = s.modIssuer c.who (taken c cause lns info) := by
  obtain ⟨k, j, hw⟩ := who_of_front hfront
  simp only [hw] at hin hvec
  simp only [takeTrap, hw, hin, hvec, Bool.false_eq_true, or_self, if_false]
  rfl

/-- The word counts before its trap is taken, which the delivered warp does not show. -/
theorem uncounted_taken (c : Ctx) (cause : Nat) (lns : LaneMask) (info : Word) (now : Nat) (i : Instr) :
    uncounted (taken c cause lns info (c.w.trapped now i)) = delivered c cause lns info := by
  simp only [uncounted, unscheduled, taken, delivered, Warp.trapped, Warp.countWord, Warp.count]

theorem uncounted_of_unscheduled {w g : Warp} (h : unscheduled w = unscheduled g) : uncounted w = uncounted g :=
  congrArg (fun w : Warp => ({ w with events := [] } : Warp)) h

/-- A word that traps in a warp that can take it delivers the trap and changes nothing else (07 R142). -/
theorem trap_delivered {i : Instr} {c : Ctx} {s : State} (hwho : c.who = s.cur) (hw : s.issuerWarp s.cur = c.w)
    (hcan : canTrap c) (cause : Nat) (lns : LaneMask) (info : Word) :
    Elsewhere s ((Res.trap s cause lns info).apply i c) ∧
      uncounted (((Res.trap s cause lns info).apply i c).issuerWarp s.cur) = delivered c cause lns info := by
  obtain ⟨hfront, hin, hvec⟩ := hcan
  have hpresent : Present s c.who := by
    obtain ⟨k, j, hk⟩ := who_of_front hfront
    rw [hk]
    trivial
  -- the warp counts the word, and then takes the trap
  have hcount : (s.modIssuer c.who (fun w => w.trapped s.now i)).issuerWarp c.who = c.w.trapped s.now i := by
    rw [issuerWarp_modIssuer hpresent, hwho, hw]
  have hpresent' := present_modIssuer hpresent (fun w => w.trapped s.now i)
  have hcounted : Elsewhere s (s.modIssuer c.who (fun w => w.trapped s.now i)) := hwho ▸ elsewhere_modIssuer s _
  have htake := takeTrap_eq_taken (s := s.modIssuer c.who (fun w => w.trapped s.now i)) hfront
    (by rw [hcount]; exact hin) (by rw [hcount]; exact hvec) cause lns info (encode i)
  have htaken := elsewhere_modIssuer (s.modIssuer c.who (fun w => w.trapped s.now i)) (taken c cause lns info)
  rw [hcounted.cur, ← hwho] at htaken
  simp only [Res.apply, htake]
  refine ⟨(hcounted.trans htaken).trans (elsewhere_endTurn _ c false ?_), ?_⟩
  · exact hwho.trans (hcounted.trans htaken).cur.symm
  · rw [← hwho, uncounted_of_unscheduled (unscheduled_endTurn _ c false (present_modIssuer hpresent' _)),
      issuerWarp_modIssuer hpresent', hcount, uncounted_taken]

/-- The same of a word that has passed its checks. -/
theorem Issues.trap_delivered {i : Instr} {c : Ctx} {s : State} (h : Issues i s c) (hcan : canTrap c) (cause : Nat)
    (lns : LaneMask) (info : Word) : Elsewhere s ((Res.trap s cause lns info).apply i c) ∧
      uncounted (((Res.trap s cause lns info).apply i c).issuerWarp s.cur) = delivered c cause lns info :=
  Safety.trap_delivered h.who h.warp.symm hcan cause lns info

/-! ### Return -/

/-- The warp with the frontier that a trap saved, out of its trap handler (07 R145). -/
def restored (w : Warp) (v : SavedTrap) : Warp :=
  { w with trap := { w.trap with intrap := false, saved := none }, spilled := v.spilled, frontier := v.frontier }

theorem returnTrap_saved {w : Warp} {v : SavedTrap} (h : w.trap.saved = some v) (n : Nat) (skip : Bool) :
    returnTrap w n skip =
      (restored w v).replaceEntry n v.e [{ v.e with pc := if skip then w.trap.pc + 8 else w.trap.pc }] := by
  simp only [returnTrap, h, restored]

/-- Replacing an entry looks at the frontier and the spilled entries alone. -/
theorem replaceEntry_frontier {w g : Warp} (hf : g.frontier = w.frontier) (hs : g.spilled = w.spilled) (n : Nat) (e : Entry)
    (es : List Entry) : (g.replaceEntry n e es).frontier = (w.replaceEntry n e es).frontier ∧
      (g.replaceEntry n e es).spilled = (w.replaceEntry n e es).spilled := by
  simp only [Warp.replaceEntry, hf]
  exact setFrontier_frontier _ _ _ _ hs

/-- Returning from a trap with .skip goes on after the word that trapped (07 R145, R146). -/
theorem returnTrap_delivered_frontier (c : Ctx) (cause : Nat) (lns : LaneMask) (info : Word) (n : Nat) :
    (returnTrap (delivered c cause lns info) n true).frontier = (c.w.advance n c.e).frontier := by
  have hsaved : (delivered c cause lns info).trap.saved =
      some { frontier := c.w.frontier, spilled := c.w.spilled, e := c.e } := rfl
  rw [returnTrap_saved hsaved]
  refine (replaceEntry_frontier (w := c.w) ?_ ?_ n c.e _).1
  · rfl
  · rfl

/-! ### Words that fail a check -/

theorem issueWord_issuer {i : Instr} {s : State} {w : Warp} {e : Entry} (h : s.issuer = some (w, e))
    (body : Ctx → State → Res) :
    issueWord i body s = .next (runWord i body { s.ctx w e (hdrOf i) with word := encode i } s) := by
  simp only [issueWord, h]

/-- A word that is not legal stops its launch (03 R61, R62). -/
theorem runWord_illegal {i : Instr} {c : Ctx} {s : State} (body : Ctx → State → Res) (hfree : c.w.heldUp = false)
    (hwf : i.wf = false) (hcause : illegalCause i = 1) : runWord i body c s = (Res.stop s 1 0).apply i c := by
  simp only [runWord, hfree, hwf, hcause, Bool.false_eq_true, if_false, Bool.not_false, if_true, ite_self]

/-- A legal word of a warp whose specifier is at fault traps with INDEX (03 R52, R65). -/
theorem runWord_index {i : Instr} {c : Ctx} {s : State} {x : Nat} (body : Ctx → State → Res) (hfree : c.w.heldUp = false)
    (hfront : c.front = false) (hwf : i.wf = true) (hmode : stateIllegal i c = false) (hwindow : lookaheadFault i c.w = none)
    (hready : blockOf i c.w = none) (hindex : indexFault i c.w = some x) :
    runWord i body c s = (Res.trap s 3 (pairLanes c.w c.e i (some (x / 65536))) (BitVec.ofNat 64 x)).apply i c := by
  simp only [runWord, hfree, hfront, hwf, hmode, hwindow, hready, hindex, Bool.false_and, Bool.not_true,
    Bool.false_eq_true, if_false]

end Sys2Proof.Safety
end

section
/-! PROOFS. What the decoder reads as a trap word or as ZIP or UNZIP, and the fields of such a word (03 R44-R61; 07 R126,
R145, R146). -/
namespace Sys2Proof.Safety
open Sys2Proof.Machine Sys2Proof.Claims

/-! ### Every instruction that a parser answers -/

/-- Every instruction that the parser answers meets `P`. -/
def Yields (P : Instr → Prop) (o : Option Instr) : Prop := ∀ i, o = some i → P i

@[simp] theorem yields_none (P : Instr → Prop) : Yields P none := fun _ h => nomatch h

@[simp] theorem yields_some (P : Instr → Prop) (i : Instr) : Yields P (some i) ↔ P i :=
  ⟨fun h => h i rfl, fun h _ hj => Option.some.inj hj ▸ h⟩

@[simp] theorem yields_bind {α : Type} (P : Instr → Prop) (o : Option α) (f : α → Option Instr) :
    Yields P (o.bind f) ↔ ∀ a, o = some a → Yields P (f a) := by
  cases o <;> simp

@[simp] theorem yields_map {α : Type} (P : Instr → Prop) (o : Option α) (f : α → Instr) :
    Yields P (o.map f) ↔ ∀ a, o = some a → P (f a) := by
  cases o <;> simp

@[simp] theorem yields_ite (P : Instr → Prop) (c : Prop) [Decidable c] (x y : Option Instr) :
    Yields P (if c then x else y) ↔ (c → Yields P x) ∧ (¬c → Yields P y) := by
  split <;> simp_all

theorem yields_some_ite (P : Instr → Prop) (c : Prop) [Decidable c] (i j : Instr) :
    Yields P (some (if c then i else j)) ↔ (c → P i) ∧ (¬c → P j) := by
  rw [yields_some]
  split <;> simp_all

@[simp] theorem need_eq_some (b : Bool) (u : Unit) : need b = some u ↔ b = true := by cases b <;> simp [need]

/-! ### The words of interest -/

/-- The majors of TRAP, TRET and BKPT (07 R145, R146). -/
def trapMajor : Instr → Nat
  | .trap _ _ => 0x0A
  | .tretRetry _ | .tretSkip _ => 0x0B
  | .bkpt _ _ => 0x0C
  | _ => 0

/-- The bodies of those words: the code in imm[15:0], or the mode in mod[14:12]. -/
def trapBody : Instr → Nat
  | .trap _ code | .bkpt _ code => code.toNat
  | .tretSkip _ => 0x1000
  | _ => 0

/-- Neither a trap word nor ZIP or UNZIP. -/
def Common (i : Instr) : Prop := trapMajor i = 0 ∧ zipRange i = none

/-- A trap word of major `m` whose body is that of `w`, or a word of other majors. -/
def TrapFields (w : Word) (m : Nat) (i : Instr) : Prop := trapMajor i ≠ 0 → m = trapMajor i ∧ w.toNat % 2 ^ 45 = trapBody i

/-- A ZIP or UNZIP of major `m` whose specifiers are those of `w`, the rest of the body zero, or another word. -/
def ZipFields (w : Word) (m : Nat) (i : Instr) : Prop := ∀ d n a, zipRange i = some (d, n, a) →
  m = zipMajor i ∧ w.toNat / 2 ^ 35 % 1024 = d ∧ w.toNat / 2 ^ 25 % 1024 = a ∧ w.toNat % 2 ^ 25 = 0

theorem Common.fields {i : Instr} (h : Common i) (w : Word) (m : Nat) : TrapFields w m i ∧ ZipFields w m i := by
  obtain ⟨htrap, hzip⟩ := h
  exact ⟨fun hne => absurd htrap hne, fun d n a hr => by simp [hzip] at hr⟩

/-! ### The other chapters' majors -/

theorem parseLane_common (w : Word) (m : Nat) : Yields Common (parseLane w m) := by
  unfold parseLane
  split <;> simp [parse3, parse2, parseC, parseF3, parseFC, Common, trapMajor, zipRange]

theorem parseMemory_common (w : Word) (m : Nat) : Yields Common (parseMemory w m) := by
  unfold parseMemory
  split <;> simp [parse0, parseA, parseD, Common, trapMajor, zipRange]

theorem parseMass_common (w : Word) (m : Nat) : Yields Common (parseMass w m) := by
  unfold parseMass
  split <;> simp [parseA, parseAB, parseDA, parseD, Common, trapMajor, zipRange]

theorem parseQueues_common (w : Word) (m : Nat) : Yields Common (parseQueues w m) := by
  unfold parseQueues
  split
  -- HRET, which aborts or does not
  case h_7 => simp only [yields_bind, yields_some_ite, Option.bind_eq_bind]; simp [Common, trapMajor, zipRange]
  all_goals simp [parseA, parseAB, parseDA, parseDAB, parseD, Common, trapMajor, zipRange]

/-! ### Fields as numbers -/

theorem toNat_extractLsb' (w : Word) (lo n : Nat) : (w.extractLsb' lo n).toNat = w.toNat / 2 ^ lo % 2 ^ n := by
  rw [BitVec.extractLsb'_toNat, Nat.shiftRight_eq_div_pow]

theorem extractLsb'_eq_iff (w : Word) (lo n : Nat) (x : BitVec n) :
    w.extractLsb' lo n = x ↔ w.toNat / 2 ^ lo % 2 ^ n = x.toNat := by
  rw [← BitVec.toNat_inj, toNat_extractLsb']

/-- A word that is not a pair has its major in its top byte (03 R44). -/
theorem major_of_unpaired {w : Word} (h : w.extractLsb' 63 1 ≠ 1) : w.toNat / 2 ^ 56 = (fMajor w).toNat := by
  have hw := w.isLt
  rw [ne_eq, extractLsb'_eq_iff] at h
  rw [fMajor, toNat_extractLsb']
  have hone : (1 : BitVec 1).toNat = 1 := rfl
  omega

/-- A plain v specifier is the number of its register. -/
theorem vOf_eq_some {x : BitVec 10} {n : BitVec 8} (h : vOf x = some n) : x.toNat = n.toNat := by
  simp only [vOf] at h
  split at h
  case isFalse => cases h
  case isTrue htop =>
    have htop' : x.toNat / 2 ^ 8 % 2 ^ 2 = 0 := by
      rw [← Nat.shiftRight_eq_div_pow, ← BitVec.extractLsb'_toNat, htop]; rfl
    rw [← Option.some.inj h, BitVec.extractLsb'_toNat, Nat.shiftRight_eq_div_pow]
    have := x.isLt
    omega

/-! ### The chapter's own majors -/

theorem parseControl_fields (w : Word) (m : Nat) :
    Yields (fun i => TrapFields w m i ∧ zipRange i = none) (parseControl w m) := by
  unfold parseControl
  split <;> simp [parse0, parseAB, TrapFields, trapMajor, trapBody, zipRange, fMod, extractLsb'_eq_iff]
  -- TRAP, TRET and BKPT: the fields of the body as one number
  all_goals omega

/-- The specifiers of a word with b and mod zero, and its low 25 bits. -/
theorem plain_specifiers {w : Word} (hb : fB w = 0) (hmod : fMod w 0 15 = 0) {d a : BitVec 8} (hd : vOf (fDst w) = some d)
    (ha : vOf (fA w) = some a) :
    w.toNat / 2 ^ 35 % 1024 = d.toNat ∧ w.toNat / 2 ^ 25 % 1024 = a.toNat ∧ w.toNat % 2 ^ 25 = 0 := by
  have hd' := vOf_eq_some hd
  have ha' := vOf_eq_some ha
  rw [fDst, toNat_extractLsb'] at hd'
  rw [fA, toNat_extractLsb'] at ha'
  rw [fB, extractLsb'_eq_iff] at hb
  rw [fMod, extractLsb'_eq_iff] at hmod
  have hzero : ∀ n, (0 : BitVec n).toNat = 0 := fun _ => rfl
  rw [hzero] at hb hmod
  omega

theorem parseCross_fields (w : Word) (m : Nat) :
    Yields (fun i => ZipFields w m i ∧ trapMajor i = 0) (parseCross w m) := by
  unfold parseCross
  split <;> simp [parseDAB, ZipFields, zipRange, zipMajor, trapMajor]
  -- ZIP and UNZIP of two, three and four registers
  all_goals exact fun hb hmod _ hd _ ha => plain_specifiers hb hmod hd ha

theorem parse_of_decode {w : Word} {i : Instr} (h : decode w = some i) : parse w = some i ∧ i.wf = true := by
  simp only [decode] at h
  split at h
  case h_1 => cases h
  case h_2 j hj =>
    split at h
    case isTrue hwf => cases h; exact ⟨hj, hwf⟩
    case isFalse => cases h

/-- A word that decodes to a trap word, or to ZIP or UNZIP, has its major and its fields. -/
theorem decode_fields {w : Word} {i : Instr} (h : decode w = some i) :
    i.wf = true ∧ TrapFields w (w.toNat / 2 ^ 56) i ∧ ZipFields w (w.toNat / 2 ^ 56) i := by
  obtain ⟨hp, hwf⟩ := parse_of_decode h
  refine ⟨hwf, ?_⟩
  simp only [parse] at hp
  split at hp
  case isTrue =>
    have hpair : Yields Common ((parseHalf (w.extractLsb' 0 30)).bind fun h0 => (parseHalf (w.extractLsb' 30 30)).bind fun h1 =>
        some (.pairWord (w.extractLsb' 61 2) (w.extractLsb' 60 1 == 1) h0 h1)) := by
      simp [Common, trapMajor, zipRange]
    exact (hpair i hp).fields _ _
  case isFalse hpair =>
    rw [← major_of_unpaired hpair] at hp
    split at hp
    · obtain ⟨htrap, hzip⟩ := parseControl_fields _ _ i hp
      exact ⟨htrap, fun d n a hr => by simp [hzip] at hr⟩
    split at hp
    · exact (parseLane_common _ _ i hp).fields _ _
    split at hp
    · obtain ⟨hzip, htrap⟩ := parseCross_fields _ _ i hp
      exact ⟨fun hne => absurd htrap hne, hzip⟩
    split at hp
    · exact (parseMemory_common _ _ i hp).fields _ _
    split at hp
    · exact (parseMass_common _ _ i hp).fields _ _
    · exact (parseQueues_common _ _ i hp).fields _ _

end Sys2Proof.Safety
end

section
/-! PROOFS. ZIP and UNZIP (07 R126): the range that they write, and the checks of their ranges. -/
namespace Sys2Proof.Safety
open Sys2Proof.Machine Sys2Proof.Claims

/-! ### The write of a range -/

/-- The warp with `k` registers from `d` on written in the lanes of a mask. -/
def writeRange (w : Warp) (k d : Nat) (m : LaneMask) (f : Nat → Nat → Word) : Warp :=
  (List.range k).foldl (fun w i => w.writeV (d + i) m (f i)) w

theorem writeRange_succ (w : Warp) (k d : Nat) (m : LaneMask) (f : Nat → Nat → Word) :
    writeRange w (k + 1) d m f = (writeRange w k d m f).writeV (d + k) m (f k) := by
  simp only [writeRange, List.range_succ, List.foldl_append, List.foldl_cons, List.foldl_nil]

theorem readV_writeRange (w : Warp) (k d : Nat) (m : LaneMask) (f : Nat → Nat → Word) (r l : Nat) (hl : l < 64) :
    (writeRange w k d m f).readV r l =
      if d ≤ r ∧ r < d + k ∧ m.getLsbD l = true then f (r - d) l else w.readV r l := by
  induction k with
  | zero =>
    have hnone : ¬(d ≤ r ∧ r < d + 0 ∧ m.getLsbD l = true) := by omega
    rw [if_neg hnone]
    rfl
  | succ k ih =>
    rw [writeRange_succ, readV_writeV _ _ _ _ _ _ hl, ih]
    by_cases hr : r = d + k
    · subst hr
      simp
    · have hlt : r < d + (k + 1) ↔ r < d + k := by omega
      simp only [hr, false_and, if_false, hlt]

/-- The write of a range changes v registers alone. -/
theorem writeRange_v (w : Warp) (k d : Nat) (m : LaneMask) (f : Nat → Nat → Word) :
    ∃ v, writeRange w k d m f = { w with v := v } := by
  induction k with
  | zero => exact ⟨w.v, rfl⟩
  | succ k ih =>
    obtain ⟨v, hv⟩ := ih
    rw [writeRange_succ, hv]
    exact ⟨_, rfl⟩

/-- What a word that writes a range of registers leaves. -/
def WritesRange (i : Instr) (s : State) (c : Ctx) (d n : Nat) (f : Nat → Nat → Word) : Prop :=
  ∃ t g, exec i s = .next t ∧ Performed s t c g ∧ RegsOnly c.w g ∧ g.s = c.w.s ∧ g.p = c.w.p ∧ g.x = c.w.x ∧
    ∀ r l, l < 64 → g.readV r l = if d ≤ r ∧ r < d + n ∧ c.act.getLsbD l = true then f (r - d) l else c.w.readV r l

theorem rangeBody_writes {i : Instr} {c : Ctx} {s : State} (h : Issues i s c) {n : Nat} {d : BitVec 8}
    {f : Nat → Nat → Word} {g : Nat → Nat → Ctx → Word} (he : exec i s = issueWord i (rangeBody n d g) s)
    (hfg : ∀ r l, g r l c = f r l) : WritesRange i s c d.toNat n f := by
  obtain ⟨v, hv⟩ := writeRange_v c.w n d.toNat c.act (fun r l => g r l c)
  have hfront : (writeRange c.w n d.toNat c.act (fun r l => g r l c)).frontier = c.w.frontier := by rw [hv]
  have hspilled : (writeRange c.w n d.toNat c.act (fun r l => g r l c)).spilled = c.w.spilled := by rw [hv]
  have hp := after_done h (fun w => writeRange w n d.toNat c.act (fun r l => g r l c)) [] hfront hspilled
  refine ⟨_, _, he.trans (issueWord_passes h), hp, ?_, ?_, ?_, ?_, fun r l hl => ?_⟩
  · rw [hv]; rfl
  · rw [hv]
  · rw [hv]
  · rw [hv]
  · rw [readV_writeRange _ _ _ _ _ _ _ hl, hfg]

/-! ### The words' effects -/

theorem zipElem_eq (k a r l : Nat) (c : Ctx) : zipElem k a r l c = c.w.readV (a + (64 * r + l) % k) ((64 * r + l) / k) := by
  simp only [zipElem, Nat.mul_comm r 64]

theorem unzipElem_eq (k a r l : Nat) (c : Ctx) : unzipElem k a r l c = c.w.readV (a + (k * l + r) / 64) ((k * l + r) % 64) := by
  simp only [unzipElem, Nat.mul_comm l k]

/-- ZIP and UNZIP read their sources and then write their ranges (07 R126). -/
theorem zipEffect_writes {i : Instr} {d n : Nat} {f : Ctx → Nat → Nat → Word} (he : zipEffect i = some (d, n, f)) {s : State}
    {c : Ctx} (hi : Issues i s c) : WritesRange i s c d n (f c) := by
  unfold zipEffect at he
  split at he <;> cases he
  case h_1 | h_2 | h_3 => exact rangeBody_writes hi rfl (fun r l => zipElem_eq _ _ r l c)
  case h_4 | h_5 | h_6 => exact rangeBody_writes hi rfl (fun r l => unzipElem_eq _ _ r l c)

/-! ### The checks of the ranges -/

/-- What the checks of 03 R65 see of a ZIP or UNZIP word: its two ranges. -/
structure RangeWord (i : Instr) (d n a : Nat) : Prop where
  legal : i.wf = true → d + n ≤ 256 ∧ a + n ≤ 256
  illegal : illegalCause i = 1
  mode : ∀ c, stateIllegal i c = false
  lanes : ∀ w e half, pairLanes w e i half = guardLanes w e (hdrOf i).guard (hdrOf i).gn
  index : ∀ w, indexFault i w = [Fld.range d n, Fld.range a n].findSome? (Fld.outside w)
  issue : ∃ body, ∀ s, exec i s = issueWord i body s

theorem zipRange_word {i : Instr} {d n a : Nat} (h : zipRange i = some (d, n, a)) : RangeWord i d n a := by
  unfold zipRange at h
  split at h <;> cases h
  all_goals exact
    { legal := fun hwf => by
        simp only [Instr.wf, Bool.and_eq_true, decide_eq_true_eq] at hwf
        omega
      illegal := rfl
      mode := fun _ => rfl
      lanes := fun _ _ _ => rfl
      index := fun _ => rfl
      issue := ⟨_, fun _ => rfl⟩ }

/-- The INDEX check of two ranges names the first specifier of the range at fault (07 R126). -/
theorem ranges_outside {w : Warp} {d n a : Nat} (h : w.nregs < d + n ∨ w.nregs < a + n) :
    [Fld.range d n, Fld.range a n].findSome? (Fld.outside w) = some (if w.nregs < d + n then d else a) := by
  by_cases hd : w.nregs < d + n
  · simp [Fld.outside, hd]
  · simp [Fld.outside, hd, h.resolve_left hd]

/-- A range that passes v255 ends the launch with ILLEGAL. -/
theorem zip_illegal {i : Instr} {d n a : Nat} (hr : zipRange i = some (d, n, a)) (hout : 256 < d + n ∨ 256 < a + n)
    {s : State} {w : Warp} {e : Entry} (hissuer : s.issuer = some (w, e)) (hfree : w.heldUp = false)
    (hopen : (s.launch (s.ctx w e (hdrOf i)).lid).open_ = true) :
    ∃ t, exec i s = .next t ∧ ended s t (s.ctx w e (hdrOf i)).lid 1 := by
  have hword := zipRange_word hr
  obtain ⟨body, hexec⟩ := hword.issue
  have hwf : i.wf = false := by
    rw [Bool.eq_false_iff]
    intro hwf
    have := hword.legal hwf
    omega
  have hheld : (s.ctx w e (hdrOf i)).w.heldUp = false := by rw [ctx_warp]; exact hfree
  exact ⟨_, (hexec s).trans ((issueWord_issuer hissuer body).trans
    (congrArg Host.Outcome.next (runWord_illegal body hheld hwf hword.illegal))),
    stop_ended i { s.ctx w e (hdrOf i) with word := encode i } s 1 0 hopen⟩

/-- A range that reaches the declared register count traps with INDEX. -/
theorem zip_index {i : Instr} {d n a : Nat} (hr : zipRange i = some (d, n, a)) {s : State} {w : Warp} {e : Entry}
    (hissuer : s.issuer = some (w, e)) (hfree : w.heldUp = false) (hwf : i.wf = true)
    (hwindow : lookaheadFault i w = none)
    (hready : blockOf i w = none) (hout : w.nregs < d + n ∨ w.nregs < a + n) {c : Ctx}
    (hc : c = { s.ctx w e (hdrOf i) with word := encode i }) (hcan : canTrap c) :
    ∃ t, exec i s = .next t ∧ Elsewhere s t ∧
      uncounted (t.issuerWarp s.cur) = delivered c 3 c.act (BitVec.ofNat 64 (if w.nregs < d + n then d else a)) := by
  have hword := zipRange_word hr
  obtain ⟨body, hexec⟩ := hword.issue
  have hcw : c.w = w := by rw [hc]; exact ctx_warp s w e _
  have hwho : c.who = s.cur := by rw [hc]; exact ctx_who s w e _
  have hlanes : c.act = guardLanes c.w c.e (hdrOf i).guard (hdrOf i).gn := by rw [hcw, hc]; exact ctx_act s w e _
  obtain ⟨helse, hdel⟩ := trap_delivered (i := i) hwho ((issuer_warp hissuer).trans hcw.symm) hcan 3 c.act
    (BitVec.ofNat 64 (if w.nregs < d + n then d else a))
  refine ⟨_, (hexec s).trans ?_, helse, hdel⟩
  subst hcw
  have hindex := (hword.index c.w).trans (ranges_outside hout)
  rw [issueWord_issuer hissuer, ← hc, runWord_index body hfree hcan.1 hwf (hword.mode c) hwindow hready hindex, hword.lanes,
    ← hlanes]

/-- Settles O4: the six words' effects by what the write of a range leaves, their encoding by the decoder's fields, and the two
checks of their ranges by the order of 03 R65. -/
theorem zipRanges : Obligations.ZipRanges := by
  unfold Obligations.ZipRanges
  refine ⟨fun i d n f he s c hi => zipEffect_writes he hi, fun i d n a hr => ⟨fun x hx => ?_, ?_, ?_⟩⟩
  · obtain ⟨hwf, -, hzip⟩ := decode_fields hx
    obtain ⟨hmajor, hd, ha, hzero⟩ := hzip d n a hr
    exact ⟨hmajor, hd, ha, hzero, (zipRange_word hr).legal hwf⟩
  · exact fun hout s w e hissuer hfree hopen => zip_illegal hr hout hissuer hfree hopen
  · exact fun s w e hissuer hfree hwf hwindow hready hout hcan =>
      zip_index hr hissuer hfree hwf hwindow hready hout rfl hcan

end Sys2Proof.Safety
end

section
/-! PROOFS. TRAP, BKPT and TRET (07 R145, R146), and what NOP does to the gap of a warp whose spilled entries come back
(07 R138; 02 R34). -/
namespace Sys2Proof.Safety
open Sys2Proof.Machine Sys2Proof.Claims

/-! ### What a word's answer makes of the warp -/

/-- A word whose body does nothing only advances. -/
theorem becomes_of_done {i : Instr} {s : State} {c : Ctx} (hi : Issues i s c) {body : Ctx → State → Res}
    (hexec : exec i s = issueWord i body s) (hbody : body c s = .done s []) : Becomes i s c c.w := by
  refine ⟨_, hexec.trans (issueWord_passes hi), ?_⟩
  rw [hbody]
  exact after_nothing hi []

/-- A word whose body traps delivers the trap. -/
theorem delivers_of_trap {i : Instr} {s : State} {c : Ctx} (hi : Issues i s c) {body : Ctx → State → Res} {cause : Nat}
    {lns : LaneMask} {info : Word} (hexec : exec i s = issueWord i body s) (hbody : body c s = .trap s cause lns info)
    (hcan : canTrap c) :
    ∃ t, exec i s = .next t ∧ Elsewhere s t ∧ uncounted (t.issuerWarp s.cur) = delivered c cause lns info := by
  refine ⟨_, hexec.trans (issueWord_passes hi), ?_⟩
  rw [hbody]
  exact hi.trap_delivered hcan cause lns info

/-- The issuing warp after a word that sets its frontier itself. -/
theorem after_stay {i : Instr} {c : Ctx} {s : State} (hi : Issues i s c) (g : Warp → Warp) :
    Elsewhere s ((Res.stay (s.modIssuer c.who g) []).apply i c) ∧
      steady (((Res.stay (s.modIssuer c.who g) []).apply i c).issuerWarp s.cur) = steady (g c.w) ∧
      (((Res.stay (s.modIssuer c.who g) []).apply i c).issuerWarp s.cur).frontier = (g c.w).frontier ∧
      (((Res.stay (s.modIssuer c.who g) []).apply i c).issuerWarp s.cur).spilled = (g c.w).spilled := by
  have hwho := hi.who
  have hpresent : Present s c.who := hwho ▸ hi.present
  have hg : (s.modIssuer c.who g).issuerWarp c.who = g c.w := by rw [issuerWarp_modIssuer hpresent, hwho, hi.warp]
  obtain ⟨helse, hwarp⟩ := after_finish hi (hwho ▸ elsewhere_modIssuer s g) (present_modIssuer hpresent g) hg [] id
  have hissued := issued_frontier (g c.w) s.now i c.e.pc []
  exact ⟨helse, (steady_unscheduled hwarp).trans (steady_issued ..), (congrArg Warp.frontier hwarp).trans hissued.1,
    (congrArg Warp.spilled hwarp).trans hissued.2⟩

/-! ### TRAP and BKPT -/

/-- TRAP, and BKPT under the debug flag, raise USER with the active lanes and their code. -/
theorem userTrap_delivers {i : Instr} {s : State} {c : Ctx} {info : Word} (hi : Issues i s c)
    (hu : userTrap c i = some info) (hact : c.act ≠ 0) (hcan : canTrap c) :
    ∃ t, exec i s = .next t ∧ Elsewhere s t ∧ uncounted (t.issuerWarp s.cur) = delivered c 6 c.act info := by
  unfold userTrap at hu
  split at hu
  case h_1 =>
    cases hu
    exact delivers_of_trap hi rfl (by simp only [hact, if_false]) hcan
  case h_2 =>
    split at hu
    case isTrue hdebug =>
      cases hu
      exact delivers_of_trap hi rfl (by simp only [hact, hdebug, Bool.true_eq_false, or_self, if_false]) hcan
    case isFalse => cases hu
  case h_3 => cases hu

theorem trap_inactive {h : Hdr} {code : BitVec 16} {s : State} {c : Ctx} (hi : Issues (.trap h code) s c) (hact : c.act = 0) :
    Becomes (.trap h code) s c c.w :=
  becomes_of_done hi rfl (by simp only [hact, if_true])

theorem bkpt_inactive {h : Hdr} {code : BitVec 16} {s : State} {c : Ctx} (hi : Issues (.bkpt h code) s c)
    (hoff : c.act = 0 ∨ c.launch.debug = false) : Becomes (.bkpt h code) s c c.w :=
  becomes_of_done hi rfl (by simp only [hoff, if_true])

/-- Settles O17: delivery and return by what a trap makes of the warp, the words without effect by their bodies, the encoding
by the decoder's fields. -/
theorem userTraps : Obligations.UserTraps := by
  unfold Obligations.UserTraps
  refine ⟨fun i s c info hi hu hact hcan => ⟨userTrap_delivers hi hu hact hcan, returnTrap_delivered_frontier c 6 c.act info⟩,
    ?_, fun h code x => ⟨fun hx => ?_, fun hx => ?_⟩⟩
  · rintro i s c hi ⟨h, code, ⟨rfl, hact⟩ | ⟨rfl, hoff⟩⟩
    · exact trap_inactive hi hact
    · exact bkpt_inactive hi hoff
  · obtain ⟨-, htrap, -⟩ := decode_fields hx
    exact htrap (show 0x0A ≠ 0 by decide)
  · obtain ⟨-, htrap, -⟩ := decode_fields hx
    exact htrap (show 0x0C ≠ 0 by decide)

/-! ### TRET -/

theorem exec_tret {i : Instr} {skip : Bool} (h : tretSkips i = some skip) (s : State) :
    exec i s = issueWord i (tretBody skip) s := by
  unfold tretSkips at h
  split at h <;> cases h <;> rfl

/-- TRET in a trap handler that has reconverged puts the saved frontier back. -/
theorem tret_returns {i : Instr} {skip : Bool} {s : State} {c : Ctx} {v : SavedTrap} (hi : Issues i s c)
    (hs : tretSkips i = some skip) (hact : c.act ≠ 0) (hin : c.w.trap.intrap = true) (hone : c.w.frontier.length = 1)
    (hnone : c.w.spilled = []) (hsaved : c.w.trap.saved = some v) :
    ∃ t, exec i s = .next t ∧ Elsewhere s t ∧ steady (t.issuerWarp s.cur) = steady (restored c.w v) ∧
      Branched s { c with w := { c.w with frontier := v.frontier, spilled := v.spilled }, e := v.e }
        [{ v.e with pc := if skip then c.w.trap.pc + 8 else c.w.trap.pc }] (t.issuerWarp s.cur) := by
  have hbody : tretBody skip c s = .stay (s.modIssuer c.who (fun w => returnTrap w s.now skip)) [] := by
    have hok : ¬(c.w.trap.intrap = false ∨ (c.w.frontier ++ c.w.spilled).length > 1) := by simp [hin, hone, hnone]
    simp only [tretBody, hact, hok, if_false]
  obtain ⟨helse, hsteady, hfront, hspilled⟩ := after_stay hi (fun w => returnTrap w s.now skip)
  rw [returnTrap_saved hsaved] at hsteady hfront hspilled
  refine ⟨_, (exec_tret hs s).trans (issueWord_passes hi), ?_⟩
  rw [hbody]
  have hreplace := replaceEntry_frontier (w := { c.w with frontier := v.frontier, spilled := v.spilled })
    (g := restored c.w v) rfl rfl s.now v.e [{ v.e with pc := if skip then c.w.trap.pc + 8 else c.w.trap.pc }]
  exact ⟨helse, hsteady.trans (steady_replaceEntry ..), hfront.trans hreplace.1, hspilled.trans hreplace.2⟩

theorem tret_inactive {i : Instr} {skip : Bool} {s : State} {c : Ctx} (hi : Issues i s c) (hs : tretSkips i = some skip)
    (hact : c.act = 0) : Becomes i s c c.w :=
  becomes_of_done hi (exec_tret hs s) (by simp only [tretBody, hact, if_true])

/-- TRET outside a trap, or before its handler has reconverged, ends the launch with ILLEGAL. -/
theorem tret_illegal {i : Instr} {skip : Bool} {s : State} {c : Ctx} (hi : Issues i s c) (hs : tretSkips i = some skip)
    (hact : c.act ≠ 0) (hbad : c.w.trap.intrap = false ∨ 1 < c.w.frontier.length + c.w.spilled.length)
    (hopen : (s.launch c.lid).open_ = true) : ∃ t, exec i s = .next t ∧ ended s t c.lid 1 := by
  have hbody : tretBody skip c s = .stop s 1 0 := by
    simp only [tretBody, hact, if_false, List.length_append, gt_iff_lt, hbad, if_true]
  refine ⟨_, (exec_tret hs s).trans (issueWord_passes hi), ?_⟩
  rw [hbody]
  exact stop_ended i c s 1 0 hopen

theorem tret_fields {i : Instr} {skip : Bool} (hs : tretSkips i = some skip) :
    trapMajor i = 0x0B ∧ trapBody i = if skip then 0x1000 else 0 := by
  unfold tretSkips at hs
  split at hs <;> cases hs <;> exact ⟨rfl, rfl⟩

/-- Settles O18: TRET's three answers by its body's cases, the encoding by the decoder's fields. -/
theorem trapReturn : Obligations.TrapReturn := by
  unfold Obligations.TrapReturn
  refine ⟨fun i skip s c v hi hs hact hin hone hnone hsaved => tret_returns hi hs hact hin hone hnone hsaved,
    fun i skip s c hi hs hact => tret_inactive hi hs hact,
    fun i skip s c hi hs hact hbad hopen => tret_illegal hi hs hact hbad hopen, fun i skip x hs hx => ?_⟩
  obtain ⟨-, htrap, -⟩ := decode_fields hx
  obtain ⟨hmajor, hbody⟩ := tret_fields hs
  obtain ⟨hx56, hx45⟩ := htrap (by rw [hmajor]; decide)
  exact ⟨hx56.trans hmajor, hx45.trans hbody⟩

/-! ### NOP with a spilled entry -/

/-- One of seventeen entries at consecutive words, each with one lane. -/
def crowdEntry (k : Nat) : Entry := { prio := 0, pc := BitVec.ofNat 64 (0x20000 + 8 * k), lanes := BitVec.ofNat 64 (2 ^ k) }

/-- The loaded program's warp with a full frontier and one spilled entry (02 R34). -/
def crowdWarp : Warp :=
  { (State.reset.loaded.warp 0 0) with frontier := (List.range 16).map crowdEntry, spilled := [crowdEntry 16] }

def crowded : State := State.reset.loaded.setWarp 0 0 crowdWarp

/-- The context in which it issues NOP, without a gap, at its first entry. -/
def crowdCtx : Ctx := { crowded.ctx crowdWarp (crowdEntry 0) noHdr with word := encode (.nop noHdr) }

theorem crowded_issues : Issues (.nop noHdr) crowded crowdCtx := by
  refine ⟨⟨crowdWarp, crowdEntry 0, by decide +kernel, rfl⟩, ?_⟩
  exact
    { free := by decide +kernel, legal := by decide, front := by decide +kernel, mode := rfl
      window := by decide +kernel, ready := by decide +kernel, declared := rfl, sound := by decide }

/-- The end of the gap of the warp in slot 0 of core 0 after a step. -/
def gapAfter : Out → Nat
  | .next t => (t.warp 0 0).sched.gapUntil
  | _ => 0

/-- The first entry advances to the second, which it merges with; the spilled entry comes back into the free place, for 20
cycles (02 R34). -/
theorem crowded_gap : gapAfter (exec (.nop noHdr) crowded) = 21 := by decide +kernel

/-- Refutes O16: where NOP's advance merges two entries of a full frontier, a spilled entry is refilled, which holds the warp
for 20 cycles (02 R34), beyond the end that the statement gives the gap: 1, of a NOP without GAP at cycle 0. -/
theorem not_nothingActive : ¬ Obligations.NothingActive := by
  unfold Obligations.NothingActive
  rintro ⟨-, hnop, -⟩
  obtain ⟨t, hexec, hgap, -⟩ := hnop noHdr crowded crowdCtx 0 0 crowded_issues (by decide +kernel)
  have hlong : (t.warp 0 0).sched.gapUntil = 21 := by
    have := crowded_gap
    rwa [hexec] at this
  have hshort : max crowdCtx.w.sched.gapUntil (crowded.now + 1 + noHdr.gap.toNat) = 1 := by decide +kernel
  omega

end Sys2Proof.Safety
end
